-- ==== Sys2Proof/Word.lean ====
section
/-! DEFINITION. The plain value types every other file uses: bytes, 32-bit register words, 64-bit values, and the
two list shapes that hold sparse data (a table keyed by numbers, and bytes keyed by addresses). -/
namespace Sys2Proof

/-- One byte. -/
abbrev Byte := BitVec 8

/-- A register word (R13). -/
abbrev Word := BitVec 32

/-- A 64-bit value: addresses in packets, phase stamps, FP64 values. -/
abbrev DWord := BitVec 64

/-- A 512-bit digest (SHA3-512, R399). -/
abbrev Digest := BitVec 512

/-- A sparse table: pairs of a key and a value, keys strictly rising, no value equal to what an unlisted key holds. -/
abbrev Tbl (α : Type) := List (Nat × α)

/-- Bytes by address: pairs in the canonical form of a table whose unlisted addresses read 0. -/
abbrev Mem := List (Nat × Byte)

end Sys2Proof
end

