-- ==== Sys2Proof/Image.lean ====
section
/-! DEFINITION. What a Viruk image declares, as plain data: the envelope that is verified (R407) and the body's
declarations, each structure named after the rule of spec/ that lays it out. The spec gives the body no byte layout as a
whole (log entry 4), so the loader's input is this structure. -/
namespace Sys2Proof

/-- One signature block of an envelope (R407): who signs, the hash of its public key, and whether the ML-DSA-87
signature over the header digest is genuine. -/
structure Sig where
  signer  : Nat := 0
  keyHash : Digest := 0
  genuine : Bool := true
  deriving DecidableEq, Repr

/-- The image envelope (R407). `bodyHash` is the SHA3-512 of the body as stored; `tagOk` says whether the AES-256-GCM tag
of an encrypted body is right under wrapped key KEY_SLOT (R410). -/
structure Envelope where
  magic        : Word := 0x4B535957
  type         : Byte := 0x10
  encrypted    : Bool := false
  detRequired  : Bool := false
  reservedZero : Bool := true
  svnIndex     : Nat := 0
  keySlot      : Nat := 0
  svn          : Word := 0
  length       : Word := 0
  bodyDigest   : Digest := 0
  bodyHash     : Digest := 0
  headerDigest : Digest := 0
  sigs         : List Sig := []
  tagOk        : Bool := true
  deriving DecidableEq, Repr

/-- One line of a translation table or image map (R316). -/
structure VidMap where
  vid     : Nat
  counter : Nat
  sig     : Bool := true
  wait    : Bool := true
  deriving DecidableEq, Repr

/-- A partition of the image (R28, R127, R132, R142, R165, R308, R310, R374). `stageAt` gives the SPA at which its staging slots begin in
each logical region that holds a part of them. -/
structure PartCfg where
  id         : Nat
  regions    : List Nat := []
  contexts   : List Nat := []
  qmax2      : Nat := 256
  qmax3      : Nat := 256
  busyAgeNs  : Nat := 2000000
  share3     : Nat := 0
  seqQuota   : Nat := 0
  strmQuota  : Nat := 0
  stageSlots : Nat := 0
  stageAt    : List (Nat × Nat) := []
  kvBase     : Nat := 0
  kvLen      : Nat := 0
  lpBase     : Nat := 0
  lpLen      : Nat := 0
  memSlots   : Bool := true
  safeDepend : BitVec 8 := 0
  imageMap   : List VidMap := []
  deriving DecidableEq, Repr

/-- A cycle-table entry (R271). -/
structure Entry where
  offset : Nat
  action : Nat
  cls    : Nat := 1
  part   : Nat := 0
  target : Nat := 0
  div    : Nat := 1
  sel    : Nat := 0
  stage  : Nat := 0
  wdUnit : Bool := false
  wdMin  : Nat := 0
  wdMax  : Nat := 0
  deriving DecidableEq, Repr

/-- A table of the image (R270, R279): its period, its entries, and the tables of other domains it was admitted with. -/
structure TableCfg where
  period   : Nat
  entries  : List Entry := []
  admitted : List (Nat × Nat) := []
  deriving DecidableEq, Repr

/-- A phase domain of the image (R252, R253, R264). `tables` are indices into the image's tables, the first one active at load. -/
structure DomCfg where
  d       : Nat
  source  : Nat := 0
  sel     : Nat := 0
  ps      : Nat := 0
  word    : Nat := 0
  zsync   : Bool := false
  ztol    : Nat := 0
  disc    : Nat := 0
  discSel : Nat := 0
  owner   : Nat := 0
  loss    : Nat := 0
  maxRate : Nat := 0
  tables  : List Nat := []
  deriving DecidableEq, Repr

/-- A fetch-slot descriptor (R295). -/
structure FetchDesc where
  mask   : DWord
  perCtx : Nat := 16
  total  : Nat := 256
  deriving DecidableEq, Repr

/-- A layer numeric descriptor as its 64 bytes (R68) and what its offsets name are read: `anchors` holds (A, q) of the column
groups of a region's columns (R60), `scaleRows` the block scales of each of those columns, BF16 or INT8 codes (R48). -/
structure LayerDesc where
  layerId     : Nat := 0
  mode        : Nat := 0
  fallback    : Bool := false
  scaleInt8   : Bool := false
  actFp16     : Bool := false
  opnd2Fp16   : Bool := false
  lossLimit   : Nat := 0
  secondScale : Word := 0
  blocks      : Nat := 1
  colGroups   : Nat := 1
  anchorTable : Nat := 0
  codebookAt  : Nat := 0
  scalesAt    : Nat := 0
  reduction   : Nat := 1
  wideCopy    : Nat := 0
  anchors     : List (Int × Int) := []
  codebook    : List (BitVec 16) := []
  scaleRows   : List (List (BitVec 16)) := []
  deriving DecidableEq, Repr

/-- The part of a compiled pass that one logical region runs: the window of its tasks in the region (R104), where the layer
numeric descriptor, each activation vector and each stored column of weights lie in it, the first result and the number of results
that the region gives for each position, where its FP32 results go, and the clusters of its array that it uses. -/
structure Share where
  lreg     : Nat := 0
  base     : Nat := 0
  bound    : Nat := 0
  desc     : Nat := 0
  acts     : List Nat := []
  weights  : List Nat := []
  first    : Nat := 0
  count    : Nat := 1
  out      : Option Nat := none
  clusters : List Nat := [0, 1, 2, 3]
  deriving DecidableEq, Repr

/-- What a compiled pass is for: a product, a product whose results are the keys (0) or values (1) of a layer (R141), or the attention of
a layer's positions (R147), whose queries and outputs the shares place and whose format `fp16` gives. -/
inductive PassUse where
  | product
  | kv (layer kind : Nat)
  | attn (layer : Nat) (fp16 : Bool)
  deriving DecidableEq, Repr

/-- A compiled layer pass (R61, R75, R78, R85, R92, R109): its unit, shape, direction, vector interval and port mode, whether
its descriptor declares a narrow activation, key-value or state operand (R45), what it is for, which positions of a step it serves (0 all, 1
token positions, 2 chunk positions), the passes of the same work whose results it uses, the regions that run it, and, where it begins a
segment of a template, the segment's compiled time in hub cycles (R278). -/
structure PassCfg where
  onMvu    : Bool := false
  shape    : Nat := 3
  backward : Bool := false
  interval : Nat := 1
  portMode : Nat := 0
  narrow   : Bool := false
  use      : PassUse := .product
  serves   : Nat := 0
  after    : List Nat := []
  shares   : List Share := []
  segment  : Option Nat := none
  deriving DecidableEq, Repr

/-- The class 0 residual policy in the code buffer of the C0 region's MVU (R91, R112): the buffer's contents, where the layer
numeric descriptor and each column's codes lie in it. -/
structure PolicyCfg where
  data    : List Byte := []
  desc    : Nat := 0
  weights : List Nat := []
  deriving DecidableEq, Repr

/-- A transfer descriptor (R114). -/
structure XferDesc where
  kind      : Nat := 0
  signal    : Bool := false
  zero      : Bool := false
  syncId    : Nat := 0
  rowBytes  : Nat := 64
  rows      : Nat := 1
  remotePkg : Nat := 0
  spOffset  : Nat := 0
  spStride  : Nat := 0
  farStride : Nat := 0
  farAddr   : Nat := 0
  deriving DecidableEq, Repr

/-- An address-generator descriptor (R116). -/
structure AgenDesc where
  op       : Nat := 1
  elem     : Nat := 1
  client   : Nat := 0
  signal   : Bool := false
  padSel   : Bool := false
  poolKind : Nat := 0
  src      : Nat := 0
  dst      : Nat := 0
  n        : Nat := 1
  h        : Nat := 1
  w        : Nat := 1
  c        : Nat := 1
  kh       : Nat := 1
  kw       : Nat := 1
  sh       : Nat := 1
  sw       : Nat := 1
  dh       : Nat := 1
  dw       : Nat := 1
  pt       : Nat := 0
  pb       : Nat := 0
  pl       : Nat := 0
  pr       : Nat := 0
  rowPitch : Nat := 0
  imgPitch : Nat := 0
  dstPitch : Nat := 0
  oy0      : Nat := 0
  oyCnt    : Nat := 1
  oh       : Nat := 1
  ow       : Nat := 1
  padValue : BitVec 16 := 0
  syncId   : Nat := 0
  deriving DecidableEq, Repr

/-- What a compiled task does (R272, R306, R331, R339): a matrix pass (array or MVU), the transfer or the address-generator
descriptor at an offset of its window (R114, R116), an IMAGE stream pool step, a VPU task, a scalar task of a tile core (R76), the
measurement of a solver problem, the consumer of a camera batch, or a decode task. -/
inductive TaskKind where
  | pass (cfg : PassCfg)
  | xfer (offset : Nat)
  | agen (offset : Nat)
  | strmPool (model : Nat)
  | vpu
  | scalar (tile : Nat)
  | meas (slot : Nat)
  | consumer (batch : Nat)
  | decode (batch : Nat)
  deriving DecidableEq, Repr

/-- A compiled task (R104, R109, R115, R272, R306): its window in the slot of the unit that runs it, its LPDDR window as an
offset and a length in the LPDDR given to its partition, and the port mode of work that is no matrix pass. -/
structure TaskCfg where
  index    : Nat
  cls      : Nat := 1
  part     : Nat := 0
  lreg     : Nat := 0
  kind     : TaskKind := .vpu
  winBase  : Nat := 0
  winBound : Nat := 0
  lpBase   : Nat := 0
  lpLen    : Nat := 0
  portMode : Nat := 0
  signals  : List Nat := []
  deriving DecidableEq, Repr

/-- The program and the descriptors of a tile core, which its local memory holds (R76). -/
structure TileProg where
  lreg : Nat
  tile : Nat
  data : List Byte := []
  deriving DecidableEq, Repr

/-- A serving template (R31, R133, R152). `passes` are its compiled passes in order; position i of a step is vector i of each. Position i's
token identifier stands at SPA `tokAt` + 4 × i, the index list of the token gather (R153), its positional index (R128) at `posAt` + 4 × i, and its
output-stage inputs are the `outLen` FP32 values at SPA `outAt` + 4 × `outLen` × i. -/
structure Template where
  seqMax   : Nat
  tokMax   : Nat
  chkMax   : Nat
  time     : Nat
  timeVar  : Nat := 0
  c3PerPos : Nat := 0
  features : Bool := false
  passes   : List PassCfg := []
  tokAt    : Option Nat := none
  posAt    : Option Nat := none
  outAt    : Nat := 0
  outLen   : Nat := 0
  deriving DecidableEq, Repr

/-- A serving model (R131, R140, R161). `layerRegs` names the logical region that runs each layer and holds its staging (R142). -/
structure ModelCfg where
  index     : Nat
  part      : Nat
  maxLen    : Nat
  layers    : Nat
  heads     : Nat
  dim       : Nat
  kvFp16    : Bool := false
  kvNarrow  : Bool := false
  vocab     : Nat := 0
  pooled    : Bool := false
  layerRegs : List Nat := []
  templates : List Template := []
  deriving DecidableEq, Repr

/-- A sparse descriptor (R150). -/
structure SparseDesc where
  window  : Nat
  globals : List Nat := []
  deriving DecidableEq, Repr

/-- A stream model (R168, R172, R173). Weights are FP32, row by row; `init` is INIT. `poolBase` is the SPA of the pool, `wBase` that of
the weights beside it;
`inBase` and `outBase` the SPAs of an IMAGE pool's input and output buffers, one vector for each slot in turn. -/
structure StrmModel where
  index      : Nat
  part       : Nat := 0
  cls        : Nat := 2
  expavg     : Bool := false
  len        : Nat := 1
  nu         : Nat := 1
  ny         : Nat := 1
  aMat       : List (List Word) := []
  bMat       : List (List Word) := []
  cMat       : List (List Word) := []
  dMat       : List (List Word) := []
  alpha      : List Word := []
  init       : List Word := []
  lreg       : Nat := 0
  poolSlots  : Nat := 256
  poolBase   : Nat := 0
  wBase      : Nat := 0
  inBase     : Nat := 0
  outBase    : Nat := 0
  samplesMax : Nat := 1
  deriving DecidableEq, Repr

/-- An IMAGE stream (R165, R168). -/
structure ImgStrm where
  handle : Nat
  model  : Nat
  home   : Nat := 0
  deriving DecidableEq, Repr

/-- A problem's declaration (R190, R191, R203): its slot and owner, the 128 bytes of its descriptor, its parameters, and, for a problem of
class 2 or 3, the phases of its domain's period between which it runs and its assembly engine works for it; the windows of a class 1
problem follow from its SOLVE entries. -/
structure ProbDecl where
  slot     : Nat
  part     : Nat := 0
  bytes    : List Byte := []
  params   : List DWord := []
  winStart : Nat := 0
  winEnd   : Nat := 0
  asmStart : Nat := 0
  asmEnd   : Nat := 0
  deriving DecidableEq, Repr

/-- A problem descriptor as it is read from its bytes (R191), with the instructions that MAT_PROG and VEC_PROG name, and the rest of the
declaration. -/
structure ProbDesc where
  slot       : Nat
  part       : Nat := 0
  op         : Nat := 1
  warm       : Bool := false
  keepFactor : Bool := false
  pair       : Bool := false
  n          : Nat := 1
  m          : Nat := 0
  lane       : Nat := 0
  cls        : Nat := 1
  refineMax  : Nat := 0
  staleLimit : Nat := 1
  iters      : Nat := 0
  horizon    : Nat := 1
  stepVars   : Nat := 0
  tauExp     : Int := -40
  domain     : Nat := 0
  measSync   : Nat := 0
  dlOffset   : Nat := 1
  paramBase  : Nat := 0
  paramLen   : Nat := 0
  progEnd    : Nat := 0
  measLen    : Nat := 0
  xInit      : Nat := 0
  measWait   : Nat := 0
  matProg    : List DWord := []
  vecProg    : List DWord := []
  epsRef     : DWord := 0
  epsAcc     : DWord := 0
  sigma      : DWord := 0
  rho        : DWord := 0
  outKind    : Nat := 0
  outAddr    : Nat := 0
  outSync    : Nat := 0
  outSignal  : Bool := false
  params     : List DWord := []
  winStart   : Nat := 0
  winEnd     : Nat := 0
  asmStart   : Nat := 0
  asmEnd     : Nat := 0
  deriving DecidableEq, Repr

/-- An axis group (R218, R219, R235). -/
structure GroupCfg where
  g      : Nat
  first  : Nat
  count  : Nat
  dual   : Bool := false
  policy : Bool := false
  part   : Nat := 0
  domain : Nat := 0
  deriving DecidableEq, Repr

/-- A signed 32-bit little-endian field at an offset of a holding register of a CAN FD controller or an Ethernet port, which the
control engine reads as an input (R221, R347, log entry 20). -/
structure BusIn where
  can  : Bool
  port : Nat
  reg  : Nat
  off  : Nat := 0
  deriving DecidableEq, Repr

/-- A loop slot's declarations (R245, R246): configuration and the initial coefficient words, in register order
KP_P, KI_P, KP_V, KI_V, KP_T, KI_T, LIM_P, LIM_V, LIM_T, FE_LIMIT, SUPV, OPEN_VALUE; `busP` and `busT` name the field-bus inputs
of a position and a torque measurement that no port feeds. -/
structure SlotCfg where
  n        : Nat
  cfg      : Word := 0
  ffMap    : Word := 0xFFFFFFFF
  io       : Word := 0
  coefs    : List Word := []
  busP     : Option BusIn := none
  busT     : Option BusIn := none
  deriving DecidableEq, Repr

/-- Configuration of an encoder port (R236, R237), a sample port (R238), a PWM output (R239, R240) and a fault input
(R241), as the words of R248; `monoNs` is the encoder's declared monoflop time (R237). -/
structure EncCfg where
  e      : Nat
  cfg    : Word
  lead   : Nat := 0
  monoNs : Nat := 0
  deriving DecidableEq, Repr

/-- A sample port (R238). -/
structure SpiCfg where
  p    : Nat
  cfg  : Word
  lead : Nat := 0
  deriving DecidableEq, Repr

/-- A PWM output (R239, R240). -/
structure PwmCfg where
  o      : Nat
  cfg    : Word
  period : Nat := 0
  deriving DecidableEq, Repr

/-- A fault input (R241). -/
structure FltCfg where
  f   : Nat
  cfg : Word
  deriving DecidableEq, Repr

/-- A camera port (R326). -/
structure CapPort where
  p     : Nat
  lanes : Nat
  rate  : Nat
  deriving DecidableEq, Repr

/-- Colour conversion and normalisation constants (R336), FP32. -/
structure PpeCfg where
  matrix : List Word := []
  offs   : List Word := []
  mean   : List Word := []
  scale  : List Word := []
  fp16   : Bool := false
  deriving DecidableEq, Repr

/-- A camera stream (R327, R329, R331, R338). `bufAddr` is the SPA of frame buffer 0, buffers following one another; `maxFps` is the
expected maximum frame rate in frames per 1,000 s, `maxLines` the maximum line rate in lines per second; `fits` says that Viruk has placed
its lane windows. -/
structure CamCfg where
  s        : Nat
  port     : Nat
  vc       : Nat
  dt       : Nat
  width    : Nat
  height   : Nat
  stampDom : Nat := 0
  mark     : Nat := 0
  maxAge   : Nat := 0
  nbuf     : Nat := 2
  band     : Nat := 0
  lanes    : Nat := 0
  part     : Nat := 0
  bufAddr  : Nat := 0
  bufSize  : Nat := 0
  maxFps   : Nat := 0
  maxLines : Nat := 0
  ppe      : PpeCfg := {}
  fits     : Bool := true
  deriving DecidableEq, Repr

/-- A batch buffer (R331, R333, R339): the streams of its slots (none for a decode batch), where it lies, the slot shape
of a decode task and the slots' mark-area offsets. -/
structure BatchCfg where
  b       : Nat
  slots   : List (Option Nat) := []
  part    : Nat := 0
  addr    : Nat := 0
  marks   : List Nat := []
  domain  : Nat := 0
  height  : Nat := 0
  width   : Nat := 0
  chans   : Nat := 0
  tensor  : Nat := 0
  fp16    : Bool := false
  ppe     : PpeCfg := {}
  deriving DecidableEq, Repr

/-- Where a matched CAN FD frame goes (R347). -/
inductive CanTarget where
  | queue (q : Nat)
  | holding (h : Nat)
  | sync
  | discard
  deriving DecidableEq, Repr

/-- An acceptance filter (R347). -/
structure CanFilter where
  id     : BitVec 29
  mask   : BitVec 29
  ide    : Bool
  target : CanTarget
  deriving DecidableEq, Repr

/-- A servo or class 1 frame of a field bus (R349, R465): its identifier, owner, and the bits for HELD and INVALID
(R224, R374). `source` is the axis group of a servo frame or the output set of a class 1 frame, whose data lie at `spa`;
`safe` gives the safe value of each output field of a servo frame (R234). -/
structure BusTx where
  index      : Nat
  id         : BitVec 29 := 0
  ide        : Bool := false
  source     : Nat := 0
  part       : Nat := 0
  len        : Nat := 8
  heldBit    : Option Nat := none
  invalidBit : Option Nat := none
  spa        : Nat := 0
  safe       : List (Nat × Word) := []
  deriving DecidableEq, Repr

/-- A CAN FD controller (R346 to R350), bit timing as the register words of R357. -/
structure CanCfg where
  c           : Nat
  nbt         : Word := 0
  dbt         : Word := 0
  tdcEn       : Bool := false
  tdco        : Nat := 0
  retry       : Nat := 1
  autoRecover : Bool := false
  stampDom    : Nat := 0
  queues      : List (Nat × Nat) := []
  filters     : List CanFilter := []
  servo       : List BusTx := []
  class1      : List BusTx := []
  deriving DecidableEq, Repr

/-- Where a matched Ethernet frame goes (R465). -/
inductive EthTarget where
  | holding (h : Nat)
  | sync
  | core2
  | discard
  deriving DecidableEq, Repr

/-- A receive filter of an Ethernet port (R465). -/
structure EthFilter where
  dst       : BitVec 48
  etherType : BitVec 16
  vlan      : Option Nat := none
  udpPort   : Option Nat := none
  target    : EthTarget
  deriving DecidableEq, Repr

/-- An Ethernet port (R464, R465), its configuration as the word of R478. -/
structure EthCfg where
  p       : Nat
  cfg     : Word := 0
  filters : List EthFilter := []
  servo   : List BusTx := []
  class1  : List BusTx := []
  deriving DecidableEq, Repr

/-- A latch set (R272): the holding registers that its LATCH entry copies, in order, and where to; a register is a CAN FD
controller's (with its number) or an Ethernet port's. -/
structure LatchCfg where
  index : Nat
  part  : Nat := 0
  addr  : Nat := 0
  regs  : List (Bool × Nat × Nat) := []
  deriving DecidableEq, Repr

/-- A safe-state message (R379): its identifier on a CAN bus, its partition mask, the offset of its cause field and its length in bytes. -/
structure MsgCfg where
  onCan : Bool
  port  : Nat
  id    : BitVec 29 := 0
  mask  : BitVec 8
  cause : Nat := 0
  len   : Nat := 8
  deriving DecidableEq, Repr

/-- A golden frame (R388, R389). -/
structure GoldenCfg where
  index : Nat
  part  : Nat
  lreg  : Nat := 0
  crc   : DWord := 0
  deriving DecidableEq, Repr

/-- The partitions that hold a slot on a network-on-chip link (R27). -/
structure LinkUse where
  die   : Nat
  link  : Nat
  parts : List Nat
  deriving DecidableEq, Repr

/-- An image counter (R317). -/
structure CounterCfg where
  number : Nat
  value  : Nat
  part   : Nat := 0
  deriving DecidableEq, Repr

/-- A buffer of the fit check (R121): where it lies, when it lives, whether it is read-only, and the tasks that use it. -/
structure BufClaim where
  lreg     : Nat
  base     : Nat
  size     : Nat
  from_    : Nat := 0
  to_      : Nat := 0
  readOnly : Bool := false
  tasks    : List Nat := []
  deriving DecidableEq, Repr

/-- A narrow client's allocation (R111): the client by its window slot, the bank slots it is given (phase, bank), the banks its
buffers occupy and its declared accesses per frame. -/
structure NarrowClaim where
  lreg   : Nat
  client : Nat
  slots  : List (Nat × Nat)
  banks  : List Nat := []
  rate   : Nat := 0
  deriving DecidableEq, Repr

/-- The safety declarations (R370, R376 to R379, R386). -/
structure SafetyCfg where
  react     : List (Nat × Nat) := []
  pinMask   : BitVec 8 := 0
  hbPeriod  : Nat := 1000
  safeInEn  : Bool := false
  messages  : List MsgCfg := []
  golden    : List GoldenCfg := []
  deriving DecidableEq, Repr

/-- A Viruk image (R22, R28, R30, R33, R432 and the chapters' declarations). `policyIn` selects the policy's input vector (R221): the position,
velocity or current (0 to 2) of the slot at a place of the group, or a feed-forward element (3); `lpData` are LPDDR contents that it brings. -/
structure Image where
  env        : Envelope := {}
  ident      : DWord := 0
  extends_   : DWord := 0
  regions    : Nat := 0
  packages   : Nat := 1
  pFloor     : Nat := 0
  hasC0      : Bool := false
  c0Region   : Option Nat := none
  policyIn   : List (Nat × Nat) := []
  policy     : PolicyCfg := {}
  parts      : List PartCfg := []
  domains    : List DomCfg := []
  tables     : List TableCfg := []
  fetch      : List FetchDesc := []
  tasks      : List TaskCfg := []
  tiles      : List TileProg := []
  counters   : List CounterCfg := []
  models     : List ModelCfg := []
  sparse     : List SparseDesc := []
  strmModels : List StrmModel := []
  imgStrms   : List ImgStrm := []
  problems   : List ProbDecl := []
  program    : List (Nat × List DWord) := []
  groups     : List GroupCfg := []
  slots      : List SlotCfg := []
  encs       : List EncCfg := []
  spis       : List SpiCfg := []
  pwms       : List PwmCfg := []
  flts       : List FltCfg := []
  capPorts   : List CapPort := []
  cams       : List CamCfg := []
  batches    : List BatchCfg := []
  cans       : List CanCfg := []
  eths       : List EthCfg := []
  safety     : SafetyCfg := {}
  latches    : List LatchCfg := []
  links      : List LinkUse := []
  peers      : List (Nat × Nat) := []
  bufs       : List BufClaim := []
  narrow     : List NarrowClaim := []
  xferSlots  : Bool := true
  boundsFit  : Bool := true
  doubleUse  : Bool := false
  data       : List (Nat × List Byte) := []
  lpData     : List (Nat × List Byte) := []
  deriving DecidableEq, Repr

end Sys2Proof
end

