-- ==== Sys2Proof/Input.lean ====
section
/-! DEFINITION. The operands that commands and events of the part carry: command packets (R297), what a read of host
memory brought back, frames, samples and the other data that reach the part from outside. -/
namespace Sys2Proof

/-- A command packet (R297): its header fields and bytes 16 to 63. -/
structure Packet where
  opcode   : BitVec 16 := 0
  flags    : BitVec 8 := 0
  hlen     : BitVec 8 := 4
  tag      : Word := 0
  deadline : DWord := 0
  params   : List Byte := []
  deriving DecidableEq, Repr

/-- What a read of host memory brought back: its bytes, or a failure on PCIe (R453). -/
inductive HostRead where
  | data (bytes : List Byte)
  | failed
  deriving DecidableEq, Repr

/-- A signature block read as an authorisation (R405): the hash of its public key, the digest its signature covers, and
whether that ML-DSA-87 signature is genuine under that key; `pubKey` stands for the key itself. -/
structure Auth where
  signer  : Nat := 1
  keyHash : Digest := 0
  message : Digest := 0
  genuine : Bool := true
  deriving DecidableEq, Repr

/-- What one FETCH slot reads for one context (R295): CMD_PI and RPL_CI (none when the read of the control block fails),
the packets of the ring from CMD_CI on (none where the read of that entry fails), and whether the CMD_CI write succeeds. -/
structure CtxRead where
  c       : Nat
  cmdPi   : Option Word
  rplCi   : Word := 0
  packets : List (Option Packet) := []
  ciOk    : Bool := true
  deriving DecidableEq, Repr

/-- A consumer index that a fetch slot reads: of the output ring of entry `seq` of the active-sequence table (R155), or, for `seq` =
4096 + i, of the ring of telemetry stream i (R444). -/
structure RingRead where
  seq      : Nat
  consumer : BitVec 16
  deriving DecidableEq, Repr

/-- The boot flash as the ROM finds it (R409, R467): for each TYPE and copy, the reason it would not verify, or its header. -/
structure FlashCopy where
  type   : Nat
  copyB  : Bool
  env    : Envelope
  deriving DecidableEq, Repr

/-- The boot flash: whether a directory copy is sound, the firmware copies it lists, and the certificate chains of its
certificate partition by SPDM slot (R404, R412). -/
structure Flash where
  dirOk  : Bool := false
  copies : List FlashCopy := []
  certs  : Tbl (List Byte) := []
  deriving DecidableEq, Repr

/-- A link that carries flits under R25: a network-on-chip link of a die, a die bridge, or the C0 lane of a die's bridge. -/
inductive LinkId where
  | noc (die link : Nat)
  | bridge (die : Nat)
  | c0lane (die group : Nat)
  deriving DecidableEq, Repr

/-- The cause of a PCIe reset (R436, R452). -/
inductive PcieCause where
  | perstLow
  | hotReset
  | linkDown
  | pfFlr
  deriving DecidableEq, Repr

/-- A configuration request (R434, R452, R453). -/
inductive CfgReq where
  | read
  | setNumVfs (n : Nat)
  | other
  deriving DecidableEq, Repr

/-- What starts a piece of work (R133, R272, R306): a cycle-table entry of a domain, a command of a context, or the step builder of a
partition. -/
inductive WorkId where
  | entry (d e : Nat)
  | cmd (c : Nat) (tag : Word)
  | step (part : Nat)
  deriving DecidableEq, Repr

/-- The format in which the compiled VPU work of a pass stores a result (R38, R41, R42). -/
inductive VpuFmt where
  | fp32 | bf16 | fp16 | e4m3 | e5m2 | int8
  deriving DecidableEq, Repr

/-- Results of the compiled VPU work of a pass in one logical region: the FP32 values, the format in which they are stored, and where, as an
offset in the window of the region's VPU. -/
structure VpuOut where
  lreg   : Nat
  offset : Nat
  fmt    : VpuFmt := .bf16
  vals   : List Word
  deriving DecidableEq, Repr

/-- What the end of a layer pass brings beside what the part computes: the parity faults met when active registers were used (logical
region, cluster) or the MVU's code buffer of a region was (R94), the results of the compiled VPU work that follows the pass, and, for an
attention pass whose features may vary (R152), for a position and head the pieces of the spans in the order in which they were merged. -/
structure PassOuts where
  parity    : List (Nat × Nat) := []
  mvuParity : List Nat := []
  vpu       : List VpuOut := []
  plans     : List (Nat × Nat × List (Nat × Nat)) := []
  deriving DecidableEq, Repr

/-- A compiled pass that ends (R61, R65): the work that runs it, its place among that work's passes, and what its row brings. -/
structure PassEnd where
  work : WorkId
  idx  : Nat
  outs : PassOuts := {}
  deriving DecidableEq, Repr

/-- A change of shape (R75): the tick at which it is asked for, and the shape. -/
structure ShapeReq where
  t     : Nat
  shape : Nat
  deriving DecidableEq, Repr

/-- A change of direction (R86): the tick at which it is asked for, and whether it is to the backward direction. -/
structure DirReq where
  t        : Nat
  backward : Bool
  deriving DecidableEq, Repr

/-- A region whose engine takes its next descriptor (R113), with what a step or a task's program starts by it: the work and the
descriptor's offset. -/
structure XferReq where
  region : Nat
  src    : Option (WorkId × Nat) := none
  deriving DecidableEq, Repr

/-- How far a transfer has come as it fails (R115): the rows that it has moved, and what a remote package has sent. -/
structure XferDone where
  rows : Nat
  far  : HostRead
  deriving DecidableEq, Repr

/-- What cannot be written at the boundary of a step: partial pages by sequence, with the status of the failed write (R145, R146), and
the contexts whose output rings the part cannot write (R302). -/
structure BoundaryLoss where
  parks  : List (Nat × BitVec 16) := []
  writes : List Nat := []
  deriving DecidableEq, Repr

/-- The lead's work list for a pooled model (R161): the template and the list. -/
structure PoolWork where
  tpl  : Nat
  list : List (Nat × Nat)
  deriving DecidableEq, Repr

/-- The lead's entries of a pooled model as it sends them, and those that it has granted a slot (R161). -/
structure PoolGrants where
  entries : List (Nat × List Byte)
  granted : List Nat
  deriving DecidableEq, Repr

/-- A swap requester (R83): a tile or a quarter-tile of a cluster. -/
inductive SwapUnit where
  | tile (t : Nat)
  | quarter (q : Nat)
  deriving DecidableEq, Repr

/-- Why a tile core halted (R95). -/
inductive HaltCause where
  | illegal
  | localEcc
  | refused
  deriving DecidableEq, Repr

/-- The clients of a slice port (R106). -/
inductive SpClient where
  | af | sf | mv | rw | vp | gx | xw | dx | narrow
  deriving DecidableEq, Repr

/-- What the ECC of the accessed words shows (R122); a double-bit error stands in one of the banks accessed. -/
inductive EccResult where
  | clean
  | corrected (words : Nat)
  | double (bank : Nat)
  deriving DecidableEq, Repr

/-- One scratchpad access (R105, R106): the client, the window slot whose offset it is, the lane of the slot of the port pattern that
serves it, its length, and the bytes of a write. -/
structure SpAcc where
  client : SpClient
  slot   : Nat
  lane   : Nat := 0
  offset : Nat
  length : Nat
  write  : Option (List Byte) := none
  ecc    : EccResult := .clean
  cls    : Nat := 2
  deriving DecidableEq, Repr

/-- Uncorrectable errors a solver run can meet (R209). -/
inductive SlvEcc where
  | none
  | laneCorrected (words : Nat)
  | laneUncorrectable (second : Bool)
  | storeUncorrectable
  deriving DecidableEq, Repr

/-- How the return of the policy's residuals ends (R94, R222, R223): they arrive, a parity fault of the code buffer is found, or the C0 lane
fails. -/
inductive Residuals where
  | arrived
  | parityFault
  | laneFault
  deriving DecidableEq, Repr

/-- What a long-packet header and payload show on arrival (R328, R330). -/
structure LineIn where
  eccCorrected     : Bool := false
  eccUncorrectable : Bool := false
  crcBad           : Bool := false
  pixels           : Nat
  deriving DecidableEq, Repr

/-- The outcome of a two-way time exchange (R266). -/
inductive Exchange where
  | missed
  | masterHoldover
  | error (ns16 : Int)
  deriving DecidableEq, Repr

/-- A CAN frame (R345, R347, R348), with the tick of the sample point of its SOF bit. -/
structure CanFrame where
  id   : BitVec 29
  ide  : Bool := false
  fdf  : Bool := false
  brs  : Bool := false
  rtr  : Bool := false
  esi  : Bool := false
  sof  : Nat := 0
  data : List Byte := []
  deriving DecidableEq, Repr

/-- How a transmission attempt ended (R349): the codes of LEC follow R357. -/
inductive CanTxResult where
  | sent (tdcv : Option Nat)
  | lostArbitration
  | error (lec : Nat)
  deriving DecidableEq, Repr

/-- An Ethernet frame (R465) and, for a PTP frame, the correction its instance computes. -/
structure EthFrame where
  dst       : BitVec 48
  etherType : BitVec 16
  vlan      : Option Nat := none
  udpPort   : Option Nat := none
  fcsOk     : Bool := true
  data      : List Byte := []
  ptpError  : Option (Nat × Int) := none
  deriving DecidableEq, Repr

/-- Which request to host memory failed (R453): an access to a ring or ring control block of a context, or the host
buffer of a command. -/
inductive HostTarget where
  | ringRead (c : Nat)
  | ringWrite (c : Nat)
  | buffer (c : Nat) (tag : Word)
  deriving DecidableEq, Repr

/-- A clock that the monitors watch (R371, R427). -/
inductive ClockId where
  | xtal | refclk100 | hubPll | diePll | serdesPll
  deriving DecidableEq, Repr

/-- What a repair's tests found (R439): failing tiles, whether another unit of the region failed, failing links. -/
structure RepairFound where
  tiles : List Nat := []
  other : Bool := false
  links : List Nat := []
  deriving DecidableEq, Repr

/-- An IDE stream (R413, R454): the link stream, or a selective stream 0 to 7. -/
inductive IdeStream where
  | link
  | selective (i : Nat)
  deriving DecidableEq, Repr

/-- What a telemetry record takes from outside the registers (R444): the 16 sensors, and whether its write to host memory succeeds. -/
structure TlmSamples where
  thermal : List (BitVec 16) := []
  writeOk : Bool := true
  deriving DecidableEq, Repr

/-- One measured rail (R426): millivolts and 10 mA units, or unmeasured. -/
abbrev RailVI := Option (Nat × Nat)

/-- What the latch of a SERVO entry meets besides the held inputs: a parity mismatch of the MVU code buffer (R94). -/
structure ServoIn where
  mvuParity : Bool := false
  deriving DecidableEq, Repr

/-- An SPDM request on the DOE mailbox (R412): the secure session it arrives in (none: in the clear), the certificate
slot it names, its offset and length fields, the requester's nonce and key share, and whether its signature or verify
data is right. -/
structure SpdmReq where
  session : Option Nat := none
  slot    : Nat := 0
  offset  : Nat := 0
  length  : Nat := 0
  nonce   : List Byte := []
  ok      : Bool := true
  deriving DecidableEq, Repr

/-- A remote scratchpad access over Rolink (R462): the sender's package and partition, the SPA range and, for a write, the bytes. -/
structure RemoteAcc where
  pkg    : Nat
  part   : Nat
  spa    : Nat
  length : Nat
  write  : Option (List Byte) := none
  deriving DecidableEq, Repr

end Sys2Proof
end

