-- ==== Sys2Proof/Syntax.lean ====
section
/-! DEFINITION. The commands and events of the part: one constructor per row of spec/opcode_table.json, with the operands
the row's rule names. `t` is the tick of the time counter (R250) at which the event falls, `d r` a compute die and a
physical region (R14), `d e` a phase domain and an entry of its active table (R271), `c p` a context and the command packet
it sent (R297), `h`, `rcb`, `img`, `env`, `auth` what the part reads from host memory for it. -/
namespace Sys2Proof

/-- A command or event of the part. -/
inductive Instr where
  /-- PWRGOOD_RISE (R433). PWRGOOD rises and the part starts from nothing: hub PLL lock, ROM steps, key derivation and
  firmware verification. -/
  | pwrgoodRise (flash : Flash)
  /-- PWRGOOD_FALL (R425). PWRGOOD falls and within 1 us the part behaves as unpowered, dropping SAFE_OUT_A,
  SAFE_OUT_B and HEARTBEAT. -/
  | pwrgoodFall
  /-- RESET_N_ASSERT (R436). RESET_N is held low for 1 us or more and the part performs a part reset equivalent to
  power-on. -/
  | resetNAssert (lowNs : Nat)
  /-- HUB_READY (R32). Hub checker injection completes; on a pass HUB_READY is set and the compute dies are released,
  otherwise the part stays in SAFE_HOLD. -/
  | hubReady (t : Nat) (fail : Option (Nat × Nat))
  /-- DIE_UP (R32). A compute die finishes array self-test and network-on-chip training and sets its DIEn_UP bit. -/
  | dieUp (t die : Nat) (fail : Option (Nat × Nat)) (bistOk trainOk : Bool)
  /-- LPDDR_TRAINING_DONE (R455). LPDDR training of the 16 channels ends, and the zero fill starts or the part stays
  in SAFE_HOLD on a channel failure. -/
  | lpddrTrainingDone (t kind rate capacity : Nat) (failCh : Option Nat)
  /-- LPDDR_ZERO_FILL_DONE (R435). The zero fill of every LPDDR byte under the new keys ends and PWR_STATUS.LPDDR_INIT
  clears. -/
  | lpddrZeroFillDone (t : Nat)
  /-- PERST_N_DEASSERT (R434). PERST_N is deasserted and link training begins once HUB_READY is also set. -/
  | perstNDeassert (t : Nat)
  /-- PCIE_LINK_UP (R434). PCIe link training reaches L0 in FLIT mode and BAR0 becomes readable. -/
  | pcieLinkUp (t width speed : Nat) (flit : Bool)
  /-- PCIE_RESET (R436). PERST_N low, hot reset, link down or a PF FLR resets the PCIe controller and IDE streams and
  detaches every PCIe-attached context. -/
  | pcieReset (t : Nat) (cause : PcieCause)
  /-- VF_FLR (R291). A function-level reset of a virtual function resets every context attached to it. -/
  | vfFlr (t vf : Nat)
  /-- NUMVFS_CLEAR (R452). Clearing NumVFs acts as an FLR of every virtual function. -/
  | numvfsClear (t : Nat)
  /-- D3HOT_ENTRY (R452). Moving the physical function to D3hot acts as a PCIe reset. -/
  | d3hotEntry (t : Nat)
  /-- REGISTER_WRITE (R15). A host write to a register with no row of its own (RW, W1C or RWL field, selector or
  reserved address) takes effect under its access code. -/
  | registerWrite (t addr size : Nat) (value : Word)
  /-- TIME_CNT_LO_READ (R285). A read of TIME_CNT_LO returns the low counter word and captures the high word into
  TIME_CNT_HI. -/
  | timeCntLoRead (t : Nat)
  /-- TIME_SNAP (R285). A write to TIME_SNAP captures phase and time of the selected domains at one tick. -/
  | timeSnap (t : Nat) (value : Word)
  /-- GLOBAL_MODE_WRITE (R37). A write to GLOBAL_MODE takes effect while no image is loaded or loading, and is
  otherwise discarded and sets MODE_REFUSED. -/
  | globalModeWrite (value : Word)
  /-- ATTACH0 (R292). Writing 1 to CMD_CTRL.ATTACH0 reads and checks context 0's ring control block and attaches
  context 0, or records CTX0_FAIL. -/
  | attach0 (rcb : HostRead)
  /-- RESET0 (R292). Writing 1 to CMD_CTRL.RESET0 rereads the ring control block and resets context 0 under R303, or
  records CTX0_FAIL. -/
  | reset0 (rcb : HostRead)
  /-- BOOT_RCB_WRITE (R292). A write to CMD_BOOT_RCB_LO or CMD_BOOT_RCB_HI is stored while context 0 is DETACHED and
  otherwise discarded with BOOT_REFUSED set. -/
  | bootRcbWrite (hi : Bool) (value : Word)
  /-- CTE_COEF_REG_WRITE (R231). A write to a loop coefficient register is stored while the slot is OPEN and otherwise
  discarded with COEF_REFUSED and REFUSED_LOOP set. -/
  | cteCoefRegWrite (slot index : Nat) (value : Word)
  /-- RGN_NUM_CLEAR_NONFINITE (R70). RGN_NUM_CLEAR.NONFINITE clears RGN_NONFINITE_CNT. -/
  | rgnNumClearNonfinite (d r : Nat)
  /-- RGN_NUM_CLEAR_RERUN (R70). RGN_NUM_CLEAR.RERUN clears RGN_WIDE_RERUN_CNT. -/
  | rgnNumClearRerun (d r : Nat)
  /-- RGN_NUM_CLEAR_ANCHOR (R70). RGN_NUM_CLEAR.ANCHOR clears RGN_ANCHOR_OVF_CNT and RGN_ANCHOR_LOSS_CNT. -/
  | rgnNumClearAnchor (d r : Nat)
  /-- RGN_ARRAY_CLEAR_GATE (R98). RGN_ARRAY_CLEAR.GATE clears RGN_GATE_ROW_CYC and RGN_GATE_CELL_KCYC. -/
  | rgnArrayClearGate (d r : Nat)
  /-- RGN_ARRAY_CLEAR_BUSY (R98). RGN_ARRAY_CLEAR.BUSY clears RGN_ARRAY_BUSY_CYC and RGN_MVU_BUSY_CYC. -/
  | rgnArrayClearBusy (d r : Nat)
  /-- RGN_ARRAY_CLEAR_SWAP (R98). RGN_ARRAY_CLEAR.SWAP clears RGN_SWAP_CNT. -/
  | rgnArrayClearSwap (d r : Nat)
  /-- RGN_SP_CLEAR_XFER (R125). RGN_SP_CLEAR.XFER clears the DONE counts of the transfer engine and address generator.
  -/
  | rgnSpClearXfer (d r : Nat)
  /-- RGN_SP_CLEAR_ECC (R125). RGN_SP_CLEAR.ECC clears RGN_SP_ECC_CE_CNT. -/
  | rgnSpClearEcc (d r : Nat)
  /-- RGN_SP_CLEAR_BOUND (R125). RGN_SP_CLEAR.BOUND clears RGN_SP_BOUND_CNT. -/
  | rgnSpClearBound (d r : Nat)
  /-- RGN_DROOP_CLEAR_CYC (R449). RGN_DROOP_CLEAR.CYC clears RGN_STRETCH_CYC. -/
  | rgnDroopClearCyc (d r : Nat)
  /-- RGN_DROOP_CLEAR_CNT (R449). RGN_DROOP_CLEAR.CNT clears RGN_DROOP_CNT. -/
  | rgnDroopClearCnt (d r : Nat)
  /-- CMD_SRV_CLEAR_RETIRE (R163). CMD_SRV_CLEAR.RETIRE clears CMD_SRV_RETIRE_CNT. -/
  | cmdSrvClearRetire
  /-- CMD_SRV_CLEAR_FLUSH (R163). CMD_SRV_CLEAR.FLUSH clears CMD_SRV_FLUSH_CNT. -/
  | cmdSrvClearFlush
  /-- CMD_SRV_CLEAR_HOLD (R163). CMD_SRV_CLEAR.HOLD clears CMD_SRV_HOLD_CNT. -/
  | cmdSrvClearHold
  /-- CMD_SRV_CLEAR_STEPS (R163). CMD_SRV_CLEAR.STEPS clears CMD_SRV_STEPS. -/
  | cmdSrvClearSteps
  /-- CMD_STRM_CLEAR_RESYNC (R187). CMD_STRM_CLEAR.RESYNC clears CMD_STRM_RESYNC_CNT and CMD_STRM_RESYNC_MISS. -/
  | cmdStrmClearResync
  /-- CMD_STRM_CLEAR_SWAP (R187). CMD_STRM_CLEAR.SWAP clears CMD_STRM_SWAP_CNT. -/
  | cmdStrmClearSwap
  /-- CMD_STRM_CLEAR_PINNED (R187). CMD_STRM_CLEAR.PINNED clears CMD_STRM_PINNED_CNT. -/
  | cmdStrmClearPinned
  /-- SLV_CLEAR_ECC (R216). SLV_CLEAR.ECC clears SLV_ECC_CE_CNT. -/
  | slvClearEcc
  /-- SLV_CLEAR_MEAS_LATE (R216). SLV_CLEAR.MEAS_LATE clears SLV_MEAS_LATE_CNT. -/
  | slvClearMeasLate
  /-- SLV_CLEAR_REFCAP (R216). SLV_CLEAR.REFCAP clears SLV_REFCAP_CNT. -/
  | slvClearRefcap
  /-- SLV_CLEAR_NONFINITE (R216). SLV_CLEAR.NONFINITE clears SLV_NONFINITE_CNT. -/
  | slvClearNonfinite
  /-- SLV_CLEAR_MISS (R216). SLV_CLEAR.MISS clears SLV_MISS_CNT. -/
  | slvClearMiss
  /-- SLV_CLEAR_STALE (R216). SLV_CLEAR.STALE clears SLV_STALE_CNT. -/
  | slvClearStale
  /-- SLV_CLEAR_REG (R216). SLV_CLEAR.REG clears SLV_REG_CNT. -/
  | slvClearReg
  /-- CTE_CLEAR_DUAL (R246). CTE_CLEAR.DUAL clears CTE_DUAL_CNT. -/
  | cteClearDual
  /-- CTE_CLEAR_FE (R246). CTE_CLEAR.FE clears CTE_FE_CNT. -/
  | cteClearFe
  /-- CTE_CLEAR_CLAMP (R246). CTE_CLEAR.CLAMP clears CTE_CLAMP_CNT. -/
  | cteClearClamp
  /-- CTE_CLEAR_STALE (R246). CTE_CLEAR.STALE clears CTE_STALE_CNT. -/
  | cteClearStale
  /-- CTE_CLEAR_HOLD (R246). CTE_CLEAR.HOLD clears CTE_HOLD_CNT. -/
  | cteClearHold
  /-- TIME_CLEAR_HOLD (R286). TIME_CLEAR.HOLD clears every TIME_Dd_HOLD_CNT. -/
  | timeClearHold
  /-- TIME_CLEAR_SKIP (R286). TIME_CLEAR.SKIP clears every TIME_Dd_SKIP_CNT. -/
  | timeClearSkip
  /-- SCHED_CLEAR_MISSED (R288). SCHED_CLEAR.MISSED clears SCHED_MISSED_CNT. -/
  | schedClearMissed
  /-- SCHED_CLEAR_LATE (R288). SCHED_CLEAR.LATE clears SCHED_WD_LATE_CNT. -/
  | schedClearLate
  /-- SCHED_CLEAR_EARLY (R288). SCHED_CLEAR.EARLY clears SCHED_WD_EARLY_CNT. -/
  | schedClearEarly
  /-- SCHED_CLEAR_OVERRUN (R288). SCHED_CLEAR.OVERRUN clears SCHED_OVERRUN_CNT. -/
  | schedClearOverrun
  /-- CMD_CLEAR_REFUSED (R322). CMD_CLEAR.REFUSED clears CMD_REFUSED_CNT. -/
  | cmdClearRefused
  /-- CMD_CLEAR_FETCH (R322). CMD_CLEAR.FETCH clears CMD_FETCH_CNT. -/
  | cmdClearFetch
  /-- CMD_CLEAR_BUSY (R322). CMD_CLEAR.BUSY clears CMD_BUSY_CNT. -/
  | cmdClearBusy
  /-- SYNC_CLEAR_TIMEOUT (R324). SYNC_CLEAR.TIMEOUT clears SYNC_TIMEOUT_CNT. -/
  | syncClearTimeout
  /-- SYNC_CLEAR_ABANDON (R324). SYNC_CLEAR.ABANDON clears SYNC_ABANDON_CNT. -/
  | syncClearAbandon
  /-- SYNC_CLEAR_UNDERFLOW (R324). SYNC_CLEAR.UNDERFLOW clears SYNC_UNDERFLOW_CNT. -/
  | syncClearUnderflow
  /-- CAP_CLEAR_ECC (R353). CAP_CLEAR.ECC clears CAP_ECC_CE_CNT. -/
  | capClearEcc
  /-- CAP_CLEAR_CORRUPT (R353). CAP_CLEAR.CORRUPT clears CAP_CORRUPT_CNT. -/
  | capClearCorrupt
  /-- CAP_CLEAR_STALE (R353). CAP_CLEAR.STALE clears CAP_STALE_CNT. -/
  | capClearStale
  /-- CAP_CLEAR_FRAME (R353). CAP_CLEAR.FRAME clears CAP_FRAME_CNT. -/
  | capClearFrame
  /-- PPE_CLEAR_DATAERR (R355). PPE_CLEAR.DATAERR clears PPE_DATAERR_CNT. -/
  | ppeClearDataerr
  /-- PPE_CLEAR_BOUNDS (R355). PPE_CLEAR.BOUNDS clears PPE_BOUNDS_CNT. -/
  | ppeClearBounds
  /-- PPE_CLEAR_DECODE (R355). PPE_CLEAR.DECODE clears PPE_DECODE_CNT. -/
  | ppeClearDecode
  /-- PPE_CLEAR_BAND (R355). PPE_CLEAR.BAND clears PPE_BAND_CNT. -/
  | ppeClearBand
  /-- CAN_CLEAR_LATE (R357). CAN_Cc_CLEAR.LATE clears CAN_Cc_LATE_CNT. -/
  | canClearLate (ctl : Nat)
  /-- CAN_CLEAR_RXDROP (R357). CAN_Cc_CLEAR.RXDROP clears CAN_Cc_RXDROP_CNT. -/
  | canClearRxdrop (ctl : Nat)
  /-- CAN_CLEAR_ABANDON (R357). CAN_Cc_CLEAR.ABANDON clears CAN_Cc_ABANDON_CNT. -/
  | canClearAbandon (ctl : Nat)
  /-- SAFE_CLEAR_GF_FAIL (R397). SAFE_CLEAR.GF_FAIL clears SAFE_GF_FAIL_CNT. -/
  | safeClearGfFail
  /-- SAFE_CLEAR_GF_RUN (R397). SAFE_CLEAR.GF_RUN clears SAFE_GF_RUN_CNT. -/
  | safeClearGfRun
  /-- SAFE_CLEAR_DIAG_LATE (R397). SAFE_CLEAR.DIAG_LATE clears SAFE_DIAG_LATE_CNT. -/
  | safeClearDiagLate
  /-- SAFE_CLEAR_ST_FAIL (R397). SAFE_CLEAR.ST_FAIL clears SAFE_ST_FAIL_CNT. -/
  | safeClearStFail
  /-- SAFE_CLEAR_ST_ABANDON (R397). SAFE_CLEAR.ST_ABANDON clears SAFE_ST_ABANDON_CNT. -/
  | safeClearStAbandon
  /-- SAFE_CLEAR_EVT (R397). SAFE_CLEAR.EVT clears SAFE_EVT_CNT. -/
  | safeClearEvt
  /-- SEC_CLEAR_SIGFAIL (R422). SEC_CLEAR.SIGFAIL clears SEC_SIGFAIL_CNT. -/
  | secClearSigfail
  /-- PWR_CLEAR_CAP_EXCEED (R447). PWR_CLEAR.CAP_EXCEED clears PWR_CAP_EXCEED_CNT. -/
  | pwrClearCapExceed
  /-- LNK_CLEAR_ROL_RETRY (R478). LNK_CLEAR.ROL_RETRY clears LNK_ROL_RETRY_CNT. -/
  | lnkClearRolRetry
  /-- LNK_CLEAR_LP_RETRY (R478). LNK_CLEAR.LP_RETRY clears LNK_LP_RETRY_CNT. -/
  | lnkClearLpRetry
  /-- LNK_CLEAR_LP_CE (R478). LNK_CLEAR.LP_CE clears LNK_LP_CE_CNT. -/
  | lnkClearLpCe
  /-- ETH_CLEAR_LATE (R478). ETH_CLEAR.LATE clears ETH_Pp_LATE_CNT of every port. -/
  | ethClearLate
  /-- ETH_CLEAR_FCS (R478). ETH_CLEAR.FCS clears ETH_Pp_FCS_CNT of every port. -/
  | ethClearFcs
  /-- ETH_CLEAR_RXDROP (R478). ETH_CLEAR.RXDROP clears ETH_Pp_RXDROP_CNT of every port. -/
  | ethClearRxdrop
  /-- ETH_CLEAR_RX (R478). ETH_CLEAR.RX clears ETH_Pp_RX_CNT of every port. -/
  | ethClearRx
  /-- NOC_FLIT_CRC_FAIL (R25). A network-on-chip, die-bridge or C0-lane flit fails its CRC and is resent once in the
  reserved interval, counting a retry. -/
  | nocFlitCrcFail (link : LinkId)
  /-- NOC_RETRY_FAIL (R25). A resent flit fails again, the link is declared faulty in GLOBAL_FAULT and
  ECC_UNCORRECTABLE goes to the safety supervisor. -/
  | nocRetryFail (t : Nat) (link : LinkId)
  /-- LAYER_PASS_END (R61). A layer pass ends, region counters are updated and the lead region decides whether the
  pass trips. -/
  | layerPassEnd (t : Nat) (pass : PassEnd)
  /-- WIDE_RERUN_COMPLETE (R65). A wide re-run completes, adds its counts and delivers its result with OK_WIDE_RERUN.
  -/
  | wideRerunComplete (t : Nat) (pass : PassEnd)
  /-- SWAP_REQUEST (R83). A tile core posts a swap request for its tile or quarter-tile, held until its shadow set is
  complete. -/
  | swapRequest (d r cluster : Nat) (who : SwapUnit)
  /-- SWAP_STROBE (R81). A cluster strobe copies every shadow register to active and switches the codebook, anchor and
  scale banks. -/
  | swapStrobe (t d r : Nat) (clusters parityBad : List Nat)
  /-- SHAPE_CHANGE (R75). Once the array is empty and every foot has delivered, the region sequencer changes shape
  over 8 cycles. -/
  | shapeChange (d r : Nat) (shape : ShapeReq)
  /-- DIRECTION_CHANGE (R86). The region changes between forward and backward direction at a strobe or after the array
  has drained. -/
  | directionChange (d r : Nat) (backward : DirReq)
  /-- TILE_CORE_HALT (R95). A tile core halts on an illegal instruction, local ECC error or refused access, and its
  work is abandoned and reported. -/
  | tileCoreHalt (t d r tile : Nat) (cause : HaltCause)
  /-- SP_ACCESS (R106). A wide or narrow client is served by a bank in its slot of the port pattern. -/
  | spAccess (t d r : Nat) (acc : SpAcc)
  /-- PORT_MODE_APPLY (R109). The region sequencer applies a pending port mode at the first phase 0 after the previous
  pass's last access. -/
  | portModeApply (t d r : Nat)
  /-- XFER_START (R113). The transfer engine starts the next transfer descriptor in its reserved slots. -/
  | xferStart (t d : Nat) (r : XferReq)
  /-- XFER_COMPLETE (R115). A transfer's last byte becomes visible at its destination and its counter is signalled
  when SIGNAL is set. -/
  | xferComplete (t d r : Nat) (h : HostRead)
  /-- XFER_FAIL (R115). A transfer ends on a far-end refusal, uncorrectable error or faulty link and records the
  status in RGN_XFER_ERR. -/
  | xferFail (t d r : Nat) (status : BitVec 16) (rows : XferDone)
  /-- AGEN_COMPLETE (R116). An address-generator WALK, EXPAND, POOL or GATHER descriptor finishes and signals its
  counter when SIGNAL is set. -/
  | agenComplete (t d r offset : Nat)
  /-- SEQ_ADMIT (R131). Command 0x0310 admits a new sequence and allocates its key-value region. -/
  | seqAdmit (c : Nat) (p : Packet) (h : HostRead)
  /-- SEQ_APPEND (R131). Command 0x0311 extends an IDLE sequence with a new prompt and moves it to WAIT_SLOT. -/
  | seqAppend (c : Nat) (p : Packet) (h : HostRead)
  /-- SEQ_STOP (R130). Command 0x0312 moves a sequence to RETIRING. -/
  | seqStop (c : Nat) (p : Packet)
  /-- SEQ_QUERY (R130). Command 0x0313 returns fields of an active-sequence table entry. -/
  | seqQuery (c : Nat) (p : Packet)
  /-- STEP_START (R133). A partition's serving step starts one template over its work list in the first class 2 or
  class 3 slice after the boundary. -/
  | stepStart (t part : Nat)
  /-- STEP_BOUNDARY (R133). A step's last pass, flush and record complete, and state transitions, retirements and
  freeing take effect. -/
  | stepBoundary (t part : Nat) (parks : List (Nat × BitVec 16)) (writes : List Nat)
  /-- POOL_WORK_LIST_RECEIVE (R161). A non-lead package receives the lead's work list and grants for a pooled model
  and mirrors them. -/
  | poolWorkListReceive (t model : Nat) (work : PoolWork) (grants : PoolGrants)
  /-- STRM_OPEN (R175). Command 0x0320 opens a stream at INIT and writes its home copy. -/
  | strmOpen (c : Nat) (p : Packet)
  /-- STRM_PUSH (R177). Command 0x0321 queues a chunk of samples, optionally with RESET, behind the stream's earlier
  chunks. -/
  | strmPush (c : Nat) (p : Packet) (h : HostRead)
  /-- STRM_SWAP_OUT (R180). Command 0x0322 swaps a stream's state out to HOME at the next boundary, or is refused with
  STREAM_PINNED. -/
  | strmSwapOut (c : Nat) (p : Packet)
  /-- STRM_SWAP_IN (R179). Command 0x0323 swaps a stream's state into a free pool slot at the next boundary. -/
  | strmSwapIn (c : Nat) (p : Packet)
  /-- STRM_CLOSE (R181). Command 0x0324 closes a stream, completing its chunks with OWNER_LOST when forced. -/
  | strmClose (c : Nat) (p : Packet)
  /-- STRM_QUERY (R174). Command 0x0325 returns fields of a stream table entry. -/
  | strmQuery (c : Nat) (p : Packet)
  /-- STRM_STATE (R176). Command 0x0326 reads or writes a stream's state. -/
  | strmState (c : Nat) (p : Packet) (h : HostRead)
  /-- STREAM_STEP_BOUNDARY (R183). At a region's stream-step boundary, swaps, closes, resets and then the samples of
  the next stream step are applied. -/
  | streamStepBoundary (t lreg model : Nat) (poison : List Nat)
  /-- STREAM_RESYNC (R185). The reference record read completes and is applied or skipped after a sample that leaves
  STEP a multiple of RESYNC_N. -/
  | streamResync (t handle : Nat) (torn : Bool)
  /-- STREAM_SWAP_COMPLETE (R179). A swap transfer completes, the stream's residence is updated and the swap command
  is replied to. -/
  | streamSwapComplete (t handle : Nat) (failed : Bool)
  /-- STREAM_CHUNK_DEADLINE (R178). A chunk's deadline passes before its first sample, completing it and every later
  chunk with TIMEOUT. -/
  | streamChunkDeadline (t handle : Nat)
  /-- SLV_SOLVE (R213). Command 0x0801 reads a measurement and queues a class 2 or class 3 solver run. -/
  | slvSolve (c : Nat) (p : Packet) (h : HostRead)
  /-- SLV_PARAM (R214). Command 0x0802 writes parameters into the inactive bank and marks a bank switch for the next
  start. -/
  | slvParam (c : Nat) (p : Packet) (h : HostRead)
  /-- SLV_QUERY (R213). Command 0x0803 returns the latest solver record of a problem. -/
  | slvQuery (c : Nat) (p : Packet)
  /-- SLV_RESET (R214). Command 0x0804 resets a problem's solution store and kept factor at its next start. -/
  | slvReset (c : Nat) (p : Packet)
  /-- SOLVER_RUN_START (R190). A pending class 2 or class 3 solver run starts in its next compiled window. -/
  | solverRunStart (t slot : Nat)
  /-- VECTOR_PROGRAM_START (R196). The vector program starts once MEAS_SYNC allows, swapping the measurement halves.
  -/
  | vectorProgramStart (t slot : Nat)
  /-- MEAS_WAIT_EXPIRE (R196). MEAS_WAIT cycles pass without MEAS_SYNC and the run ends stale with reason MEAS_LATE.
  -/
  | measWaitExpire (t slot : Nat)
  /-- SOLVER_RUN_COMPLETE (R204). A solver run completes and writes a fresh acceptable result or yields a stale
  result. -/
  | solverRunComplete (t slot : Nat) (ecc : SlvEcc)
  /-- SOLVER_DEADLINE (R205). A solver run's deadline falls due and the lane stops, writing the latest acceptable
  iterate or a stale result. -/
  | solverDeadline (t slot : Nat)
  /-- SOLVER_OUTPUT_WRITTEN (R210). The solver output record and solution are written at OUT_DEST and OUT_SYNC is
  signalled. -/
  | solverOutputWritten (t slot : Nat)
  /-- SERVO (R221). A SERVO entry fires: inputs are latched, pending commands take effect and the policy input crosses
  the C0 lane. -/
  | servo (t d e : Nat) (latched : ServoIn)
  /-- RESIDUAL_RETURN (R222). The policy residuals return over the C0 lane from the C0 region's MVU. -/
  | residualReturn (t g : Nat) (res : Residuals)
  /-- POLICY_MISSING (R223). Cycle 128 passes without the last residual and the policy result counts as missing. -/
  | policyMissing (t g : Nat)
  /-- CONTROL_LAW (R226). The control law runs every loop of the group for 64 cycles and writes the output registers.
  -/
  | controlLaw (t g : Nat)
  /-- OUTPUT_PHASE (R239). Cycle 200 after the latch applies the output registers or holds them, and restarts the PWM
  carriers. -/
  | outputPhase (t g : Nat)
  /-- CTE_OPEN (R243). Command 0x0701 opens a loop slot. -/
  | cteOpen (c : Nat) (p : Packet)
  /-- CTE_CLOSE (R243). Command 0x0702 closes a loop slot with the bumpless preload of R230. -/
  | cteClose (c : Nat) (p : Packet)
  /-- CTE_COEF (R243). Command 0x0703 writes a range of an OPEN slot's coefficient registers, all or none. -/
  | cteCoef (c : Nat) (p : Packet) (h : HostRead)
  /-- CTE_QUERY (R243). Command 0x0704 returns a slot's state and its group's register. -/
  | cteQuery (c : Nat) (p : Packet)
  /-- CTE_ACK (R243). Command 0x0705 acknowledges a faulted group, which returns to OPEN at the next latch. -/
  | cteAck (c : Nat) (p : Packet)
  /-- ENCODER_EDGE (R236). An accepted change of A or B moves the quadrature counter and any ANGLE phase by one count.
  -/
  | encoderEdge (t port : Nat) (a b : Bool)
  /-- ENCODER_INDEX_EDGE (R236). An accepted rising Z edge copies the counter into MIO_ENCe_IDX and may restart a
  ZSYNC domain. -/
  | encoderIndexEdge (t port : Nat)
  /-- SSI_FRAME_START (R237). An SSI frame starts LEAD cycles before the latch. -/
  | ssiFrameStart (t port : Nat)
  /-- SSI_FRAME_COMPLETE (R237). An SSI frame completes and is decoded, or marked stale on a parity error. -/
  | ssiFrameComplete (t port : Nat) (bits : Option (List Bool))
  /-- SAMPLE_FRAME_START (R238). A sample-port frame starts with a CNV pulse LEAD cycles before the latch. -/
  | sampleFrameStart (t port : Nat)
  /-- SAMPLE_FRAME_COMPLETE (R238). A sample-port frame's bits are clocked in and held as six signed words. -/
  | sampleFrameComplete (t port : Nat) (lines : List (List Bool))
  /-- FAULT_INPUT_ASSERT (R241). A fault input held low drives its PWM pairs safe and faults the owning groups with
  FAULT_INPUT. -/
  | faultInputAssert (t f : Nat)
  /-- FAULT_INPUT_RELEASE (R241). A fault input held high is released and MIO_FLT_STATE clears. -/
  | faultInputRelease (t f : Nat)
  /-- PERIOD_BOUNDARY (R260). A domain's phase reaches the next period boundary and φ_k and PCOUNT advance. -/
  | periodBoundary (t d : Nat)
  /-- TASK (R272). A TASK entry fires and starts its compiled task, pass, transfer, IMAGE stream step or consumer. -/
  | task (t d e : Nat)
  /-- SOLVE (R272). A SOLVE entry fires and starts a class 1 solver run. -/
  | solve (t d e : Nat)
  /-- LATCH (R272). A LATCH entry fires and copies input holding registers to a scratchpad buffer. -/
  | latch (t d e : Nat)
  /-- OUTPUT (R272). An OUTPUT entry fires and hands class 1 Ethernet or CAN FD frames to the controllers. -/
  | output (t d e : Nat)
  /-- FETCH (R295). A FETCH entry opens a command-fetch slot and fetches packets from the contexts it serves. -/
  | fetch (t d e : Nat) (reads : List CtxRead) (rings : List RingRead)
  /-- SLICE (R278). A SLICE entry opens a class 2 and class 3 slice for its partition. -/
  | slice (t d e : Nat)
  /-- GOLDEN (R389). A GOLDEN entry fires and runs a class 1 chain on its golden input. -/
  | golden (t d e : Nat)
  /-- SELFTEST (R384). A SELFTEST entry runs the region's next unpassed self-test slice or C0 sub-slice. -/
  | selftest (t d e : Nat) (guardPassed : Bool)
  /-- TASK_COMPLETE (R276). Work started by an entry completes and is checked against its window watchdog minimum. -/
  | taskComplete (t : Nat) (work : WorkId) (status : BitVec 16) (words : List Word)
  /-- WATCHDOG_LATE (R276). An entry's WD_MAX elapses without completion and a LATE violation is recorded and
  reported. -/
  | watchdogLate (t d e : Nat)
  /-- LINE_START (R256). A CSI-2 long packet arrives as a line start of a stream, advancing its LINE domain and band.
  -/
  | lineStart (t stream : Nat) (line : LineIn)
  /-- FRAME_START (R329). A Frame Start packet is stamped, takes a FRAME_SEQ and restarts the stream's LINE domain. -/
  | frameStart (t stream : Nat) (line : LineIn)
  /-- FRAME_END (R328). A Frame End packet arrives, checking the line count and completing the last band. -/
  | frameEnd (t stream : Nat) (line : LineIn)
  /-- BAND_CONVERTED (R338). The PPE finishes converting a band, and the frame completes when it was the last band. -/
  | bandConverted (t stream : Nat) (pixels : List (BitVec 16))
  /-- SYNC_IN_EDGE (R257). A rising edge on SYNC_INn held 3 ticks is an EXTSYNC event. -/
  | syncInEdge (t n : Nat)
  /-- SOURCE_LOST (R262). A phase source is lost and its domain enters HOLDOVER, free-running at the last rate. -/
  | sourceLost (t d : Nat)
  /-- RATE_WINDOW (R258). A 2^20-tick window ends and an ANGLE domain updates its rate estimate. -/
  | rateWindow (t d : Nat)
  /-- TIME_EXCHANGE (R266). A Rolink two-way time exchange runs every 2^19 ticks and slews the following domain. -/
  | timeExchange (t d : Nat) (result : Exchange)
  /-- PTP_TIMEOUT (R267). A PTP instance's announce or sync timeout expires and its domain enters HOLDOVER. -/
  | ptpTimeout (t inst : Nat)
  /-- PHASE_READ (R284). Command 0x0601 returns a domain's phase, PCOUNT and time. -/
  | phaseRead (c : Nat) (p : Packet)
  /-- TBL_STAGE (R284). Command 0x0602 stages a table of the image for a domain. -/
  | tblStage (c : Nat) (p : Packet)
  /-- TBL_SWAP (R279). Command 0x0603 arms the swap of staged tables at the next boundaries. -/
  | tblSwap (c : Nat) (p : Packet)
  /-- DOM_ADJ (R284). Command 0x0604 slews or steps a HOST-disciplined TIME domain. -/
  | domAdj (c : Nat) (p : Packet)
  /-- REPLY_WRITE (R301). A completed command's reply is written at RPL_PI when the ring has room, raising MSI-X when
  IRQ is set. -/
  | replyWrite (t c : Nat) (rplCi : Word) (ok : Bool)
  /-- BUSY_AGE_EXPIRE (R310). A queued command waits longer than BUSY_AGE and is answered BUSY. -/
  | busyAgeExpire (t c : Nat) (tag : Word)
  /-- COMMAND_DEADLINE_EXPIRE (R299). A command's deadline falls due before it starts and it is answered TIMEOUT. -/
  | commandDeadlineExpire (t c : Nat) (tag : Word)
  /-- LOAD_WINDOW (R312). A 1.024 ms load window ends and telemetry decimation is doubled or halved. -/
  | loadWindow (t load : Nat)
  /-- CTX_ATTACH (R307). Command 0x0101 attaches a context to a function. -/
  | ctxAttach (c : Nat) (p : Packet) (rcb : HostRead)
  /-- CTX_DETACH (R303). Command 0x0102 detaches a context and releases its work and objects. -/
  | ctxDetach (c : Nat) (p : Packet)
  /-- CTX_RESET (R303). Command 0x0103 resets a context and returns it to ATTACHED. -/
  | ctxReset (c : Nat) (p : Packet) (rcb : HostRead)
  /-- CTX_SUSPEND (R303). Command 0x0104 moves a context to SUSPENDED. -/
  | ctxSuspend (c : Nat) (p : Packet)
  /-- CTX_RESUME (R303). Command 0x0105 returns a suspended context to ATTACHED. -/
  | ctxResume (c : Nat) (p : Packet)
  /-- CTX_QUERY (R306). Command 0x0106 returns a context's state and counts. -/
  | ctxQuery (c : Nat) (p : Packet)
  /-- NOP (R306). Command 0x0107 does nothing and replies OK. -/
  | nop (c : Nat) (p : Packet)
  /-- IMG_LOAD (R306). Command 0x0201 requests an image load, held in the control queue until both dies are up. -/
  | imgLoad (c : Nat) (p : Packet) (img : Option Image)
  /-- IMG_LOAD_ACCEPT (R32). A held IMG_LOAD is accepted once both DIEn_UP bits are 1, locking GLOBAL_MODE and
  starting the load. -/
  | imgLoadAccept (t : Nat)
  /-- IMG_LOAD_COMPLETE (R435). An image load finishes its checks and binding after the zero fill, and its reply is
  written. -/
  | imgLoadComplete (t : Nat)
  /-- IMG_UNLOAD (R307). Command 0x0202 unloads the image and resets contexts, counters and domains. -/
  | imgUnload (c : Nat) (p : Packet)
  /-- IMG_QUERY (R306). Command 0x0203 returns the loaded image's identifier, regions and packages. -/
  | imgQuery (c : Nat) (p : Packet)
  /-- EXEC_TASK (R306). Command 0x0301 starts a class 2 or class 3 task of the image. -/
  | execTask (c : Nat) (p : Packet)
  /-- DECODE_INPUT_COMPLETE (R339). The decoder finishes one JPEG or packed-tensor input of a decode task and writes
  its slot. -/
  | decodeInputComplete (t c : Nat) (tag : Word) (input : HostRead)
  /-- MEM_WRITE (R308). Command 0x0401 copies host memory into scratchpad or LPDDR. -/
  | memWrite (c : Nat) (p : Packet) (h : HostRead)
  /-- MEM_READ (R308). Command 0x0402 copies scratchpad or LPDDR into host memory. -/
  | memRead (c : Nat) (p : Packet)
  /-- MEM_FILL (R308). Command 0x0403 writes zeros to a scratchpad or LPDDR range. -/
  | memFill (c : Nat) (p : Packet)
  /-- SYNC_CREATE (R316). Command 0x0501 creates a package counter owned by the context. -/
  | syncCreate (c : Nat) (p : Packet)
  /-- SYNC_MAP (R316). Command 0x0502 maps an existing counter to a VID with given rights. -/
  | syncMap (c : Nat) (p : Packet)
  /-- SYNC_UNMAP (R317). Command 0x0503 removes a VID mapping, freeing or abandoning the counter. -/
  | syncUnmap (c : Nat) (p : Packet)
  /-- SYNC_SIGNAL (R314). Command 0x0504 adds n to a counter. -/
  | syncSignal (c : Nat) (p : Packet)
  /-- SYNC_WAIT (R315). Command 0x0505 registers a wait on a counter. -/
  | syncWait (c : Nat) (p : Packet)
  /-- SYNC_WAIT_TIMEOUT (R319). A wait's deadline falls due before its grant and it completes with TIMEOUT. -/
  | syncWaitTimeout (t c : Nat) (tag : Word)
  /-- SYNC_TAKE (R314). Command 0x0506 removes n from a counter at once or fails with SYNC_UNDERFLOW. -/
  | syncTake (c : Nat) (p : Packet)
  /-- SYNC_INIT (R318). Command 0x0507 sets an abandoned counter's value and makes the caller its owner. -/
  | syncInit (c : Nat) (p : Packet)
  /-- SYNC_QUERY (R306). Command 0x0508 returns a counter's value and state. -/
  | syncQuery (c : Nat) (p : Packet)
  /-- CAN_FRAME_RECEIVE (R347). An error-free CAN frame is matched to a filter and delivered to a queue, holding
  register or sync filter. -/
  | canFrameReceive (t ctl : Nat) (frame : CanFrame)
  /-- CAN_FRAME_PRESENT (R349). The bus becomes idle and the controller presents its highest-class pending frame. -/
  | canFramePresent (t ctl : Nat)
  /-- CAN_TX_RESULT (R349). A transmission attempt succeeds, loses arbitration or meets an error, and the frame is
  retried or abandoned. -/
  | canTxResult (t ctl : Nat) (result : CanTxResult)
  /-- CAN_RECOVER (R350). A write of CAN_Cc_CTRL.RECOVER starts bus-off recovery. -/
  | canRecover (ctl : Nat)
  /-- CAN_RECOVERY_COMPLETE (R350). Bus-off recovery completes after 128 occurrences of 11 recessive bits. -/
  | canRecoveryComplete (t ctl : Nat)
  /-- CAN_ACK_WRITE (R348). A write of a queue's ACK returns entries to the part, or is refused with ACK_REFUSED. -/
  | canAckWrite (ctl q : Nat) (value : Word)
  /-- CAN_TX_REQ (R349). Writing REQ = 1 to a host buffer makes its frame pending. -/
  | canTxReq (t ctl b : Nat) (value : Word)
  /-- CAN_TX_CANCEL (R351). Writing REQ = 0 cancels a pending host buffer unless its frame is on the bus. -/
  | canTxCancel (ctl b : Nat) (value : Word)
  /-- CAN_TX_BUFFER_WRITE (R357). A write to a host buffer header or data word is stored, or discarded with TX_REFUSED
  while REQ is 1. -/
  | canTxBufferWrite (ctl b index : Nat) (value : Word)
  /-- ALIVE_TIMEOUT (R369). Channel A's alive signal has not toggled for 1 us and channel B drops SAFE_OUT_B and
  raises event 0x17. -/
  | aliveTimeout (t : Nat)
  /-- SAFE_IN_LOW (R378). SAFE_IN stays low for 1 us with SAFE_IN_EN set and raises event 0x15. -/
  | safeInLow (t : Nat)
  /-- HEARTBEAT_TOGGLE (R377). HEARTBEAT changes level every HB_PERIOD. -/
  | heartbeatToggle (t : Nat)
  /-- SELFTEST_SLICE_END (R384). A self-test slice finishes and its signature passes or raises SELFTEST_FAIL. -/
  | selftestSliceEnd (t d e : Nat) (pass : Bool)
  /-- COVER_LOSS (R386). A region's oldest slice pass becomes older than 100 ms and DIAG_LATE is raised. -/
  | coverLoss (t lreg : Nat)
  /-- GOLDEN_COMPARE (R389). A golden frame completes and its CRC-64 is compared, raising GOLDEN_FAIL on a mismatch.
  -/
  | goldenCompare (t d e : Nat) (result : List Byte)
  /-- CLOCK_MONITOR_TRIP (R427). A PLL loses lock or a clock leaves ±2 % and event 0x12 is raised. -/
  | clockMonitorTrip (t : Nat) (clk : ClockId) (lockLost : Bool)
  /-- VOLTAGE_MONITOR_TRIP (R424). A rail leaves its monitor window and event 0x13 is raised. -/
  | voltageMonitorTrip (t rail millivolts : Nat)
  /-- TEMPERATURE_TRIP (R371). Tj rises above +115 °C and event 0x14 is raised. -/
  | temperatureTrip (t sensor : Nat) (tj16 : Int)
  /-- SAFE_QUERY (R394). Command 0x0901 returns the safety status, partition state and cause. -/
  | safeQuery (c : Nat) (p : Packet)
  /-- SAFE_ENTER (R394). Command 0x0902 puts a partition or the package into safe state. -/
  | safeEnter (c : Nat) (p : Packet)
  /-- SAFE_RELEASE (R380). Command 0x0903 releases a partition or the package from safe state when its conditions are
  met. -/
  | safeRelease (c : Nat) (p : Packet) (safeIn : Bool)
  /-- SAFE_LOG_READ (R395). Command 0x0904 copies safety log records to host memory. -/
  | safeLogRead (c : Nat) (p : Packet)
  /-- TAMPER_TRIP (R400). A husk sensor trips, raising TAMPER and resetting or zeroising the part. -/
  | tamperTrip (t sensor : Nat)
  /-- DRBG_RESEED (R399). After 2^20 requests the DRBG is reseeded from the TRNG, counting health-test failures. -/
  | drbgReseed (t : Nat) (healthOk : Bool)
  /-- NONCE_LAPSE (R405). An outstanding nonce lapses after 60 s. -/
  | nonceLapse (t : Nat)
  /-- SEC_QUERY (R420). Command 0x0A01 returns the security status, epoch and public keys. -/
  | secQuery (c : Nat) (p : Packet)
  /-- SEC_NONCE (R405). Command 0x0A02 returns a fresh 64-byte nonce. -/
  | secNonce (c : Nat) (p : Packet)
  /-- SEC_ATTEST (R412). Command 0x0A03 returns a DevID-signed attestation report. -/
  | secAttest (c : Nat) (p : Packet) (h : HostRead)
  /-- SEC_LOG_READ (R420). Command 0x0A04 copies attestation log entries to host memory. -/
  | secLogRead (c : Nat) (p : Packet)
  /-- SEC_SVN_COMMIT (R408). Command 0x0A05 raises an anti-rollback counter to the running image's SVN. -/
  | secSvnCommit (c : Nat) (p : Packet) (auth : Auth)
  /-- SEC_OWNER_ENROL (R406). Command 0x0A06 enrols the owner's public key once. -/
  | secOwnerEnrol (c : Nat) (p : Packet) (auth : Auth) (h : HostRead)
  /-- SEC_LIFECYCLE (R404). Command 0x0A07 makes an authorised lifecycle transition. -/
  | secLifecycle (c : Nat) (p : Packet) (auth : Auth)
  /-- SEC_DEBUG_OPEN (R415). Command 0x0A08 opens the debug port by running zeroisation. -/
  | secDebugOpen (c : Nat) (p : Packet) (auth : Auth)
  /-- ZEROISATION_COMPLETE (R416). The LPDDR zero write ends and the part becomes PEELED with the debug port open. -/
  | zeroisationComplete (t : Nat)
  /-- SEC_TAMPER_POLICY (R420). Command 0x0A09 changes the non-fixed tamper responses. -/
  | secTamperPolicy (c : Nat) (p : Packet) (auth : Auth)
  /-- SEC_KEY_IMPORT (R410). Command 0x0A0A decapsulates and stores a wrapped image key. -/
  | secKeyImport (c : Nat) (p : Packet) (auth : Auth) (h : HostRead)
  /-- SEC_SYSTEM_SET (R414). Command 0x0A0B writes the SYSTEM record of package DevID hashes. -/
  | secSystemSet (c : Nat) (p : Packet) (auth : Auth) (h : HostRead)
  /-- GET_VERSION (R412). SPDM GET_VERSION request on the DOE mailbox is answered. -/
  | getVersion (req : SpdmReq)
  /-- GET_CAPABILITIES (R412). SPDM GET_CAPABILITIES request is answered. -/
  | getCapabilities (req : SpdmReq)
  /-- NEGOTIATE_ALGORITHMS (R412). SPDM NEGOTIATE_ALGORITHMS request is answered. -/
  | negotiateAlgorithms (req : SpdmReq)
  /-- GET_DIGESTS (R412). SPDM GET_DIGESTS request is answered. -/
  | getDigests (req : SpdmReq)
  /-- GET_CERTIFICATE (R412). SPDM GET_CERTIFICATE request returns a certificate chain. -/
  | getCertificate (req : SpdmReq)
  /-- CHALLENGE (R412). SPDM CHALLENGE request is answered with a DevID signature. -/
  | challenge (req : SpdmReq)
  /-- GET_MEASUREMENTS (R412). SPDM GET_MEASUREMENTS returns the measurement slots as blocks. -/
  | getMeasurements (req : SpdmReq)
  /-- KEY_EXCHANGE (R412). SPDM KEY_EXCHANGE starts a secure session with ML-KEM-1024. -/
  | keyExchange (req : SpdmReq)
  /-- FINISH (R412). SPDM FINISH completes a secure session handshake. -/
  | finish (req : SpdmReq)
  /-- END_SESSION (R412). SPDM END_SESSION ends a secure session. -/
  | endSession (req : SpdmReq)
  /-- IDE_KM (R454). A VENDOR_DEFINED IDE_KM request in a secure session programs IDE stream keys. -/
  | ideKm (req : SpdmReq) (stream : IdeStream)
  /-- IDE_CHECK_FAIL (R454). A TLP fails its IDE check and its stream enters Insecure. -/
  | ideCheckFail (t : Nat) (stream : IdeStream)
  /-- ROLINK_LINK_UP (R414). A Rolink port trains and is keyed by an ML-KEM exchange checked against SYSTEM. -/
  | rolinkLinkUp (t port peer : Nat) (devId : Digest) (keyOk : Bool)
  /-- ROLINK_KEY_RENEW (R414). A Rolink port renews its keys after 2^32 frames. -/
  | rolinkKeyRenew (t port : Nat) (ok : Bool)
  /-- ROLINK_FLIT_CRC_FAIL (R463). A Rolink flit fails its CRC and is resent once. -/
  | rolinkFlitCrcFail (port : Nat)
  /-- ROLINK_RETRY_FAIL (R463). A resent Rolink flit fails again and the port is declared faulty. -/
  | rolinkRetryFail (t port : Nat)
  /-- REMOTE_ACCESS_RECEIVE (R462). A remote scratchpad access arrives and is accepted or refused against the sender's
  partition. -/
  | remoteAccessReceive (t : Nat) (acc : RemoteAcc)
  /-- ETH_FRAME_RECEIVE (R465). An Ethernet frame passes FCS and is taken by a filter into a holding register, sync
  filter or core 2. -/
  | ethFrameReceive (t port : Nat) (frame : EthFrame)
  /-- COMPLETION_TIMEOUT (R453). A host-memory request meets a completion timeout and fails. -/
  | completionTimeout (t : Nat) (target : HostTarget)
  /-- HOST_COMPLETION_ERROR (R453). A host-memory request receives an error or poisoned completion and fails. -/
  | hostCompletionError (t : Nat) (target : HostTarget)
  /-- LPDDR_READ_ECC_ERROR (R457). An LPDDR read reports an uncorrectable word and is retried once; `single` says that the error
  is in a single bit, which is corrected. -/
  | lpddrReadEccError (t channel addr : Nat) (single : Bool)
  /-- LPDDR_RETRY_FAIL (R457). An LPDDR read retry also fails and the data is poisoned and recorded. -/
  | lpddrRetryFail (t channel addr : Nat)
  /-- PMBUS_POLL_WINDOW (R426). A PMBus polling window ends with package power measured. -/
  | pmbusPollWindow (t : Nat) (rails : List RailVI) (sensors : List Int)
  /-- PMB_ALERT (R426). PMB_ALERT_N goes low and STATUS_WORD of every mapped rail is read. -/
  | pmbAlert (t : Nat) (faultRails : List Nat)
  /-- DROOP_TRIP (R428). A region's supply falls below V_TRIM − 45 mV and its ACLK is stretched to 5 ns. -/
  | droopTrip (t d r : Nat)
  /-- STRETCH_END (R428). A stretched region returns to 4 ns after its hold and 16 good cycles. -/
  | stretchEnd (t d r cycles : Nat)
  /-- SRV_DRAIN (R437). Command 0x0B01 starts draining a partition. -/
  | srvDrain (c : Nat) (p : Packet)
  /-- DRAIN_COMPLETE (R437). Every region of a draining partition is idle and the drain reply is written. -/
  | drainComplete (t part : Nat)
  /-- SRV_REPAIR (R439). Command 0x0B02 tests a drained region, writes repair records and rebinds it. -/
  | srvRepair (c : Nat) (p : Packet)
  /-- REPAIR_COMPLETE (R439). A repair's tests finish and records and rebinding are written. -/
  | repairComplete (t part : Nat) (found : RepairFound)
  /-- SRV_RESUME (R440). Command 0x0B03 reloads and tests a drained partition and returns it to service. -/
  | srvResume (c : Nat) (p : Packet)
  /-- RESUME_COMPLETE (R440). A resume's reload, tests and swaps-in finish and the partition returns to service. -/
  | resumeComplete (t part : Nat) (storeOk : Bool) (testFail : List Nat)
  /-- SRV_PART_LOAD (R441). Command 0x0B04 replaces a drained partition's work with a partition image. -/
  | srvPartLoad (c : Nat) (p : Packet) (img : Option Image)
  /-- SRV_FW_UPDATE (R442). Command 0x0B05 loads new hub firmware for a live handover. -/
  | srvFwUpdate (c : Nat) (p : Packet) (env : Option Envelope)
  /-- FW_HANDOVER_TAKEOVER (R442). At the end of a fetch slot core 2 takes over command processing with the new
  firmware. -/
  | fwHandoverTakeover (t : Nat)
  /-- FW_HANDOVER_RETURN (R442). At the end of a later fetch slot cores 0 and 1 take command processing back. -/
  | fwHandoverReturn (t : Nat)
  /-- SRV_FLASH_WRITE (R442). Command 0x0B06 writes and verifies firmware copies in the boot flash. -/
  | srvFlashWrite (c : Nat) (p : Packet) (env : Option Envelope)
  /-- FLASH_WRITE_COMPLETE (R442). The flash copies and directory are written and verified and the reply follows. -/
  | flashWriteComplete (t : Nat) (ok : Bool)
  /-- SRV_RESET (R445). Command 0x0B07 performs a part reset. -/
  | srvReset (c : Nat) (p : Packet)
  /-- PWR_CAP_SET (R432). Command 0x0B08 sets the package power cap. -/
  | pwrCapSet (c : Nat) (p : Packet)
  /-- SRV_QUERY (R445). Command 0x0B09 returns power, service and repair state. -/
  | srvQuery (c : Nat) (p : Packet)
  /-- TLM_OPEN (R445). Command 0x0C01 opens a telemetry stream. -/
  | tlmOpen (c : Nat) (p : Packet)
  /-- TLM_CLOSE (R445). Command 0x0C02 closes a telemetry stream. -/
  | tlmClose (c : Nat) (p : Packet)
  /-- TELEMETRY_RECORD (R444). A telemetry stream's period ends and a record is produced and written unless decimated
  or dropped. -/
  | telemetryRecord (t stream : Nat) (samples : TlmSamples)
  /-- CHANNEL_DISAGREE (R371). The supervisor's channel A and channel B disagree and event 0x17 (SUPERVISOR) is
  raised, putting the package into safe state until reset. -/
  | channelDisagree (t : Nat)
  /-- SCHED_FAULT (R371). A parity or uncorrectable error in the time unit or schedule engine raises event 0x11 and
  puts the package into safe state until reset. -/
  | schedFault (t : Nat)
  /-- ROLINK_COUNTER_SIGNAL (R313). A system-scope counter signal arrives over Rolink from another package and is
  applied to a package counter, granting waits it enables. -/
  | rolinkCounterSignal (t pkg part counter n : Nat)
  /-- ROLINK_FORWARD (R460). A Rolink flit addressed to another package arrives and is forwarded in the slot reserved
  for it. -/
  | rolinkForward (port dest : Nat)
  /-- CAN_RECEIVE_ERROR (R345). A protocol error is detected while a frame is received; the receive error counter
  moves, CAN_Cc_ERR records LEC, and the controller may go error passive or bus-off. -/
  | canReceiveError (ctl lec : Nat)
  /-- ETH_LINK_CHANGE (R478). An Ethernet port's link comes up or goes down, and ETH_STATUS.LINK changes. -/
  | ethLinkChange (port : Nat) (up : Bool)
  /-- CSI_PORT_CHANGE (R353). A camera port starts or stops receiving, and CAP_STATUS.PORT_UP changes. -/
  | csiPortChange (port : Nat) (up : Bool)
  /-- CONFIGURATION_REQUEST (R434). A PCIe configuration request arrives and, until BAR0 can be read, is answered with
  Configuration Request Retry Status. -/
  | configurationRequest (req : CfgReq)
  deriving DecidableEq, Repr

end Sys2Proof
end

