-- ==== Sys2Proof/Decode.lean ====
section
/-! DEFINITION. The commands that words spell. spec/opcode_table.json gives no row any bits: commands arrive as packets, register
accesses and events, and the operation a packet asks for is read from its opcode when the command starts (R297, R298). -/
namespace Sys2Proof

/-- The command a word spells by the table's bits: none, as no row of the table has any. -/
def decodeTableWord (_nbits _w : Nat) : Option Instr := none

end Sys2Proof
end

