-- ==== Sys2Proof/Machine/Num.lean ====
section
/-! DEFINITION. The number formats of R38 to R43 as exact arithmetic: a value is decoded into NaN, an infinity or a signed
integer multiple of a power of two, an operation is computed exactly, and one rounding (to nearest, ties to even, R41)
encodes the result. -/
namespace Sys2Proof.Machine

/-- A floating-point format (R38): exponent bits, fraction bits, bias, and whether it has infinities (all but E4M3, R39). -/
structure Fmt where
  ew   : Nat
  fw   : Nat
  bias : Nat
  infs : Bool := true
  deriving DecidableEq, Repr

/-- FP64, FP32, BF16, FP16 and the two FP8 formats (R38). -/
def fp64 : Fmt := ⟨11, 52, 1023, true⟩
/-- FP32. -/
def fp32 : Fmt := ⟨8, 23, 127, true⟩
/-- BF16. -/
def bf16 : Fmt := ⟨8, 7, 127, true⟩
/-- FP16. -/
def fp16 : Fmt := ⟨5, 10, 15, true⟩
/-- FP8 E4M3, which has no infinities (R39). -/
def e4m3 : Fmt := ⟨4, 3, 7, false⟩
/-- FP8 E5M2. -/
def e5m2 : Fmt := ⟨5, 2, 15, true⟩

/-- A decoded value: a NaN, an infinity, or ±`m` × 2^`e`. -/
inductive FVal where
  | nan
  | inf (neg : Bool)
  | fin (neg : Bool) (m : Nat) (e : Int)
  deriving DecidableEq, Repr

/-- The value an encoding of format `f` denotes (R38, R39). -/
def Fmt.decode (f : Fmt) (x : Nat) : FVal :=
  let frac := x % 2 ^ f.fw
  let ex := (x / 2 ^ f.fw) % 2 ^ f.ew
  let neg := (x / 2 ^ (f.fw + f.ew)) % 2 == 1
  if ex = 2 ^ f.ew - 1 ∧ f.infs then (if frac = 0 then .inf neg else .nan)
  else if ex = 2 ^ f.ew - 1 ∧ frac = 2 ^ f.fw - 1 then .nan
  else if ex = 0 then .fin neg frac (1 - (f.bias : Int) - f.fw)
  else .fin neg (2 ^ f.fw + frac) ((ex : Int) - f.bias - f.fw)

/-- The canonical NaN of a format (R43). -/
def Fmt.nan (f : Fmt) : Nat :=
  if f.infs then (2 ^ f.ew - 1) * 2 ^ f.fw + 2 ^ (f.fw - 1) else 2 ^ (f.ew + f.fw) - 1

/-- The sign bit of a format. -/
def Fmt.signBit (f : Fmt) (neg : Bool) : Nat := if neg then 2 ^ (f.ew + f.fw) else 0

/-- What a magnitude beyond the largest finite one becomes (R42): an infinity, or ±448 in E4M3. -/
def Fmt.overflow (f : Fmt) (neg : Bool) : Nat :=
  f.signBit neg + (if f.infs then (2 ^ f.ew - 1) * 2 ^ f.fw else 2 ^ (f.ew + f.fw) - 2)

/-- The quotient of `m` by 2^`k`, to nearest with ties to even; `sticky` says that the exact value lies above `m`. -/
def shiftRne (m k : Nat) (sticky : Bool) : Nat :=
  if k = 0 then m else
    let q := m / 2 ^ k
    let r := m % 2 ^ k
    let half := 2 ^ (k - 1)
    if r > half ∨ (r = half ∧ (sticky ∨ q % 2 = 1)) then q + 1 else q

/-- The encoding of ±`m` × 2^`e` (a little more where `sticky`), rounded once (R41), with overflow as R42 says. -/
def Fmt.round (f : Fmt) (neg : Bool) (m : Nat) (e : Int) (sticky : Bool := false) : Nat :=
  if m = 0 then f.signBit neg else
    let top : Int := e + Nat.log2 m
    let lo : Int := 1 - (f.bias : Int) - f.fw
    let q : Int := max (top - f.fw) lo
    let sig := if e ≥ q then m * 2 ^ (e - q).toNat else shiftRne m (q - e).toNat sticky
    let body := (q - lo).toNat * 2 ^ f.fw + sig
    let limit := if f.infs then (2 ^ f.ew - 1) * 2 ^ f.fw else 2 ^ (f.ew + f.fw) - 1
    if body ≥ limit then f.overflow neg else f.signBit neg + body

/-- The encoding of a value in format `f`, rounded once. -/
def Fmt.encode (f : Fmt) : FVal → Nat
  | .nan => f.nan
  | .inf neg => f.overflow neg
  | .fin neg m e => f.round neg m e

/-- The signed integer multiple of 2^`e` that ±`m` × 2^`e0` is, for `e` ≤ `e0`. -/
def scaledInt (neg : Bool) (m : Nat) (e0 e : Int) : Int :=
  let v : Int := (m * 2 ^ (e0 - e).toNat : Nat)
  if neg then -v else v

/-- The exact sum of two values; a zero sum is +0 unless both are -0 (IEEE 754 under rounding to nearest). -/
def FVal.add : FVal → FVal → FVal
  | .nan, _ => .nan
  | _, .nan => .nan
  | .inf a, .inf b => if a = b then .inf a else .nan
  | .inf a, _ => .inf a
  | _, .inf b => .inf b
  | .fin sa ma ea, .fin sb mb eb =>
    let e := min ea eb
    let v := scaledInt sa ma ea e + scaledInt sb mb eb e
    if v = 0 then .fin (sa && sb) 0 e else .fin (decide (v < 0)) v.natAbs e

/-- A value with its sign turned. -/
def FVal.neg : FVal → FVal
  | .nan => .nan
  | .inf a => .inf (!a)
  | .fin s m e => .fin (!s) m e

/-- The exact product of two values under the IEEE 754 rules. -/
def FVal.mul : FVal → FVal → FVal
  | .nan, _ => .nan
  | _, .nan => .nan
  | .inf a, .inf b => .inf (a != b)
  | .inf a, .fin s m _ => if m = 0 then .nan else .inf (a != s)
  | .fin s m _, .inf a => if m = 0 then .nan else .inf (a != s)
  | .fin sa ma ea, .fin sb mb eb => .fin (sa != sb) (ma * mb) (ea + eb)

/-- Whether a value is finite. -/
def FVal.isFin : FVal → Bool
  | .fin .. => true
  | _ => false

/-- Whether a value is a NaN. -/
def FVal.isNan : FVal → Bool
  | .nan => true
  | _ => false

/-- Whether a value is zero. -/
def FVal.isZero : FVal → Bool
  | .fin _ m _ => m == 0
  | _ => false

/-- The magnitude of a value. -/
def FVal.abs : FVal → FVal
  | .nan => .nan
  | .inf _ => .inf false
  | .fin _ m e => .fin false m e

/-- Whether the first value is less than the second (false with a NaN). -/
def FVal.lt : FVal → FVal → Bool
  | .nan, _ => false
  | _, .nan => false
  | .inf a, .inf b => a && !b
  | .inf a, .fin .. => a
  | .fin .., .inf b => !b
  | .fin sa ma ea, .fin sb mb eb =>
    let e := min ea eb
    decide (scaledInt sa ma ea e < scaledInt sb mb eb e)

/-- Addition in a format: exact, then rounded once (R46). -/
def Fmt.add (f : Fmt) (a b : Nat) : Nat := f.encode ((f.decode a).add (f.decode b))
/-- Subtraction in a format. -/
def Fmt.sub (f : Fmt) (a b : Nat) : Nat := f.encode ((f.decode a).add (f.decode b).neg)
/-- Multiplication in a format. -/
def Fmt.mul (f : Fmt) (a b : Nat) : Nat := f.encode ((f.decode a).mul (f.decode b))
/-- Fused multiply-add: rounds once (R46). -/
def Fmt.fma (f : Fmt) (a b c : Nat) : Nat := f.encode (((f.decode a).mul (f.decode b)).add (f.decode c))

/-- Division in a format, rounded once; a non-zero number over zero is an infinity (IEEE 754). -/
def Fmt.div (f : Fmt) (a b : Nat) : Nat :=
  match f.decode a, f.decode b with
  | .nan, _ => f.nan
  | _, .nan => f.nan
  | .inf _, .inf _ => f.nan
  | .inf s, .fin t _ _ => f.overflow (s != t)
  | .fin s _ _, .inf t => f.signBit (s != t)
  | .fin s m e, .fin t n g =>
    if n = 0 then (if m = 0 then f.nan else f.overflow (s != t))
    else if m = 0 then f.signBit (s != t) else
      let k := f.fw + 3 + Nat.log2 n + 1
      let num := m * 2 ^ k
      f.round (s != t) (2 * (num / n)) (e - g - k - 1 : Int) (num % n != 0)

/-- The integer square root, bit by bit from bit `k` - 1 down, starting from root `r`. -/
def isqrtFrom (n : Nat) : Nat → Nat → Nat
  | 0, r => r
  | k + 1, r => isqrtFrom n k (if (r + 2 ^ k) * (r + 2 ^ k) ≤ n then r + 2 ^ k else r)

/-- The largest integer whose square is at most `n`. -/
def isqrt (n : Nat) : Nat := isqrtFrom n (Nat.log2 n / 2 + 1) 0

/-- Square root in a format, rounded once (IEEE 754): a NaN below zero. -/
def Fmt.sqrt (f : Fmt) (a : Nat) : Nat :=
  match f.decode a with
  | .nan => f.nan
  | .inf s => if s then f.nan else f.overflow false
  | .fin s m e =>
    if m = 0 then f.signBit s
    else if s then f.nan else
      let k := 2 * (f.fw + 3)
      let odd := (e % 2 == 1)
      let num := (if odd then 2 * m else m) * 2 ^ k
      let e' := if odd then e - 1 else e
      let rt := isqrt num
      f.round false (2 * rt) (e' / 2 - (f.fw + 3) - 1 : Int) (rt * rt != num)

/-- Conversion from one format to another, rounded once (R41 to R43). -/
def Fmt.convert (src dst : Fmt) (x : Nat) : Nat := dst.encode (src.decode x)

/-- An integer in a format, rounded once. -/
def Fmt.ofInt (f : Fmt) (v : Int) : Nat := f.round (decide (v < 0)) v.natAbs 0

/-- A finite value times 2^`n`, to the nearest integer with ties to even; none for a NaN or an infinity. -/
def FVal.toInt (n : Int) : FVal → Option Int
  | .fin s m e =>
    let g := e + n
    let v : Nat := if g ≥ 0 then m * 2 ^ g.toNat else shiftRne m (-g).toNat false
    some (if s then -(v : Int) else v)
  | _ => none

/-- Saturation of an exact integer to a two's-complement range of `w` bits. -/
def satInt (w : Nat) (v : Int) : Int :=
  let hi : Int := 2 ^ (w - 1) - 1
  let lo : Int := -(2 ^ (w - 1))
  if v > hi then hi else if v < lo then lo else v

/-- The quotient of an exact integer by 2^`k`, to nearest with ties to even. -/
def intRne (v : Int) (k : Nat) : Int :=
  let q : Int := (shiftRne v.natAbs k false : Nat)
  if v < 0 then -q else q

/-- FP32 operations on register words (R46). -/
def f32Add (a b : Word) : Word := BitVec.ofNat 32 (fp32.add a.toNat b.toNat)
/-- FP32 subtraction. -/
def f32Sub (a b : Word) : Word := BitVec.ofNat 32 (fp32.sub a.toNat b.toNat)
/-- FP32 multiplication. -/
def f32Mul (a b : Word) : Word := BitVec.ofNat 32 (fp32.mul a.toNat b.toNat)
/-- FP32 division. -/
def f32Div (a b : Word) : Word := BitVec.ofNat 32 (fp32.div a.toNat b.toNat)
/-- FP32 fused multiply-add. -/
def f32Fma (a b c : Word) : Word := BitVec.ofNat 32 (fp32.fma a.toNat b.toNat c.toNat)
/-- The value of an FP32 word. -/
def f32Val (a : Word) : FVal := fp32.decode a.toNat
/-- Whether an FP32 word is finite. -/
def f32Fin (a : Word) : Bool := (f32Val a).isFin
/-- Whether an FP32 word is a NaN. -/
def f32Nan (a : Word) : Bool := (f32Val a).isNan
/-- The magnitude of an FP32 word. -/
def f32Abs (a : Word) : Word := a &&& 0x7FFFFFFF
/-- An FP32 word with its sign turned. -/
def f32Neg (a : Word) : Word := a ^^^ 0x80000000
/-- Whether one FP32 word is less than another. -/
def f32Lt (a b : Word) : Bool := (f32Val a).lt (f32Val b)
/-- BF16 to FP32, exactly. -/
def bf16ToF32 (x : BitVec 16) : Word := BitVec.ofNat 32 (bf16.convert fp32 x.toNat)
/-- FP32 to BF16 under R41. -/
def f32ToBf16 (x : Word) : BitVec 16 := BitVec.ofNat 16 (fp32.convert bf16 x.toNat)
/-- FP16 to FP32, exactly. -/
def fp16ToF32 (x : BitVec 16) : Word := BitVec.ofNat 32 (fp16.convert fp32 x.toNat)
/-- FP32 to FP16 under R41. -/
def f32ToFp16 (x : Word) : BitVec 16 := BitVec.ofNat 16 (fp32.convert fp16 x.toNat)
/-- A 32-bit signed integer in FP32, rounded once. -/
def i32ToF32 (v : Int) : Word := BitVec.ofNat 32 (fp32.ofInt v)

/-- FP64 operations on 64-bit values (R46). -/
def f64Add (a b : DWord) : DWord := BitVec.ofNat 64 (fp64.add a.toNat b.toNat)
/-- FP64 subtraction. -/
def f64Sub (a b : DWord) : DWord := BitVec.ofNat 64 (fp64.sub a.toNat b.toNat)
/-- FP64 multiplication. -/
def f64Mul (a b : DWord) : DWord := BitVec.ofNat 64 (fp64.mul a.toNat b.toNat)
/-- FP64 division. -/
def f64Div (a b : DWord) : DWord := BitVec.ofNat 64 (fp64.div a.toNat b.toNat)
/-- FP64 fused multiply-add. -/
def f64Fma (a b c : DWord) : DWord := BitVec.ofNat 64 (fp64.fma a.toNat b.toNat c.toNat)
/-- FP64 square root. -/
def f64Sqrt (a : DWord) : DWord := BitVec.ofNat 64 (fp64.sqrt a.toNat)
/-- The value of an FP64 number. -/
def f64Val (a : DWord) : FVal := fp64.decode a.toNat
/-- Whether an FP64 number is finite. -/
def f64Fin (a : DWord) : Bool := (f64Val a).isFin
/-- Whether one FP64 number is less than another. -/
def f64Lt (a b : DWord) : Bool := (f64Val a).lt (f64Val b)
/-- FP64 to FP32 under R41. -/
def f64ToF32 (a : DWord) : Word := BitVec.ofNat 32 (fp64.convert fp32 a.toNat)
/-- FP32 to FP64, exactly. -/
def f32ToF64 (a : Word) : DWord := BitVec.ofNat 64 (fp32.convert fp64 a.toNat)

end Sys2Proof.Machine
end

