-- ==== Sys2Proof/Machine/Table.lean ====
section
/-! DEFINITION. Reading and writing the sparse tables of State: a key that a table does not list holds the table's default,
and a write of the default removes the entry, so that equal tables are equal data. Memory is such a table of bytes, in
which an unlisted address reads 0. -/
namespace Sys2Proof.Machine

/-- What a table holds at a key; `d` is the table's default. -/
def tblGet {α : Type} (d : α) : Tbl α → Nat → α
  | [], _ => d
  | (k, v) :: rest, n => if k = n then v else tblGet d rest n

/-- A table without a key. -/
def tblErase {α : Type} : Tbl α → Nat → Tbl α
  | [], _ => []
  | (k, v) :: rest, n => if k = n then tblErase rest n else (k, v) :: tblErase rest n

/-- A table with an entry put in its place in the order of keys. -/
def tblInsert {α : Type} : Tbl α → Nat → α → Tbl α
  | [], n, v => [(n, v)]
  | (k, w) :: rest, n, v => if n < k then (n, v) :: (k, w) :: rest else (k, w) :: tblInsert rest n v

/-- Writing a key: the default removes the entry. -/
def tblSet {α : Type} [DecidableEq α] (d : α) (t : Tbl α) (n : Nat) (v : α) : Tbl α :=
  if v = d then tblErase t n else tblInsert (tblErase t n) n v

/-- Changing what a key holds. -/
def tblUpd {α : Type} [DecidableEq α] (d : α) (t : Tbl α) (n : Nat) (f : α → α) : Tbl α :=
  tblSet d t n (f (tblGet d t n))

/-- Changing every listed entry, dropping those that become the default. -/
def tblMap {α : Type} [DecidableEq α] (d : α) (f : Nat → α → α) : Tbl α → Tbl α
  | [] => []
  | (k, v) :: rest => if f k v = d then tblMap d f rest else (k, f k v) :: tblMap d f rest

/-- Whether keys rise strictly from `lo` on and no entry holds the default: the canonical form. -/
def tblWfFrom {α : Type} [DecidableEq α] (d : α) : Nat → Tbl α → Bool
  | _, [] => true
  | lo, (k, v) :: rest => decide (lo ≤ k) && decide (v ≠ d) && tblWfFrom d (k + 1) rest

/-- The canonical form of a table. -/
def tblWf {α : Type} [DecidableEq α] (d : α) (t : Tbl α) : Bool := tblWfFrom d 0 t

/-- The canonical form of a memory: addresses strictly rising, no byte equal to 0. -/
def Memory.wf (m : Mem) : Bool := tblWf (0 : Byte) m

/-- One byte of a memory. -/
def memGet (m : Mem) (a : Nat) : Byte := tblGet 0 m a

/-- A memory with one byte written. -/
def memSet (m : Mem) (a : Nat) (b : Byte) : Mem := tblSet 0 m a b

/-- A memory with a run of bytes written from an address on. -/
def memWrite (m : Mem) (a : Nat) : List Byte → Mem
  | [] => m
  | b :: bs => memWrite (memSet m a b) (a + 1) bs

/-- A run of bytes of a memory. -/
def memRead (m : Mem) (a : Nat) : Nat → List Byte
  | 0 => []
  | n + 1 => memGet m a :: memRead m (a + 1) n

/-- The little-endian bytes of a number (R11). -/
def leBytes (n : Nat) : Nat → List Byte
  | 0 => []
  | k + 1 => BitVec.ofNat 8 (n % 256) :: leBytes (n / 256) k

/-- The number that little-endian bytes spell (R11). -/
def leNat : List Byte → Nat
  | [] => 0
  | b :: bs => b.toNat + 256 * leNat bs

/-- Bytes `a` to `a` + `n` - 1 of a list, 0 beyond its end. -/
def bytesAt (l : List Byte) (a n : Nat) : List Byte := (List.range n).map fun i => l.getD (a + i) 0

/-- A little-endian field of a byte list. -/
def leField (l : List Byte) (a n : Nat) : Nat := leNat (bytesAt l a n)

/-- The 32-bit words of a byte list, little-endian. -/
def leWords (l : List Byte) (n : Nat) : List Word := (List.range n).map fun i => BitVec.ofNat 32 (leField l (4 * i) 4)

/-- The bytes of a list of words, little-endian. -/
def wordBytes (ws : List Word) : List Byte := ws.flatMap fun w => leBytes w.toNat 4

/-- Bit `i` of a number. -/
def bitOf (n i : Nat) : Bool := n / 2 ^ i % 2 == 1

/-- Bits `lo` to `lo` + `w` - 1 of a number. -/
def bitsOf (n lo w : Nat) : Nat := n / 2 ^ lo % 2 ^ w

/-- 1 or 0 in a field that starts at bit `i`. -/
def bitAt (b : Bool) (i : Nat) : Nat := if b then 2 ^ i else 0

/-- A counter register with `n` added, which saturates at 0xFFFF_FFFF. -/
def satAdd (w : Word) (n : Nat) : Word := if w.toNat + n ≥ 0xFFFFFFFF then 0xFFFFFFFF else BitVec.ofNat 32 (w.toNat + n)

/-- A counter register with 1 added, saturating. -/
def satInc (w : Word) : Word := satAdd w 1

/-- A word built from a number. -/
def w32 (n : Nat) : Word := BitVec.ofNat 32 n

/-- How many elements of a list meet a test. -/
def countIf {α : Type} (f : α → Bool) (l : List α) : Nat := (l.filter f).length

/-- Whether a bit of a mask is set. -/
def maskBit {w : Nat} (m : BitVec w) (i : Nat) : Bool := m.getLsbD i

/-- A mask with one bit set. -/
def maskSet {w : Nat} (m : BitVec w) (i : Nat) : BitVec w := m ||| BitVec.ofNat w (2 ^ i)

/-- A mask with one bit cleared. -/
def maskClear {w : Nat} (m : BitVec w) (i : Nat) : BitVec w := m &&& ~~~ (BitVec.ofNat w (2 ^ i))

end Sys2Proof.Machine
end

