-- ==== Sys2Proof/StateHub.lean ====
section
/-! DEFINITION. The state of the hub die's central blocks: GLOBAL (R35), time unit and schedule engine (R250 to R289),
command processor and synchronisation counters (R290 to R325), safety supervisor (R369 to R398), power and service
(R424 to R450). -/
namespace Sys2Proof.Machine

/-- The GLOBAL block (R35, R36) and what manufacture fixed: the grade, the regions it
enables (R1, R21) and V_TRIM of each die in mV (R424).
The fault bits are those of GLOBAL_FAULT, `linkDown` the links out of service in the same order (R25, R37); `lmap` binds a logical region to a die and a physical region (R22). -/
structure Glob where
  grade44     : Bool := false
  enabled0    : BitVec 16 := 0xFFFF
  enabled1    : BitVec 16 := 0xFFFF
  vtrim0      : Nat := 700
  vtrim1      : Nat := 700
  det         : Bool := false
  pkgId       : BitVec 3 := 0
  pkgCount    : BitVec 3 := 0
  modeRefused : Bool := false
  loading     : Bool := false
  safeHold    : Bool := false
  imageLoaded : Bool := false
  die0Up      : Bool := false
  die1Up      : Bool := false
  hubReady    : Bool := false
  nocRetry0   : Word := 0
  nocRetry1   : Word := 0
  fault       : BitVec 4 := 0
  linkDown    : BitVec 4 := 0
  lmap        : Tbl (Nat × Nat) := []
  deriving DecidableEq, Repr

/-- States of a phase domain (R286). -/
inductive DomState where
  | idle | acquire | run | holdover
  deriving DecidableEq, Repr

/-- A command that waits for a later event: its context, its place in the context's fetch order, its tag, IRQ flag, the
class it runs in (R304) and its deadline. -/
structure CmdRef where
  ctx      : Nat
  uid      : Nat
  tag      : Word
  irq      : Bool := false
  cls      : Nat := 2
  deadline : DWord := 0
  deriving DecidableEq, Repr

/-- A table in the pool (R270): its index in the image (none: the built-in table, or the FETCH entries Viruk placed),
its first pool entry, its period and entries. -/
structure PoolTable where
  index   : Option Nat := none
  base    : Nat := 0
  period  : Nat := 20000
  entries : List Entry := []
  deriving DecidableEq, Repr

/-- A phase domain (R252). `phi` is the phase at tick `baseTick` in a domain without a time value; between source
events it follows R257, in HOLDOVER R262. `rate` is RATE or the estimate, in units of 2^-48; `offset` is OFFSET in
units of 2^-16 ns (R251). `fired` lists the entries of the current period that have fired (R260); `stepPhi` is the phase that the latest step landed
on, until the boundaries it passed are taken (R261); `eventTick` is the tick of the latest source event or line start. -/
structure Domain where
  state     : DomState := .idle
  source    : Nat := 0
  sel       : Nat := 0
  ps        : Nat := 0
  word      : Nat := 0
  zsync     : Bool := false
  ztol      : Nat := 0
  disc      : Nat := 0
  discSel   : Nat := 0
  owner     : Nat := 0
  loss      : Nat := 0
  maxRate   : Nat := 0
  unref     : Bool := false
  overspeed : Bool := false
  locked    : Bool := false
  phiK      : Word := 0
  pcount    : BitVec 64 := 0
  rate      : Int := 0
  offset    : Int := 0
  phi       : Word := 0
  baseTick  : Nat := 0
  events    : Nat := 0
  winPhi    : Word := 0
  winTick   : Nat := 0
  goodEx    : Nat := 0
  missedEx  : Nat := 0
  mainsLast : Int := 0
  mainsTick : Nat := 0
  fired     : List Nat := []
  firedCyc  : Option Nat := none
  active    : PoolTable := {}
  staged    : Option PoolTable := none
  stepPhi   : Option Word := none
  eventTick : Nat := 0
  skipCnt   : Word := 0
  holdCnt   : Word := 0
  snapPhase : Word := 0
  snapNs    : Word := 0
  snapSecLo : Word := 0
  snapSecHi : Word := 0
  deriving DecidableEq, Repr

/-- The time unit (R250, R285): the 64-bit counter, the captured high word, TIME_EVENT and the eight domains. -/
structure TimeUnit where
  cnt   : Nat := 0
  cntHi : Word := 0
  event : Word := 0
  doms  : Tbl Domain := []
  deriving DecidableEq, Repr

/-- A started entry that has not completed (R275, R276): domain, pool index, entry, tick of firing, and whether LATE has
been recorded; `armed` is false where R438 arms no watchdog. -/
structure Started where
  d      : Nat
  pool   : Nat
  index  : Nat
  entry  : Entry
  firedT : Nat
  armed  : Bool := true
  late   : Bool := false
  deriving DecidableEq, Repr

/-- A TBL_SWAP that has not finished (R279): the domains still to swap, the lead, whether it has swapped and at which
PCOUNT, the pool tables it frees at the end, and its command (none for the swap of a resumed partition, R441). -/
structure Swap where
  todo     : List Nat
  lead     : Nat
  leadDone : Option (BitVec 64) := none
  retired  : List PoolTable := []
  cmd      : Option CmdRef := none
  cyc      : Option Nat := none
  deriving DecidableEq, Repr

/-- A class 2 and class 3 slice that is open (R278, R431): its partition, when it opened and its end. -/
structure Slice where
  part  : Nat
  openT : Nat := 0
  endT  : Nat
  deriving DecidableEq, Repr

/-- The schedule engine (R270 to R289). `wdErr` is SCHED_WD_ERR; `fetchStart` is the context at which the previous firing
of each fetch-slot descriptor began (R295); `records` the completion records of entries by pool index (R272, R374); `resumed` the
partition, domain and PCOUNT of resumptions, up to whose next boundary class 1 entries stay stopped (R440). -/
structure Sched where
  builtin    : Bool := true
  bank       : BitVec 8 := 0
  overrunCnt : Word := 0
  earlyCnt   : Word := 0
  lateCnt    : Word := 0
  missedCnt  : Word := 0
  wdErr      : Word := 0
  swaps      : List Swap := []
  started    : List Started := []
  slices     : List Slice := []
  fetchStart : Tbl Nat := []
  records    : Tbl (BitVec 16 × BitVec 64) := []
  resumed    : List (Nat × Nat × BitVec 64) := []
  deriving DecidableEq, Repr

/-- Context states (R290). -/
inductive CtxState where
  | detached | attached | suspended | error
  deriving DecidableEq, Repr

/-- A reply that is complete (R300), with the place in fetch order of the command it answers (none: the reply of R302). -/
structure Reply where
  uid    : Option Nat := none
  tag    : Word
  status : BitVec 16
  aux    : BitVec 16 := 0
  cls    : Nat := 2
  stamp  : BitVec 30 := 0
  result : List Word := []
  irq    : Bool := false
  deriving DecidableEq, Repr

/-- One entry of a translation table (R316). -/
structure MapEntry where
  counter : Nat
  sig     : Bool
  wait    : Bool
  deriving DecidableEq, Repr

/-- A context (R290 to R303): its registers, what its ring control block gave it, its indices, the commands in flight by
their place in fetch order (R296), the replies that wait to be written (R301), and its translation table (R316). -/
structure Ctx where
  state    : CtxState := .detached
  func     : Nat := 0
  part     : Nat := 0
  cls      : Nat := 0
  err      : Nat := 0
  rcb      : Nat := 0
  cmdRing  : Nat := 0
  rplRing  : Nat := 0
  cmdLog2  : Nat := 6
  rplLog2  : Nat := 6
  vector   : Nat := 0
  cmdCi    : Word := 0
  rplPi    : Word := 0
  fetched  : BitVec 16 := 0
  inflight : List Nat := []
  replies  : List Reply := []
  vids     : Tbl MapEntry := []
  deriving DecidableEq, Repr

/-- A fetched command that has not started (R298, R310, R311): whether it stands in the control queue, and when it was fetched; of an
IMG_LOAD that is held for the compute dies (R32), the image that it read, or that the read failed. -/
structure Queued where
  cmd      : CmdRef
  packet   : Packet
  part     : Nat
  control  : Bool
  fetchedT : Nat
  img      : Option (Option Image) := none
  deriving DecidableEq, Repr

/-- A running memory or execution command (R306, R308): the task or the transfer it waits for. -/
structure Running where
  cmd    : CmdRef
  packet : Packet
  part   : Nat
  words  : List Word := []
  deriving DecidableEq, Repr

/-- The command processor (R290 to R312, R321, R322). `msix` counts the messages raised, by function × 4096 + vector; `loadCmd` is
the IMG_LOAD whose load runs; `leaving` lists detaches and resets that are
replied to at the next step boundary of a partition (R303). -/
structure Cmd where
  ctxs        : Tbl Ctx := []
  bootRcb     : DWord := 0
  ctx0Cause   : BitVec 2 := 0
  ctx0Fail    : Bool := false
  bootRefused : Bool := false
  decim       : Nat := 0
  qfill       : Nat := 0
  load        : Nat := 0
  busyCnt     : Word := 0
  fetchCnt    : Word := 0
  refusedCnt  : Word := 0
  nextUid     : Nat := 0
  queue       : List Queued := []
  running     : List Running := []
  loadCmd     : Option Queued := none
  loadT       : Option Nat := none
  leaving     : List (Nat × CmdRef) := []
  msix        : Tbl Nat := []
  deriving DecidableEq, Repr

/-- States of a package counter (R318). -/
inductive CounterState where
  | free | live | abandoned
  deriving DecidableEq, Repr

/-- A package counter (R314 to R318). -/
structure Counter where
  state : CounterState := .free
  value : Nat := 0
  owner : Nat := 0
  part  : Nat := 0
  image : Bool := false
  deriving DecidableEq, Repr

/-- Who waits on a counter (R315): a SYNC_WAIT command, or the MEAS_SYNC wait of a problem slot. -/
inductive Waiter where
  | cmd (ref : CmdRef)
  | solver (slot : Nat)
  | entry (d e : Nat)
  deriving DecidableEq, Repr

/-- A pending wait (R315): its requester, the cycle in which it was registered, and its place among the waits of one cycle. -/
structure Wait where
  counter : Nat
  n       : Nat
  who     : Waiter
  cyc     : Nat := 0
  rank    : Nat := 0
  deriving DecidableEq, Repr

/-- The SYNC block (R313 to R324). `waits` stand in order of registration, `granted` lists the problem slots whose MEAS_SYNC wait has been granted (R196); `images` are the image maps of the partitions. -/
structure Sync where
  counters     : Tbl Counter := []
  waits        : List Wait := []
  granted      : List Nat := []
  reserved     : Nat := 0
  images       : Tbl (List VidMap) := []
  sel          : BitVec 14 := 0
  underflowCnt : Word := 0
  abandonCnt   : Word := 0
  timeoutCnt   : Word := 0
  deriving DecidableEq, Repr

/-- A safety log record (R395). -/
structure LogRec where
  code   : Nat
  level  : Nat
  part   : Nat
  detail : Nat
  time   : Nat
  deriving DecidableEq, Repr

/-- An event that put a scope into safe state (R380): its code, the unit charged, and whether its release condition is met. -/
structure SafeEvt where
  code   : Nat
  detail : Nat
  met    : Bool
  deriving DecidableEq, Repr

/-- Self-test state of a logical region (R384 to R387): the next slice, the ticks at which the 40 slices last passed,
whether the loss of cover has been reported, and whether a slice runs. -/
structure SelfTest where
  next     : Nat := 0
  passed   : List Nat := []
  late     : Bool := false
  running  : Bool := false
  deriving DecidableEq, Repr

/-- The safety supervisor (R369 to R398). `armed` is set by the first image load (R376); `depend` holds the SAFE_DEPEND
masks; `events` are the events that hold each partition (key 0 to 7) or the package
(key 8) in safe state; `messages` the safe-state messages that wait to be sent on Ethernet ports (key p) and CAN FD
controllers (key 16 + c), by event code. -/
structure Safe where
  heartbeat   : Bool := false
  hbRun       : Bool := false
  safeIn      : Bool := false
  outA        : Bool := false
  outB        : Bool := false
  armed       : Bool := false
  package     : Bool := false
  latched     : Bool := false
  parts       : BitVec 8 := 0
  pinMask     : BitVec 8 := 0
  depend      : Tbl (BitVec 8) := []
  cause       : Word := 0
  evtCnt      : Word := 0
  inj         : Word := 0
  safeInEn    : Bool := false
  hbPeriod    : BitVec 20 := 0
  stSel       : BitVec 5 := 0
  stAbandon   : Word := 0
  stFail      : Word := 0
  diagLate    : Word := 0
  gfRun       : Word := 0
  gfFail      : Word := 0
  react       : List Nat := []
  log         : List LogRec := []
  logCount    : Nat := 0
  events      : Tbl (List SafeEvt) := []
  messages    : Tbl Nat := []
  selftest    : Tbl SelfTest := []
  deriving DecidableEq, Repr

/-- A repair record of MRAM (R439). -/
structure Repair where
  kind   : Nat
  die    : Nat
  region : Nat
  tile   : Nat
  deriving DecidableEq, Repr

/-- A telemetry stream (R444, R445). -/
structure Tlm where
  ctx    : Nat
  kind   : Nat
  period : Nat
  log2   : Nat
  ring   : Nat
  seq    : Word := 0
  prod   : Nat := 0
  cons   : Nat := 0
  droop0 : Tbl Nat := []
  deriving DecidableEq, Repr

/-- Stages of a firmware handover (R442). -/
inductive Handover where
  | none | loaded | core2
  deriving DecidableEq, Repr

/-- Power and service (R424 to R450). `railsOn` says that the part has enabled VDD_CD0 and VDD_CD1 (R425); `rails` hold the latest measurement of each rail; `capNext` a cap set with no image loaded; `streak` counts the windows of
R432; `drainCmd`, `repairCmd` (with the region and tile named) and `resumeCmd` are the service commands that run, `rebound`
the logical regions that a repair has changed, `partImage` the partition images that wait for their resumption (R441). -/
structure Pwr where
  lpddrInit  : Bool := true
  capUnmet   : Bool := false
  throttle   : Nat := 0
  cap        : Nat := 75000
  capNext    : Option Nat := none
  floor      : Nat := 0
  pkgMw      : Nat := 0
  railSel    : BitVec 4 := 0
  rails      : Tbl (Nat × Nat) := []
  tjMax      : Int := 0
  drained    : BitVec 8 := 0
  draining   : BitVec 8 := 0
  capExceed  : Word := 0
  clkHub     : Bool := false
  clkDie     : Bool := false
  clkSerdes  : Bool := false
  streak     : Nat := 0
  handover   : Handover := .none
  fwCmd      : Option (CmdRef × Envelope) := none
  flashCmd   : Option (CmdRef × Envelope) := none
  drainCmd   : List (Nat × CmdRef) := []
  repairCmd  : List (CmdRef × Nat × Nat) := []
  resumeCmd  : List (Nat × CmdRef) := []
  rebound    : List Nat := []
  partImage  : Tbl Image := []
  railsOn    : Bool := false
  tlms       : Tbl (Option Tlm) := []
  deriving DecidableEq, Repr

end Sys2Proof.Machine
end

