-- ==== Sys2Proof/StateCompute.lean ====
section
/-! DEFINITION. The state of the compute regions (R69 to R126, R448), of the scratchpad and LPDDR contents, and of the
compiled work that has started and not completed. -/
namespace Sys2Proof.Machine

/-- A compiled pass under way: the work that runs it and its place among that work's passes. -/
structure PassKey where
  work : WorkId
  idx  : Nat
  deriving DecidableEq, Repr

/-- A stationary set of a cluster (R72, R73, R81): whose it is and which of the pass's sets for the cluster; its registers column by
column, each 16-bit value with its parity bit above it; and what stands in the banks that its strobe switches: the codebook and, for the
cluster's columns, the anchor table's entry and the block scales. -/
structure StatSet where
  key  : PassKey
  wave : Nat
  regs : List (List (BitVec 17)) := []
  bank : LayerDesc := {}
  deriving DecidableEq, Repr

/-- A cluster of a region (R72, R79 to R83): the set in its active registers and the one in its shadow registers, the region cycle in which
the shadow feed began, that of the latest strobe, how many vectors the active set serves and at what interval, and the swap requests
pending in a fine shape. -/
structure Cluster where
  active     : Option StatSet := none
  shadow     : Option StatSet := none
  loadCyc    : Nat := 0
  lastStrobe : Option Nat := none
  vectors    : Nat := 0
  every      : Nat := 1
  requests   : List SwapUnit := []
  deriving DecidableEq, Repr

/-- What a column has gathered for one position (R52 to R55): the 96-bit accumulator, its counts, and the special products. -/
structure ColAcc where
  acc    : Int := 0
  ovf    : Nat := 0
  loss   : Nat := 0
  sawNan : Bool := false
  posInf : Bool := false
  negInf : Bool := false
  deriving DecidableEq, Repr

/-- The result of one column for one position, with its counts (R52, R53, R57). -/
structure ColOut where
  value : Word
  ovf   : Nat
  loss  : Nat
  deriving DecidableEq, Repr

/-- An entry of a foot's position store (R79): the sum of the block under way and the column accumulator. -/
structure PosEntry where
  col : ColAcc := {}
  sum : Int := 0
  deriving DecidableEq, Repr

/-- The part of a compiled pass that a region runs: which pass, which of its shares, its class and partition, the vectors of its activations
that take part, whether each is a pass of its own (R137), whether it may begin (the passes it waits for are over), its descriptor as read at
its start, whether it is a wide re-run and then the block length of the layer's own mode (R65), the anchors by position (one entry where
they are those of the whole pass), the sets loaded and strobed for each cluster, the entries of the position stores by result and position,
the region cycle in which its last result so far is available, and, on the MVU, the one in which its product began. -/
structure RunPass where
  key      : PassKey
  cfg      : PassCfg
  share    : Nat
  cls      : Nat := 2
  part     : Nat := 0
  vecs     : List Nat := []
  template : Bool := false
  ready    : Bool := false
  desc     : LayerDesc := {}
  wide     : Option Nat := none
  anchors  : List (List Int) := []
  loaded   : Tbl Nat := []
  strobed  : Tbl Nat := []
  store    : Tbl PosEntry := []
  doneCyc  : Nat := 0
  began    : Option Nat := none
  deriving DecidableEq, Repr

/-- A window slot (R104): its base and bound stay when the task that holds it is over; `work` is none where no task does, `stopped` where a
refusal has stopped the task (R105). -/
structure Window where
  base    : Nat
  bound   : Nat
  part    : Nat := 0
  work    : Option WorkId := none
  stopped : Bool := false
  deriving DecidableEq, Repr

/-- Where a transfer's descriptor comes from (R113, R144): an offset in its window, or the part itself. -/
inductive XferSrc where
  | at_ (offset : Nat)
  | made (desc : XferDesc)
  deriving DecidableEq, Repr

/-- A transfer that has been started in program order and has not ended (R113): its descriptor, the window that it works in, the partition
and the work it belongs to, the LPDDR window of its task as an address and a length (R115), and, for a flush, the sequence it serves (R145)
with what is written to its staging area once the flush has completed (R144): addresses and bytes. -/
structure Xfer where
  src   : XferSrc
  desc  : XferDesc := {}
  base  : Nat := 0
  bound : Nat := 0
  lp    : Nat := 0
  lpLen : Nat := 0
  part  : Nat := 0
  cls   : Nat := 2
  work  : Option WorkId := none
  owner : Option Nat := none
  later : List (Nat × List Byte) := []
  deriving DecidableEq, Repr

/-- The staging store and the walk of a wide read client (R110): the segments not yet delivered in walk order, and those among the first
eight that have been read, with their bytes; how many have been handed on. -/
structure Walk where
  todo : List Nat := []
  got  : List (Nat × List Byte) := []
  done : Nat := 0
  deriving DecidableEq, Repr

/-- A tile core's own memory (R76): its 32 tile-local counters and its 32 KB local memory. -/
structure Tile where
  counters : Tbl Nat := []
  mem      : Mem := []
  deriving DecidableEq, Repr

/-- A physical region (R14, R69, R97), beside its scratchpad slice. `passes` are the passes of its array in the order of their start, `mvus`
those of its matrix-vector unit; `mvuC0` marks the C0 region, `policy` the axis group and the columns of the policy's product while it runs there (R91);
`halted` the tile cores that stay halted until their region is drained (R95). -/
structure Region where
  ovfCnt     : Word := 0
  lossCnt    : Word := 0
  nonfinite  : Word := 0
  rerunCnt   : Word := 0
  trip       : Word := 0
  dirBack    : Bool := false
  interval   : Nat := 0
  mode       : Nat := 0
  shape      : Nat := 0
  shapeEnd   : Nat := 0
  parity     : BitVec 4 := 0
  swapCnt    : Word := 0
  busyCyc    : Word := 0
  gateRow    : Word := 0
  gateCells  : Nat := 0
  clusters   : Tbl Cluster := []
  passes     : List RunPass := []
  mvus       : List RunPass := []
  mvuMode    : Nat := 0
  mvuC0      : Bool := false
  policy     : Option (Nat × List ColOut) := none
  mvuBusy    : Word := 0
  mvuParity  : Bool := false
  tcoreFault : BitVec 64 := 0
  halted     : BitVec 64 := 0
  tiles      : Tbl Tile := []
  deriving DecidableEq, Repr

/-- The scratchpad port, windows and engines of a physical region (R104 to R126), and its droop detector (R428). `frameOrigin` is the
tick at which the region was released from reset (R107); `stretchT` is the tick of the latest droop trip, `slowT` that at which
the running stretch began, and `slowCyc` counts the stretched cycles of ended stretches since the frame origin. -/
structure RegionSp where
  portMode    : Nat := 0
  portNext    : Nat := 0
  portPending : Bool := false
  frameOrigin : Nat := 0
  winSel      : BitVec 7 := 0
  wins        : Tbl Window := []
  walks       : Tbl Walk := []
  usedCyc     : Nat := 0
  usedBanks   : BitVec 32 := 0
  boundErr    : Word := 0
  boundOfs    : Word := 0
  boundCnt    : Word := 0
  eccCe       : Word := 0
  eccUe       : Word := 0
  agenDone    : BitVec 16 := 0
  agenOp      : Nat := 0
  agenRun     : Bool := false
  xferDone    : BitVec 16 := 0
  xferKind    : Nat := 0
  xferRun     : Bool := false
  xferErr     : Word := 0
  xfers       : List Xfer := []
  stretched   : Bool := false
  stretchT    : Nat := 0
  slowT       : Nat := 0
  slowCyc     : Nat := 0
  droopCnt    : Word := 0
  stretchCyc  : Word := 0
  dropCyc     : Nat := 0
  deriving DecidableEq, Repr

/-- Compiled work that has started (R133, R272, R306): who started it, its task, its partition and class, the status its passes have
given it so far, in a step that of each position alone (R137), and the keys and values that wait for their layer's flush (R144): sequence, layer,
scratchpad address and bytes. -/
structure Work where
  id     : WorkId
  task   : Option TaskCfg := none
  part   : Nat := 0
  cls    : Nat := 2
  status : BitVec 16 := 0
  pos    : Tbl (BitVec 16) := []
  tail   : List (Nat × Nat × Nat × List Byte) := []
  deriving DecidableEq, Repr

/-- The compute dies and memories. Regions are keyed by 16 × die + region; `sp` holds scratchpad bytes by
slice × 0x60_0000 + offset with the same slice number, `lp` LPDDR bytes; `codeBuf` is the code buffer of the C0 region's MVU (R112); `spPoison` and `lpPoison` list the
256-byte lines and 64-byte words that hold poisoned data (R122, R457). -/
structure Compute where
  regions  : Tbl Region := []
  ports    : Tbl RegionSp := []
  works    : List Work := []
  codeBuf  : List Byte := []
  sp       : Mem := []
  lp       : Mem := []
  spPoison : List Nat := []
  lpPoison : List Nat := []
  deriving DecidableEq, Repr

end Sys2Proof.Machine
end

