-- ==== Sys2Proof/Machine/Anchor.lean ====
section
/-! DEFINITION. Products on the anchor grid (R47 to R62): the value of a weight, the grid and its window, the exact scaling of
block sums and the one conversion at the column foot, with the counts of R44, R52 and R53. -/
namespace Sys2Proof.Machine

/-- The block length L of a mode (R47): 256 indices for CB4, 128 otherwise. -/
def blockLen (mode : Nat) : Nat := if mode = 0 then 256 else 128

/-- The checks of R68 on a layer numeric descriptor: true where it is refused with BAD_PARAM. -/
def layerBad (d : LayerDesc) : Bool :=
  let l := blockLen d.mode
  decide (d.mode > 7) || decide (d.blocks = 0 ∨ d.blocks > 512) || decide (d.reduction = 0) ||
    decide (d.blocks ≠ (d.reduction + l - 1) / l) || (d.fallback && decide (d.mode > 1)) ||
    (decide (d.mode = 7) && (decide (d.scalesAt ≠ 0) || d.scaleInt8)) || (d.scaleInt8 && d.anchors.any fun a => decide (a.2 ≠ 0))

/-- The value of an INT8 code: its low byte, signed. -/
def int8Val (w : BitVec 16) : FVal :=
  let v : Int := (BitVec.ofNat 8 w.toNat).toInt
  .fin (decide (v < 0)) v.natAbs 0

/-- The value of a weight code in a mode (R50): a codebook entry, an integer, an FP8, BF16 or FP16 value, or a second activation, FP16
where `opnd2` says so. -/
def weightVal (mode : Nat) (opnd2 : Bool) (codebook : List (BitVec 16)) (w : BitVec 16) : FVal :=
  match mode with
  | 0 | 1 => bf16.decode (codebook.getD w.toNat 0).toNat
  | 2 => int8Val w
  | 3 => e4m3.decode (w.toNat % 256)
  | 4 => e5m2.decode (w.toNat % 256)
  | 5 => bf16.decode w.toNat
  | 6 => fp16.decode w.toNat
  | _ => (if opnd2 then fp16 else bf16).decode w.toNat

/-- The value of an activation: BF16, or FP16 where the descriptor says so. -/
def actVal (d : LayerDesc) (a : BitVec 16) : FVal := (if d.actFp16 then fp16 else bf16).decode a.toNat

/-- The window of R52: a 48-bit two's-complement integer on the grid. -/
def window (v : Int) : Int := satInt 48 v

/-- A special product recorded (R54). -/
def ColAcc.special (c : ColAcc) : FVal → ColAcc
  | .nan => { c with sawNan := true }
  | .inf true => { c with negInf := true }
  | .inf false => { c with posInf := true }
  | .fin .. => c

/-- A block scale (R49, R55): its value, its signed multiplier, and its shift. -/
structure ScaleVal where
  val   : FVal
  mul   : Int
  shift : Nat
  deriving DecidableEq, Repr

/-- The unit scale: m = 128, e = 0 (R49). -/
def unitScale (q : Int) : ScaleVal := ⟨.fin false 1 0, 128, (-7 - q).toNat⟩

/-- A stored scale: a BF16 value m × 2^(e - 7), or an INT8 integer with no shift. -/
def storedScale (int8 : Bool) (q : Int) (x : BitVec 16) : ScaleVal :=
  if int8 then
    let v : Int := (BitVec.ofNat 8 x.toNat).toInt
    ⟨int8Val x, v, 0⟩
  else match bf16.decode x.toNat with
    | .fin s m e => ⟨.fin s m e, if s then -(m : Int) else m, (e - q).toNat⟩
    | v => ⟨v, 0, 0⟩

/-- One product on the grid of anchor `a` (R50 to R54): its share of the block sum, and the column's counts. -/
def gridProduct (a : Int) (scale second : FVal) (c : ColAcc × Int) (x w : FVal) : ColAcc × Int :=
  match x.mul w with
  | .fin s m e =>
    let g := ((FVal.fin s m e).toInt (38 - a)).getD 0
    let v := window g
    ({ c.1 with ovf := c.1.ovf + (if v ≠ g then 1 else 0), loss := c.1.loss + (if m ≠ 0 ∧ g = 0 then 1 else 0) }, c.2 + v)
  | v => (c.1.special ((v.mul scale).mul second), c.2)

/-- A block boundary (R52, R55): the exact sum of the block's products is saturated into the window, scaled and added. -/
def gridClose (sc : ScaleVal) (c : ColAcc) (sum : Int) : ColAcc :=
  let b := window sum
  { c with ovf := c.ovf + (if b ≠ sum then 1 else 0), acc := c.acc + b * sc.mul * 2 ^ sc.shift }

/-- The product of reduction index `k` of `n` taken into a foot (R47, R52, R55): the last index of a block takes the block boundary. -/
def PosEntry.add (a : Int) (scales : Nat → ScaleVal) (second : FVal) (len n : Nat) (e : PosEntry) (k : Nat) (x w : FVal) : PosEntry :=
  let r := gridProduct a (scales (k / len)).val second (e.col, e.sum) x w
  if (k + 1) % len = 0 ∨ k + 1 = n then { col := gridClose (scales (k / len)) r.1 r.2 } else { col := r.1, sum := r.2 }

/-- A column whose products are given in reduction order (R47 to R55). -/
def gridColumn (a : Int) (scales : Nat → ScaleVal) (second : FVal) (len : Nat) (prods : List (FVal × FVal)) : ColAcc :=
  ((prods.zipIdx).foldl (fun e p => e.add a scales second len prods.length p.2 p.1.1 p.1.2) ({} : PosEntry)).col

/-- The column foot (R54, R57): the special products decide, or the accumulator is converted to FP32 with one rounding. -/
def foot (a q : Int) (int8 : Bool) (second : FVal) (c : ColAcc) : Word :=
  if c.sawNan || (c.posInf && c.negInf) then w32 fp32.nan
  else if c.posInf then w32 (fp32.overflow false)
  else if c.negInf then w32 (fp32.overflow true)
  else if c.acc = 0 then 0
  else
    let v : FVal := .fin (decide (c.acc < 0)) c.acc.natAbs (a - 38 + (if int8 then 0 else q))
    w32 (fp32.encode (if int8 then v.mul second else v))

/-- ⌊log2 |v|⌋ of a non-zero finite value. -/
def log2Of : FVal → Option Int
  | .fin _ m e => if m = 0 then none else some (e + Nat.log2 m)
  | _ => none

/-- The largest exponent among some values. -/
def maxLog (vs : List FVal) : Option Int :=
  vs.foldl (fun m v => match m, log2Of v with
    | none, x => x
    | some a, none => some a
    | some a, some b => some (max a b)) none

/-- The dynamic anchor of a column group (R62). -/
def dynAnchor (acts weights : List FVal) : Int :=
  match maxLog acts, maxLog weights with
  | some a, some w => a + w + 2
  | _, _ => 0

/-- The second-level scale of a layer: 1 in normal service (R48, R57). -/
def secondOf (d : LayerDesc) : FVal := if d.scaleInt8 then f32Val d.secondScale else .fin false 1 0

/-- The scale base of column `j` of a region's columns (R49): that of its 128-column group. -/
def baseOf (d : LayerDesc) (j : Nat) : Int := (d.anchors.getD (j / 128) (0, -7)).2

/-- The scale of block `b` of column `j` (R48, R49). -/
def scaleOf (d : LayerDesc) (j b : Nat) : ScaleVal :=
  if d.scalesAt = 0 then unitScale (baseOf d j) else storedScale d.scaleInt8 (baseOf d j) ((d.scaleRows.getD j []).getD b 0)

/-- A column converted at its foot (R57). -/
def footOf (d : LayerDesc) (a : Int) (j : Nat) (c : ColAcc) : ColOut := ⟨foot a (baseOf d j) d.scaleInt8 (secondOf d) c, c.ovf, c.loss⟩

/-- Counts of results: saturated, lost, and non-finite (R44, R52, R53). -/
def runCounts (cols : List ColOut) : Nat × Nat × Nat :=
  cols.foldl (fun n c => (n.1 + c.ovf, n.2.1 + c.loss, n.2.2 + (if f32Fin c.value then 0 else 1))) (0, 0, 0)

/-- The columns of a unit of a shape (R74). -/
def unitCols (shape : Nat) : Nat := if shape = 0 then 16 else if shape = 1 then 32 else if shape = 2 then 128 else 512

/-- An integer format's nearest value to an FP32 value (R41, R42): saturated, and 0 for a NaN. -/
def f32ToInt8 (x : Word) : BitVec 8 := match f32Val x with
  | .nan => 0
  | .inf neg => if neg then 0x80 else 0x7F
  | v => BitVec.ofInt 8 (satInt 8 ((v.toInt 0).getD 0))

/-- The bytes of an FP32 value in a storage format (R41, R42). -/
def VpuFmt.bytes (f : VpuFmt) (x : Word) : List Byte := match f with
  | .fp32 => wordBytes [x]
  | .bf16 => leBytes (f32ToBf16 x).toNat 2
  | .fp16 => leBytes (f32ToFp16 x).toNat 2
  | .e4m3 => leBytes (fp32.convert e4m3 x.toNat) 1
  | .e5m2 => leBytes (fp32.convert e5m2 x.toNat) 1
  | .int8 => [f32ToInt8 x]

/-- Whether R44 counts a VPU result in a storage format: a result that is not finite, or a NaN converted to an integer. -/
def VpuFmt.counted (f : VpuFmt) (x : Word) : Bool := match f with
  | .int8 => f32Nan x
  | .bf16 => !(bf16.decode (f32ToBf16 x).toNat).isFin
  | .fp16 => !(fp16.decode (f32ToFp16 x).toNat).isFin
  | .e4m3 => f32Nan x
  | .e5m2 => !(e5m2.decode (fp32.convert e5m2 x.toNat)).isFin
  | .fp32 => !f32Fin x

end Sys2Proof.Machine
end

