-- ==== Sys2Proof/Machine/Layer.lean ====
section
/-! DEFINITION. Compiled layer passes: the layer numeric descriptor and what its offsets name, read from bytes (R40, R47 to R49, R60, R68), what a
stationary register holds (R73), and how a pass is cut into stationary sets for the clusters of a region (R74, R79). Every function reads
bytes through a function of the offset in the window of the pass. -/
namespace Sys2Proof.Machine

/-- A little-endian number read through a function. -/
def rdLe (rd : Nat → Byte) (o n : Nat) : Nat := leNat ((List.range n).map fun i => rd (o + i))

/-- A 16-bit value. -/
def rd16 (rd : Nat → Byte) (o : Nat) : BitVec 16 := BitVec.ofNat 16 (rdLe rd o 2)

/-! ## The descriptor -/

/-- The 64 bytes of a layer numeric descriptor (R68). -/
def layerHead (rd : Nat → Byte) (o : Nat) : LayerDesc :=
  let f := rdLe rd
  let flags := f (o + 3) 1
  { layerId := f o 2, mode := f (o + 2) 1, fallback := bitOf flags 0, scaleInt8 := bitOf flags 1, actFp16 := bitOf flags 2,
    opnd2Fp16 := bitOf flags 3, lossLimit := f (o + 4) 3, secondScale := w32 (f (o + 8) 4), blocks := f (o + 12) 2, colGroups := f (o + 14) 2,
    anchorTable := f (o + 16) 4, codebookAt := f (o + 20) 4, scalesAt := f (o + 24) 4, reduction := f (o + 28) 4, wideCopy := f (o + 32) 8 }

/-- An entry of an anchor table: the anchor and the scale base (R68). -/
def anchorAt (rd : Nat → Byte) (o : Nat) : Int × Int := ((BitVec.ofNat 16 (rdLe rd o 2)).toInt, (BitVec.ofNat 8 (rdLe rd (o + 2) 1)).toInt)

/-- The entries of a codebook (R47). -/
def bookLen (mode : Nat) : Nat := if mode = 0 then 16 else if mode = 1 then 256 else 0

/-- The bytes of one stored scale (R48). -/
def scaleSize (d : LayerDesc) : Nat := if d.scaleInt8 then 1 else 2

/-- A descriptor with what its offsets name for the results of one region, `first` to `first` + `count` - 1 of the pass: the anchor table holds
an entry for each 128-column group of the pass, the scale tensor the blocks of each of the region's columns in turn (log entry 203). -/
def layerAt (rd : Nat → Byte) (o first count : Nat) : LayerDesc :=
  let d := layerHead rd o
  { d with
    anchors := (List.range ((count + 127) / 128)).map fun g => anchorAt rd (d.anchorTable + 4 * (first / 128 + g)),
    codebook := (List.range (bookLen d.mode)).map fun i => rd16 rd (d.codebookAt + 2 * i),
    scaleRows := if d.scalesAt = 0 then [] else (List.range count).map fun c => (List.range d.blocks).map fun b =>
      BitVec.ofNat 16 (rdLe rd (d.scalesAt + (c * d.blocks + b) * scaleSize d) (scaleSize d)) }

/-- Whether a codebook layer's codebook holds a NaN or an infinity (R47). -/
def codebookBad (d : LayerDesc) : Bool := d.codebook.any fun x => !(bf16.decode x.toNat).isFin

/-- Whether a stored BF16 scale passes under a scale base (R49): a zero scale always does; the shift of another, its significand read as an
8-bit integer, lies from 0 to 31. -/
def bf16ScaleOk (q : Int) (x : BitVec 16) : Bool :=
  let exp : Nat := x.toNat / 2 ^ 7 % 256
  let frac : Nat := x.toNat % 2 ^ 7
  let e : Int := if exp = 0 then -126 else (exp : Int) - 127
  if exp = 255 then false
  else if exp = 0 ∧ frac = 0 then true
  else decide (0 ≤ e - 7 - q ∧ e - 7 - q ≤ 31)

/-- Whether a layer's scales break R48 or R49: the second-level scale and the INT8 codes of a layer that carries them, the scale bases of one
with unit scales, the BF16 scales of any other. -/
def scalesBad (d : LayerDesc) : Bool :=
  let v := f32Val d.secondScale
  (d.scaleInt8 && (!(v.isFin && !v.isZero && decide (d.secondScale.toNat / 2 ^ 23 % 256 ≠ 0)) || d.scaleRows.any fun r => r.any fun x => x.toNat % 256 == 128)) ||
    (if d.scalesAt = 0 then d.anchors.any fun b => !decide (-38 ≤ b.2 ∧ b.2 ≤ -7)
      else !d.scaleInt8 && d.scaleRows.zipIdx.any fun r => r.1.any fun x => !bf16ScaleOk (baseOf d r.2) x)

/-- The compiled passes of an image: those of its tasks and of its serving templates. -/
def imgPasses (i : Image) : List PassCfg :=
  (i.tasks.filterMap fun t => match t.kind with
    | .pass cfg => some cfg
    | _ => none) ++ i.models.flatMap fun m => m.templates.flatMap Template.passes

/-- Whether a compiled pass is one of products, which a layer numeric descriptor describes: any but an attention pass. -/
def isProduct (cfg : PassCfg) : Bool := match cfg.use with
  | .attn _ _ => false
  | _ => true

/-! ## Operands -/

/-- Weight `k` of a stored run of weights (R40): CB4 codes two to a byte, the lower index in the lower half; one byte for CB8, INT8 and FP8;
two for the other formats. -/
def weightAt (rd : Nat → Byte) (mode o k : Nat) : BitVec 16 :=
  if mode = 0 then BitVec.ofNat 16 ((rd (o + k / 2)).toNat / (if k % 2 = 0 then 1 else 16) % 16)
  else if mode ≤ 4 then BitVec.ofNat 16 (rd (o + k)).toNat
  else rd16 rd (o + 2 * k)

/-- The bytes that `n` stored weights take. -/
def weightLen (mode n : Nat) : Nat := if mode = 0 then (n + 1) / 2 else if mode ≤ 4 then n else 2 * n

/-- The weight of result `r` at reduction index `k` of a share: the stored columns are the results, and in the backward direction the
reduction (R85). -/
def shareWeight (x : Share) (rd : Nat → Byte) (mode : Nat) (backward : Bool) (r k : Nat) : BitVec 16 :=
  if backward then weightAt rd mode (x.weights.getD k 0) r else weightAt rd mode (x.weights.getD r 0) k

/-- The bytes of a share that hold its weights, as offsets and lengths. -/
def shareWeightRanges (x : Share) (d : LayerDesc) (backward : Bool) : List (Nat × Nat) :=
  let n := weightLen d.mode (if backward then x.count else d.reduction)
  (x.weights.take (if backward then d.reduction else x.count)).map fun o => (o, n)

/-- The bytes of a share that hold its descriptor and what the descriptor names. -/
def shareTableRanges (x : Share) (d : LayerDesc) : List (Nat × Nat) :=
  [(x.desc, 64), (d.anchorTable + 4 * (x.first / 128), 4 * ((x.count + 127) / 128))] ++
    (if bookLen d.mode = 0 then [] else [(d.codebookAt, 2 * bookLen d.mode)]) ++
    (if d.scalesAt = 0 then [] else [(d.scalesAt, x.count * d.blocks * scaleSize d)])

/-- Element `k` of activation vector `i` of a share. -/
def shareAct (x : Share) (rd : Nat → Byte) (d : LayerDesc) (i k : Nat) : FVal := actVal d (rd16 rd (x.acts.getD i 0 + 2 * k))

/-! ## Stationary registers (R72, R73) -/

/-- A 16-bit value with its parity bit above it. -/
def withParity (x : BitVec 16) : BitVec 17 :=
  let odd := (List.range 16).foldl (fun b i => b != x.getLsbD i) false
  BitVec.ofNat 17 (x.toNat + bitAt odd 16)

/-- Whether a register of a pass holds two CB4 codes: in the coarse shapes (R73). -/
def twoCodes (d : LayerDesc) (shape : Nat) : Bool := d.mode == 0 && decide (shape ≥ 2)

/-- What the shadow feed puts into a register for the codes of its indices: two CB4 codes packed, the codebook entry of any other code,
an INT8 weight sign-extended, any other weight as it is (R73). -/
def regWord (d : LayerDesc) (shape : Nat) (codes : List (BitVec 16)) : BitVec 16 :=
  let c := codes.headD 0
  if twoCodes d shape then BitVec.ofNat 16 (c.toNat % 16 + (codes.getD 1 0).toNat % 16 * 16)
  else if d.mode ≤ 1 then d.codebook.getD c.toNat 0
  else if d.mode = 2 then (BitVec.ofNat 8 c.toNat).signExtend 16
  else c

/-- The values that a register stands for in a product, one for each of its indices (R50, R73). -/
def regVals (d : LayerDesc) (shape : Nat) (reg : BitVec 17) : List FVal :=
  let w : BitVec 16 := BitVec.ofNat 16 reg.toNat
  if twoCodes d shape then [w.toNat % 16, w.toNat / 16 % 16].map fun c => bf16.decode (d.codebook.getD c 0).toNat
  else if d.mode ≤ 1 then [bf16.decode w.toNat]
  else [weightVal d.mode d.opnd2Fp16 [] w]

/-! ## The sets of a pass (R74, R79) -/

/-- The most positions that a stationary set serves (R79). -/
def mMax (shape : Nat) : Nat := if shape = 0 then 32 else if shape = 1 then 64 else 256

/-- The share of a pass that a region runs. -/
def RunPass.sh (p : RunPass) : Share := p.cfg.shares.getD p.share {}

/-- Whether a pass computes attention: its products are those of R147, and no stationary set is compiled for them. -/
def RunPass.isAttn (p : RunPass) : Bool := match p.cfg.use with
  | .attn _ _ => true
  | _ => false

/-- The reduction indices of a stationary set: the 128 rows of a cluster in every shape, two to a row for CB4 in a coarse one, and in the
backward direction the 512 columns of the region. -/
def RunPass.setLen (p : RunPass) : Nat := if p.cfg.backward then 512 else if twoCodes p.desc p.cfg.shape then 256 else 128

/-- The stationary sets that a column needs for its whole reduction. -/
def RunPass.setsPerCol (p : RunPass) : Nat := (p.desc.reduction + p.setLen - 1) / p.setLen

/-- The position tiles of a pass (R79). -/
def RunPass.tiles (p : RunPass) : Nat := (p.vecs.length + mMax p.cfg.shape - 1) / mMax p.cfg.shape

/-- The place of a cluster among those of its share. -/
def RunPass.place (p : RunPass) (c : Nat) : Nat := p.sh.clusters.findIdx (· == c)

/-- The 128-result blocks of the region's columns that come to the cluster at a place: in turn, and as many for all clusters where one strobe
serves them together. -/
def RunPass.blocks (p : RunPass) (place : Nat) : Nat :=
  let total := (p.sh.count + 127) / 128
  if p.cfg.backward then total
  else if p.cfg.shape = 3 then (total + 3) / 4
  else (total + p.sh.clusters.length - 1 - place) / max 1 p.sh.clusters.length

/-- The stationary sets of a pass for a cluster; none for a cluster that the share does not use. -/
def RunPass.waves (p : RunPass) (c : Nat) : Nat :=
  if p.sh.clusters.contains c && !p.isAttn then p.blocks (p.place c) * p.tiles * p.setsPerCol else 0

/-- What set `w` of a cluster covers: the first of its 128 results, its position tile, and its place in the reduction. -/
def RunPass.waveAt (p : RunPass) (c w : Nat) : Nat × Nat × Nat :=
  let m := w / max 1 p.setsPerCol / max 1 p.tiles
  let block := if p.cfg.backward then m else p.place c + p.sh.clusters.length * m
  (128 * block, w / max 1 p.setsPerCol % max 1 p.tiles, w % max 1 p.setsPerCol)

/-- How many vectors set `w` of a cluster serves. -/
def RunPass.vectors (p : RunPass) (c w : Nat) : Nat :=
  min (mMax p.cfg.shape) (p.vecs.length - mMax p.cfg.shape * (p.waveAt c w).2.1)

/-- The positions that a set serves, by their places among the vectors of the pass. -/
def RunPass.positions (p : RunPass) (c w : Nat) : List Nat :=
  (List.range (p.vectors c w)).map (mMax p.cfg.shape * (p.waveAt c w).2.1 + ·)

/-- The result and the reduction indices of the cell in column `j` and row `i` of a cluster under set `w`; none where it holds nothing. -/
def RunPass.cell (p : RunPass) (c w j i : Nat) : Option (Nat × List Nat) :=
  let (r0, _, g) := p.waveAt c w
  let ks := (if p.cfg.backward then [512 * g + 128 * c + j]
    else if twoCodes p.desc p.cfg.shape then [256 * g + 2 * i, 256 * g + 2 * i + 1]
    else [128 * g + i]).filter (· < p.desc.reduction)
  let r := r0 + (if p.cfg.backward then i else j)
  if r < p.sh.count ∧ ks ≠ [] then some (r, ks) else none

/-- The rows of a column of a cluster that hold something, or in the backward direction its results. -/
def RunPass.rows (p : RunPass) (c w j : Nat) : List Nat := (List.range 128).takeWhile fun i => (p.cell c w j i).isSome

/-- The columns of a cluster that hold something. -/
def RunPass.columns (p : RunPass) (c w : Nat) : List Nat := (List.range 128).takeWhile fun j => (p.cell c w j 0).isSome

/-- Whether the unit whose first row and column these are holds something under set `w` or a later one of its cluster: then its tile core
runs an array sequence (R76, R83). -/
def RunPass.unitRuns (p : RunPass) (c w row col : Nat) : Bool :=
  (List.range (p.waves c - w)).any fun i => (p.cell c (w + i) col row).isSome

/-! ## Operands of a running pass -/

/-- What a pass reads: the bytes of its window by offset, and for a wide re-run those of the BF16 copy. -/
structure PassIn where
  win  : Nat → Byte
  copy : Nat → Byte

/-- Weight `k` of result `r`: that of the share, or in a wide re-run that of the copy, which holds the columns of the pass one behind the
other (R65, log entry 203). -/
def RunPass.weight (p : RunPass) (x : PassIn) (r k : Nat) : BitVec 16 :=
  if p.wide.isSome then rd16 x.copy (2 * ((p.sh.first + r) * p.desc.reduction + k)) else shareWeight p.sh x.win p.desc.mode p.cfg.backward r k

/-- Activation `k` of the position at a place among the vectors of the pass. -/
def RunPass.act (p : RunPass) (x : PassIn) (pos k : Nat) : FVal := shareAct p.sh x.win p.desc (p.vecs.getD pos 0) k

/-- The decoded weights of result `r`, in reduction order. -/
def RunPass.weights (p : RunPass) (x : PassIn) (r : Nat) : List FVal :=
  (List.range p.desc.reduction).map fun k => weightVal p.desc.mode p.desc.opnd2Fp16 p.desc.codebook (p.weight x r k)

/-- The activations of a position, in reduction order. -/
def RunPass.acts (p : RunPass) (x : PassIn) (pos : Nat) : List FVal := (List.range p.desc.reduction).map (p.act x pos)

/-- The bytes of the window that an activation vector takes. -/
def RunPass.actRange (p : RunPass) (pos : Nat) : Nat × Nat := (p.sh.acts.getD (p.vecs.getD pos 0) 0, 2 * p.desc.reduction)

/-- The bytes of the copy that a wide re-run of the share reads: an offset and a length. -/
def RunPass.copyRange (p : RunPass) : Nat × Nat := (2 * p.sh.first * p.desc.reduction, 2 * p.sh.count * p.desc.reduction)

/-! ## Loading and strobing -/

/-- The registers of a cluster under set `w` (R73). -/
def RunPass.regs (p : RunPass) (x : PassIn) (c w : Nat) : List (List (BitVec 17)) :=
  (p.columns c w).map fun j => (p.rows c w j).map fun i => match p.cell c w j i with
    | some (r, ks) => withParity (regWord p.desc p.cfg.shape (ks.map fun k => p.weight x r k))
    | none => 0

/-- What the banks hold for a cluster under set `w`: the codebook, the anchor table's entry of its results and their block scales (R81). -/
def RunPass.bank (p : RunPass) (c w : Nat) : LayerDesc :=
  let r0 := (p.waveAt c w).1
  { p.desc with anchors := [p.desc.anchors.getD (r0 / 128) (0, -7)], scaleRows := (p.desc.scaleRows.drop r0).take 128 }

/-- Stationary set `w` of a pass for a cluster, as the shadow feed loads it. -/
def RunPass.set (p : RunPass) (x : PassIn) (c w : Nat) : StatSet := { key := p.key, wave := w, regs := p.regs x c w, bank := p.bank c w }

/-- The key of a position store's entry: a result of the region and a position. -/
def storeKey (r pos : Nat) : Nat := 65536 * r + pos

/-- The anchor of result `r` for a position (R60, R62, R137). -/
def RunPass.anchor (p : RunPass) (r pos : Nat) : Int := (p.anchors.getD (if p.template then pos else 0) []).getD (r / 128) 0

/-- The block length of a pass (R47, R65, R85). -/
def RunPass.blockLen (p : RunPass) : Nat := match p.wide with
  | some l => l
  | none => if p.cfg.backward then 128 else Machine.blockLen p.desc.mode

/-- One vector of a set taken by one column of a cluster (R50 to R55): the products of the column's registers with the vector's activations
go to the feet, or in the backward direction to the row ends. -/
def RunPass.takeColumn (x : PassIn) (c : Nat) (z : StatSet) (p : RunPass) (pos j : Nat) : RunPass :=
  (z.regs.getD j []).zipIdx.foldl (fun p e => match p.cell c z.wave j e.2 with
    | none => p
    | some (r, ks) =>
      let put := fun (y : PosEntry) => (ks.zip (regVals z.bank p.cfg.shape e.1)).foldl (fun y kw =>
        y.add (p.anchor r pos) (scaleOf z.bank (r % 128)) (secondOf z.bank) p.blockLen p.desc.reduction kw.1 (p.act x pos kw.1) kw.2) y
      { p with store := tblUpd {} p.store (storeKey r pos) put }) p

/-- Every vector of a set taken by a cluster. -/
def RunPass.serve (x : PassIn) (c : Nat) (z : StatSet) (p : RunPass) : RunPass :=
  (p.positions c z.wave).foldl (fun p pos => (List.range z.regs.length).foldl (fun p j => p.takeColumn x c z pos j) p) p

/-! ## Zero gating (R87) -/

/-- The row-cycles that zero activations gate in a cluster under a set: for every vector each row whose activations are all zero, in every
unit that the row crosses; a REGION row counts once, in the region's first cluster, and the backward direction gates no row (log entry 85). -/
def RunPass.gatedRows (x : PassIn) (c : Nat) (z : StatSet) (p : RunPass) : Nat :=
  if p.cfg.backward ∨ (p.cfg.shape = 3 ∧ p.place c ≠ 0) then 0 else
    let units := (z.regs.length + min 128 (unitCols p.cfg.shape) - 1) / min 128 (unitCols p.cfg.shape)
    let rows := fun pos => countIf (fun i => match p.cell c z.wave 0 i with
      | some (_, ks) => ks.all fun k => (p.act x pos k).isZero
      | none => false) (p.rows c z.wave 0)
    (p.positions c z.wave).foldl (fun n pos => n + rows pos * units) 0

/-- The cell-cycles that zero stationary operands gate: for every vector each index of each cell whose operand is zero. -/
def RunPass.gatedCells (c : Nat) (z : StatSet) (p : RunPass) : Nat :=
  let zeros := z.regs.zipIdx.foldl (fun n col => col.1.zipIdx.foldl (fun n e => match p.cell c z.wave col.2 e.2 with
    | some (_, ks) => n + countIf FVal.isZero ((regVals z.bank p.cfg.shape e.1).take ks.length)
    | none => n) n) 0
  zeros * p.vectors c z.wave

/-! ## The pre-pass and the results (R62, R89) -/

/-- Whether a pass takes dynamic anchors (R60, R62, R85). -/
def RunPass.dynamic (p : RunPass) : Bool := p.cfg.backward || decide (p.desc.mode > 1)

/-- The anchors of a pass: those of its table, or one pre-pass over both operands, in a template step over the activations of each position
alone (R60, R62, R137). -/
def RunPass.anchorRows (p : RunPass) (x : PassIn) : List (List Int) :=
  if !p.dynamic then
    let row := p.desc.anchors.map Prod.fst
    if p.template then p.vecs.map fun _ => row else [row]
  else
    let groups := (List.range ((p.sh.count + 127) / 128)).map fun g =>
      (List.range (min 128 (p.sh.count - 128 * g))).flatMap fun i => p.weights x (128 * g + i)
    let row := fun acts => groups.map fun ws => dynAnchor acts ws
    let each := (List.range p.vecs.length).map (p.acts x)
    if p.template then each.map row else [row each.flatten]

/-- A column of a pass computed as a whole, as the MVU gives it (R58). -/
def RunPass.wholeColumn (p : RunPass) (x : PassIn) (pos r : Nat) : ColOut :=
  let a := p.anchor r pos
  footOf p.desc a r (gridColumn a (scaleOf p.desc r) (secondOf p.desc) p.blockLen ((p.acts x pos).zip (p.weights x r)))

/-- A column as the position store holds it. -/
def RunPass.storedColumn (p : RunPass) (pos r : Nat) : ColOut := footOf p.desc (p.anchor r pos) r (tblGet {} p.store (storeKey r pos)).col

/-- The results of a share for the position at a place among the vectors of the pass. -/
def RunPass.results (p : RunPass) (x : PassIn) (pos : Nat) : List ColOut :=
  if p.isAttn then [] else (List.range p.sh.count).map fun r => if p.cfg.onMvu then p.wholeColumn x pos r else p.storedColumn pos r

/-! ## Time (R78, R84, R89, R90) -/

/-- The forward and backward latency L of a shape, in cycles (R84). -/
def latency (shape : Nat) (backward : Bool) : Nat :=
  if backward then 10 else if shape = 0 then 4 else if shape = 1 then 5 else if shape = 2 then 7 else 8

/-- The products that an MVU makes in a cycle for one vector (R89). -/
def mvuRate (mode : Nat) : Nat := if mode = 0 then 4096 else if mode ≤ 4 then 2048 else 1024

/-- The cycles in which the MVU reads the weights of a product of K indices and N columns (R89, R90). -/
def mvuReads (mode k n : Nat) : Nat := (k * n + mvuRate mode - 1) / mvuRate mode

/-- Those of a pass. -/
def RunPass.mvuReads (p : RunPass) : Nat := Machine.mvuReads p.desc.mode p.desc.reduction p.sh.count

/-- T_MVU (R90). -/
def RunPass.mvuTime (p : RunPass) : Nat := if p.isAttn then 0 else p.mvuReads * p.vecs.length + 6

/-- The fewest cycles between two vectors of a unit (R77, R78): the reciprocal of its cells' rate, and 2 in the QUARTER shape. -/
def minInterval (d : LayerDesc) (shape : Nat) : Nat :=
  let base := if twoCodes d shape then 1 else if d.mode = 6 ∨ (d.mode = 7 ∧ d.opnd2Fp16) then (if d.actFp16 then 4 else 2) else if d.actFp16 then 2 else 1
  if shape = 0 then max 2 base else base

end Sys2Proof.Machine
end

