-- ==== Sys2Proof/Config.lean ====
section
/-! DEFINITION. What the spec leaves open, as constants without a body: nothing in Lean can evaluate them, so every theorem
holds whatever they are. The cryptographic primitives that the spec names but does not define (R399) stand here too. -/
namespace Sys2Proof

/-- An order of computing a sum of products: a chain of fused multiply-adds over some of its terms, or the sum of two parts. -/
inductive SumTree where
  | chain (terms : List Nat)
  | add (left right : SumTree)
  deriving DecidableEq, Repr, Inhabited

end Sys2Proof

namespace Sys2Proof.Config

/-- A free value: the use it is put to (the log entry's number) and the count of free values taken before it. -/
opaque freeNat : Nat → Nat → Nat

/-- SHA3-512 of a byte string (R399). -/
opaque sha3 : List Byte → Digest

/-- The bytes of an ML-DSA-87 signature by a device key over a message (R399, R412). -/
opaque sign : Nat → List Byte → List Byte

/-- The bytes of a device public key or certificate (R403, R420). -/
opaque publicKey : Nat → List Byte

/-- The bytes of the `n`-th request to the DRBG (R399). -/
opaque drbg : Nat → Nat → List Byte

/-- Which of the FP32 values within one unit in the last place of e^x the VPU exponential gives, always the same for one input (R147). -/
opaque expChoice : Word → Nat

/-- The order in which a reduction of `k` terms is computed, for an operation and two sizes (R189, R198). -/
opaque sumTree : Nat → Nat → Nat → Nat → SumTree

/-- What the output stage of an image makes of one position (R128, R136, R139): the image's identifier, the model, SEED, the position's
positional index and its FP32 inputs give the next token, or none for the end marker. -/
opaque outputStage : DWord → Nat → Word → Word → List Word → Option Word

/-- The bytes of an attestation report before its signature (R412): the verifier's nonce, the numbers in the order R412 lists
them, and the slots. The spec gives the report no layout (log entry 23). -/
opaque report : List Byte → List Nat → List Digest → List Byte

/-- The bytes of an attestation log entry (R411): its slot, type code, digest and time, laid out in 80 bytes (log entry 23). -/
opaque logBytes : Nat → Nat → Digest → Nat → List Byte

/-- The 16-byte record measured into slot 0 (R411): lifecycle, debug-open flag and epoch (log entry 23). -/
opaque romRecord : Nat → Bool → Nat → List Byte

/-- The records measured into slot 5 (R411): OWNER, SYSTEM and the tamper responses (log entry 23). -/
opaque ownerRecords : List Digest → List Digest → Nat → List Byte

/-- What the import of a key payload under the import key of an epoch gives (R410): the wrapped key, or none where the
decapsulation or the tag fails. -/
opaque importKey : Nat → List Byte → Option (List Byte)

end Sys2Proof.Config
end

