-- ==== Sys2Proof/StateCtl.lean ====
section
/-! DEFINITION. The state of the control engine (R218 to R246) and of motion I/O (R236 to R248). -/
namespace Sys2Proof.Machine

/-- States of a loop slot (R229). -/
inductive LoopState where
  | off | open_ | closing | closed | fault
  deriving DecidableEq, Repr

/-- A loop slot (R218, R226, R229 to R235). `coefs` are registers 2 to 13 of the slot's window (R245). The measurements
`yP`, `yV`, `yT` are those of the latest latch, `prevPos` the previous position of the law, `openVal` OPEN_VALUE as the latest
latch found it (R244); `out` is the output that is applied or held, `next` what the law of the running period has put beside
it; `first` marks the first CLOSED period (R230), `opening` an accepted CTE_OPEN; `encSeen` and `spiSeen` count the frames that
the latch has seen; `busP` and `busT` are its inputs from field buses (R221), `busPSeen` and `busTSeen` the frames seen of them; `writes` holds the coefficient register writes of the present hub cycle, with what they overwrote (R244). -/
structure Loop where
  state    : LoopState := .off
  cfg      : Word := 0
  ffMap    : Word := 0xFFFFFFFF
  io       : Word := 0
  coefs    : List Word := []
  holdRun  : Nat := 0
  feRun    : Nat := 0
  staleRun : Nat := 0
  closeSat : Bool := false
  ffMiss   : Bool := false
  held     : Bool := false
  stale    : Bool := false
  iP       : Word := 0
  iV       : Word := 0
  iT       : Word := 0
  yP       : Word := 0
  yV       : Word := 0
  yT       : Word := 0
  prevPos  : Option Word := none
  posStale : Bool := false
  setp     : Word := 0
  openVal  : Word := 0
  out      : Word := 0
  next     : Option Word := none
  first    : Bool := false
  opening  : Bool := false
  encSeen  : Nat := 0
  spiSeen  : Nat := 0
  busP     : Option BusIn := none
  busT     : Option BusIn := none
  busPSeen : Nat := 0
  busTSeen : Nat := 0
  writes   : List (Nat × Nat × Word) := []
  deriving DecidableEq, Repr

/-- What a group's period has of its policy result (R222, R223). -/
inductive Policy where
  | idle
  | waiting
  | missing
  | values (res : List (BitVec 16))
  deriving DecidableEq, Repr

/-- A group's feed-forward buffer (R228): the values by element, the elements whose latest record carried DEADLINE_MISS, and
the values of the latest records that did not. -/
structure FfBuf where
  vals : Tbl Word := []
  good : Tbl Word := []
  miss : List Nat := []
  deriving DecidableEq, Repr

/-- An axis group (R218 to R224, R228, R234, R235). `ffs` holds what the feed-forward buffer became, with the hub cycle in which that
became visible, the latest first, as far back as a law can still read; `latchT` is the tick of cycle 0 of the running period,
`lawT` the tick at which its law may start once the policy result is there. -/
structure Group where
  valid    : Bool := false
  first    : Nat := 0
  count    : Nat := 0
  dual     : Bool := false
  policy   : Bool := false
  part     : Nat := 0
  domain   : Nat := 0
  fault    : Bool := false
  cause    : Nat := 0
  ack      : Bool := false
  latchT   : Option Nat := none
  lawT     : Option Nat := none
  result   : Policy := .idle
  ran      : Bool := false
  ffs      : List (Nat × FfBuf) := []
  safeOut  : Bool := false
  invalid  : Bool := false
  deriving DecidableEq, Repr

/-- The control engine (R245, R246). -/
structure Cte where
  coefRefused : Bool := false
  refusedLoop : BitVec 6 := 0
  holdCnt     : Word := 0
  staleCnt    : Word := 0
  clampCnt    : Word := 0
  feCnt       : Word := 0
  dualCnt     : Word := 0
  groups      : Tbl Group := []
  loops       : Tbl Loop := []
  deriving DecidableEq, Repr

/-- An encoder port (R236, R237): its configuration, the 32-bit counter or the latest decoded value, the accepted levels
of A and B, and how many valid frames it has delivered. -/
structure Enc where
  cfg     : Word := 0
  lead    : Nat := 0
  value   : Word := 0
  a       : Bool := false
  b       : Bool := false
  pos     : Word := 0
  idx     : Word := 0
  frames  : Nat := 0
  fails   : Nat := 0
  running : Bool := false
  deriving DecidableEq, Repr

/-- A sample port (R238). -/
structure Spi where
  cfg     : Word := 0
  lead    : Nat := 0
  words   : List (BitVec 16) := []
  frames  : Nat := 0
  running : Bool := false
  deriving DecidableEq, Repr

/-- What drives a PWM pin (R239 to R242): nothing, its SAFE level, or its carrier with the compare value. -/
inductive PwmDrive where
  | hiz | safe | run
  deriving DecidableEq, Repr

/-- A PWM output (R239 to R241). `restartT` is the tick of the latest carrier restart, `prevT` and `prevCmp` that of the one before and the
compare value that it brought. -/
structure Pwm where
  cfg      : Word := 0x20
  period   : BitVec 20 := 0
  cmp      : BitVec 20 := 0
  drive    : PwmDrive := .hiz
  restartT : Nat := 0
  prevT    : Nat := 0
  prevCmp  : BitVec 20 := 0
  deriving DecidableEq, Repr

/-- Motion I/O (R247, R248). -/
structure Mio where
  fltState : BitVec 16 := 0
  fltSeen  : BitVec 16 := 0
  encErr   : Word := 0
  encs     : Tbl Enc := []
  spis     : Tbl Spi := []
  pwms     : Tbl Pwm := []
  flts     : Tbl Word := []
  deriving DecidableEq, Repr

end Sys2Proof.Machine
end

