-- ==== Sys2Proof/StateIo.lean ====
section
/-! DEFINITION. The state of capture and pre-processing (R326 to R344, R352 to R355), of the CAN FD controllers (R345 to R351,
R356, R357), of the Ethernet ports (R464, R465) and of the host, memory and package links (R451 to R463, R477, R478). -/
namespace Sys2Proof.Machine

/-- A frame of a camera stream that is not complete yet (R328 to R331): its FRAME_SEQ, the buffer it fills (none: it is not
captured), its stamp and mark stamps in units of 2^-16 ns, the lines that have arrived, the lines in the current band, the
bands that wait for the PPE, the rows converted, whether its end has come, and whether it is corrupt. -/
structure CamFrame where
  seq     : Word
  buf     : Option Nat := none
  stamp   : Int := 0
  marks   : List Int := []
  lines   : Nat := 0
  inBand  : Nat := 0
  waiting : List Nat := []
  rows    : Nat := 0
  ended   : Bool := false
  corrupt : Bool := false
  deriving DecidableEq, Repr

/-- A frame buffer (R331): the complete frame it holds, whether that is corrupt or poisoned, the batches it has been
delivered to, the work that locks it, and the place of its latest start in the order of starts. -/
structure CamBuf where
  held    : Option Word := none
  stamp   : Int := 0
  marks   : List Int := []
  corrupt : Bool := false
  poison  : Bool := false
  batches : List Nat := []
  locks   : List WorkId := []
  order   : Nat := 0
  deriving DecidableEq, Repr

/-- A camera stream (R327 to R332): the next FRAME_SEQ, that of the latest complete frame, the frames in progress, the oldest first,
its buffers, and whether a stream error waits to be seen by a LINE domain (R262). -/
structure Cam where
  next   : Word := 0
  last   : Word := 0
  open_  : Bool := false
  frames : List CamFrame := []
  bufs   : Tbl CamBuf := []
  starts : Nat := 0
  err    : Bool := false
  deriving DecidableEq, Repr

/-- Capture (R352, R353). `batchSeq` holds BATCH_SEQ by batch. -/
structure Cap where
  portUp     : BitVec 8 := 0
  err        : Word := 0
  frameCnt   : Word := 0
  staleCnt   : Word := 0
  corruptCnt : Word := 0
  eccCe      : Word := 0
  cams       : Tbl Cam := []
  batchSeq   : Tbl Word := []
  deriving DecidableEq, Repr

/-- A decode task that runs (R339): its command, its batch, its format and slots, the status and size of each input done, and whether the host
buffer of one could not be read (R453). -/
structure Decode where
  id     : WorkId
  batch  : Nat
  tensor : Bool
  slots  : Nat
  done   : List (BitVec 16 × Nat × Nat) := []
  unread : Bool := false
  deriving DecidableEq, Repr

/-- Pre-processing (R354, R355). -/
structure Ppe where
  err       : Word := 0
  bandCnt   : Word := 0
  decodeCnt : Word := 0
  boundsCnt : Word := 0
  dataerr   : Word := 0
  decodes   : List Decode := []
  deriving DecidableEq, Repr

/-- A holding register (R347, R465): its data, the tick of its frame, and how many frames it has taken. -/
structure Hold where
  data  : List Byte := []
  tick  : Nat := 0
  count : Nat := 0
  deriving DecidableEq, Repr

/-- A frame that waits to be sent on a field bus (R349, R465): the output fields of its loops with their values, or its data,
its HELD and INVALID bits, the failed attempts made, and whether it has replaced a frame that is on the bus and still runs there. -/
structure BusFrame where
  fields  : List (Nat × Word) := []
  data    : List Byte := []
  heldBit : Bool := false
  invalid : Bool := false
  tries   : Nat := 0
  behind  : Bool := false
  deriving DecidableEq, Repr

/-- States of a CAN FD controller (R357). -/
inductive CanState where
  | active | passive | busOff | init
  deriving DecidableEq, Repr

/-- Which frame of a controller is on the bus: a servo frame, a safe-state message, a class 1 frame, a host buffer. -/
inductive CanPick where
  | servo (i : Nat)
  | message
  | class1 (i : Nat)
  | host (b : Nat)
  deriving DecidableEq, Repr

/-- A receive queue (R348); `pos` is the place of the entry that is filled next. -/
structure CanQueue where
  base : Nat := 0
  len  : Nat := 0
  pos  : Nat := 0
  pi   : BitVec 16 := 0
  ack  : BitVec 16 := 0
  deriving DecidableEq, Repr

/-- A host buffer (R349, R351, R357). `cancel` marks a cancellation that waits for the attempt on the bus. -/
structure CanTx where
  hdr    : Word := 0
  req    : Bool := false
  dlc    : BitVec 4 := 0
  result : BitVec 2 := 0
  tries  : BitVec 4 := 0
  words  : Tbl Word := []
  cancel : Bool := false
  deriving DecidableEq, Repr

/-- A CAN FD controller (R345 to R351, R356, R357). `store` holds the bytes of the receive entries, 128 to an entry. -/
structure Can where
  state      : CanState := .init
  recovering : Bool := false
  tec        : Nat := 0
  rec_       : Nat := 0
  tdcv       : BitVec 7 := 0
  err        : Word := 0
  abandonCnt : Word := 0
  rxdropCnt  : Word := 0
  lateCnt    : Word := 0
  queues     : Tbl CanQueue := []
  store      : Mem := []
  holds      : Tbl Hold := []
  servo      : Tbl BusFrame := []
  class1     : Tbl BusFrame := []
  txs        : Tbl CanTx := []
  onBus      : Option CanPick := none
  msgTries   : Nat := 0
  deriving DecidableEq, Repr

/-- An Ethernet port (R464, R465). `servo` and `class1` hold the frames that wait for its link, `sent` the latest frame of
each servo or class 1 index that has left (class 1 from 256 on), `message` the event code of the latest safe-state message
that has left (R379), `core2` the frames handed to management core 2. -/
structure Eth where
  link      : Bool := false
  rxCnt     : Word := 0
  rxdropCnt : Word := 0
  fcsCnt    : Word := 0
  lateCnt   : Word := 0
  holds     : Tbl Hold := []
  servo     : Tbl BusFrame := []
  class1    : Tbl BusFrame := []
  sent      : Tbl BusFrame := []
  message   : Nat := 0
  core2     : Nat := 0
  deriving DecidableEq, Repr

/-- States of an IDE stream (R454): not keyed, keyed, insecure. -/
inductive IdeState where
  | unkeyed | secure | insecure
  deriving DecidableEq, Repr

/-- The PCIe link, LPDDR and Rolink (R451 to R463, R477, R478). `ide` holds the streams 0 to 7 and the link stream at 8; `perst` says
whether PERST_N is deasserted, `numVfs` NumVFs. -/
structure Lnk where
  width      : Nat := 0
  speed      : Nat := 0
  flit       : Bool := false
  l0         : Bool := false
  perst      : Bool := false
  crs        : Bool := true
  numVfs     : Nat := 0
  d3hot      : Bool := false
  ide        : Tbl IdeState := []
  lpTrained  : Bool := false
  lpFailCh   : Nat := 0
  lpRate     : Nat := 0
  lpCapacity : Nat := 0
  lpType     : Nat := 0
  lpCe       : Word := 0
  lpRetry    : Word := 0
  lpUe       : Word := 0
  rolFault   : BitVec 4 := 0
  rolUp      : BitVec 4 := 0
  rolPeer    : Tbl Nat := []
  rolRetry   : Word := 0
  deriving DecidableEq, Repr

end Sys2Proof.Machine
end

