-- ==== Sys2Proof/StateSec.lean ====
section
/-! DEFINITION. The state of the husk (R399 to R423): what MRAM holds over every reset, and what a start sets up. -/
namespace Sys2Proof.Machine

/-- A trip of the tamper record (R400, R402). -/
structure Trip where
  sensor    : Nat
  time      : Nat
  lifecycle : Nat
  deriving DecidableEq, Repr

/-- The records of MRAM (R402). `lifecycle` is numbered as SEC_STATUS numbers it (R422): 0 MANUFACTURE, 1 PROVISIONED, 2 FIELD,
3 PEELED, 4 SCRAPPED. `zrec` holds ZREC's target epoch and last completed step while a zeroisation runs, `policy` the
tamper responses, `trips` the last 16 trips and `tripCnt` how many there were. -/
structure Mram where
  lifecycle   : Nat := 0
  debugOpen   : Bool := false
  epoch       : Nat := 0
  owner       : Option Digest := none
  debugVendor : Bool := false
  svn         : Tbl Nat := []
  zrec        : Option (Nat × Nat) := none
  wrapped     : Tbl (List Byte) := []
  system      : List Digest := []
  policy      : BitVec 6 := 0b011001
  trips       : List Trip := []
  tripCnt     : Word := 0
  puf         : Bool := false
  repair      : List Repair := []
  deriving DecidableEq, Repr

/-- An attestation log entry (R411). -/
structure MeasRec where
  slot   : Nat
  code   : Nat
  digest : Digest
  time   : Nat
  deriving DecidableEq, Repr

/-- The SPDM requests of R412. -/
inductive SpdmKind where
  | version | capabilities | algorithms | digests | certificate | challenge | measurements | keyExchange | finish | endSession
  | vendorDefined
  deriving DecidableEq, Repr

/-- The latest SPDM response (R412): the request it answers, whether it is an ERROR response, and its data. -/
structure SpdmReply where
  kind : SpdmKind
  ok   : Bool
  data : List Byte := []
  deriving DecidableEq, Repr

/-- SPDM negotiation and sessions (R412): how far the negotiation has come (0 none, 1 version, 2 capabilities, 3 algorithms),
the sessions whose handshake runs, those that are established, the next session number and the latest response. -/
structure Spdm where
  stage     : Nat := 0
  handshake : List Nat := []
  sessions  : List Nat := []
  next      : Nat := 0
  reply     : Option SpdmReply := none
  deriving DecidableEq, Repr

/-- The husk (R399 to R423). `vendorHash` is the hash of the vendor key in the mask, kept with MRAM over every reset. `booted`
says that hub or recovery firmware runs, `running` the SVN index and SVN of the firmware that runs, by its measurement slot (R408, R411),
`zcmd` the command that a zeroisation replies to, with its result, `zcause` the digest that step 5 extends slot 6 with;
`reqs` counts DRBG requests since the latest reseed (R399), `fails` consecutive failed reseeds (R400). -/
structure Sec where
  mram       : Mram := {}
  vendorHash : Digest := 0
  booted     : Bool := false
  huskReady  : Bool := false
  bootCopy   : Nat := 0
  reasonA    : Nat := 0
  reasonB    : Nat := 0
  reasonR    : Nat := 0
  rngFail    : Bool := false
  fails      : Nat := 0
  reqs       : Nat := 0
  nonce      : Option (List Byte × Nat) := none
  svnSel     : BitVec 4 := 0
  tamper     : Word := 0
  sigfailCnt : Word := 0
  slots      : Tbl Digest := []
  log        : List MeasRec := []
  running    : Tbl (Nat × Nat) := []
  zcmd       : Option (CmdRef × List Word) := none
  zcause     : Option Digest := none
  spdm       : Spdm := {}
  deriving DecidableEq, Repr

end Sys2Proof.Machine
end

