-- ==== Sys2Proof/StateServe.lean ====
section
/-! DEFINITION. The state of sequence serving (R127 to R164) and of state-carrying streams (R165 to R188). -/
namespace Sys2Proof.Machine

/-- States of an active-sequence table entry (R129). -/
inductive SeqState where
  | free | waitSlot | prompt | decode | parked | idle | retiring
  deriving DecidableEq, Repr

/-- An entry of the active-sequence table (R128), with what the part keeps beside its 64 bytes: the consumer index read last
(R155), the token that the next DECODE step takes (R139), whether its end record has been written, and whether its
owner is gone (R159). -/
structure SeqEntry where
  state      : SeqState := .free
  cls        : Nat := 0
  ctx        : Nat := 0
  part       : Nat := 0
  keep       : Bool := false
  stopReq    : Bool := false
  corrupt    : Bool := false
  rerun      : Bool := false
  pageParked : Bool := false
  model      : Nat := 0
  held       : Nat := 0
  chunk      : Nat := 0
  slot       : Option Nat := none
  length     : Nat := 0
  sparse     : Nat := 0xFF
  maxLen     : Nat := 0
  posStart   : Word := 0
  promptLeft : Nat := 0
  kvBase     : Nat := 0
  kvLen      : Nat := 0
  promptAddr : Nat := 0
  newLeft    : Nat := 0
  seed       : Word := 0
  ring       : Nat := 0
  ringLog2   : Nat := 0
  status     : BitVec 16 := 0
  outPi      : BitVec 16 := 0
  cons       : BitVec 16 := 0
  tag        : Word := 0
  last       : Word := 0
  ended      : Bool := false
  gone       : Bool := false
  deriving DecidableEq, Repr

/-- A partition's step builder (R133, R134): whether a step runs, its work list (entry, positions), its model and template,
credit3 in 1/256 of the templates' time unit, the model stepped last, the step count, and the tick of the latest step's boundary. -/
structure Builder where
  running : Bool := false
  list    : List (Nat × Nat) := []
  model   : Nat := 0
  tpl     : Nat := 0
  credit3 : Int := 0
  lastMdl : Nat := 0
  steps   : Word := 0
  boundT  : Option Nat := none
  deriving DecidableEq, Repr

/-- Sequence serving (R127 to R164). `shown` holds the entries as at the latest step boundary. -/
structure Serving where
  ents      : Tbl SeqEntry := []
  shown     : Tbl SeqEntry := []
  builders  : Tbl Builder := []
  steps     : Word := 0
  retireCnt : Word := 0
  holdCnt   : Word := 0
  flushCnt  : Word := 0
  seqSel    : BitVec 12 := 0
  partSel   : BitVec 3 := 0
  deriving DecidableEq, Repr

/-- A chunk of a stream (R177): its command, its record in the chunk store, its samples and what it has read of them. -/
structure Chunk where
  cmd     : CmdRef
  record  : Nat
  reset   : Bool
  samples : Nat
  outAddr : Nat
  data    : List Byte
  deriving DecidableEq, Repr

/-- A transfer of a stream between its slot and HOME (R179). -/
inductive Move where
  | none
  | out
  | into (slot : Nat)
  deriving DecidableEq, Repr

/-- An entry of the stream table (R166), with the commands that wait for its swaps and its close. `slot` is its pool slot while
RESIDENT; `back` marks a stream that a drain has swapped out (R182); `resync` that a reference is to be applied and
`left` how many samples of the running stream step follow it (R185); `reserved` is the slot that an open waits to take (R175). -/
structure Strm where
  valid    : Bool := false
  resident : Bool := false
  faulted  : Bool := false
  image    : Bool := false
  expavg   : Bool := false
  cls      : Nat := 0
  ctx      : Nat := 0
  part     : Nat := 0
  model    : Nat := 0
  slot     : Nat := 0
  home     : Nat := 0
  step     : BitVec 64 := 0
  resyncN  : Nat := 0
  refSeq   : Word := 0
  refAddr  : Nat := 0
  status   : BitVec 16 := 0
  done     : Nat := 0
  chunks   : List Chunk := []
  outDue   : Bool := false
  inDue    : Bool := false
  outCmds  : List CmdRef := []
  inCmds   : List CmdRef := []
  closing  : Bool := false
  closeCmd : List CmdRef := []
  dropped  : Bool := false
  move     : Move := .none
  back     : Bool := false
  resync   : Bool := false
  left     : Nat := 0
  resetDone : Bool := false
  reserved : Option Nat := none
  deriving DecidableEq, Repr

/-- State-carrying streams (R165 to R188). `shown` holds the entries as at the latest stream-step boundary of their region, `states` their
states then (R176). -/
structure Streams where
  ents       : Tbl Strm := []
  shown      : Tbl Strm := []
  states     : Tbl (List (Word × BitVec 16)) := []
  sel        : BitVec 16 := 0
  pinnedCnt  : Word := 0
  swapCnt    : Word := 0
  resyncCnt  : Word := 0
  resyncMiss : Word := 0
  deriving DecidableEq, Repr

end Sys2Proof.Machine
end

