-- ==== Sys2Proof/StateSolve.lean ====
section
/-! DEFINITION. The state of the solver complex (R189 to R217). -/
namespace Sys2Proof.Machine

/-- A factor (R197, R198): the rows of its unit lower triangle (CHOL: of the strict lower triangle), its pivots, the rows of U
right of them (LU only), the row order of P (LU only), and how many pivots were replaced. -/
structure Factor where
  low  : List (List DWord) := []
  piv  : List DWord := []
  up   : List (List DWord) := []
  perm : List Nat := []
  reg  : Nat := 0
  deriving DecidableEq, Repr

/-- A kept factor (R201), with the matrices it was made from and what their assembly recorded (R195). -/
structure KeptFactor where
  mat    : List DWord
  matG   : List DWord
  dref   : DWord
  na     : DWord
  factor : Factor
  deriving DecidableEq, Repr

/-- A run that has not ended (R197): what started it, its start and the end of its matrix program in ticks, its deadline as a
phase stamp, whether it reuses the kept factor, whether its MEAS_SYNC wait stands in the queue, and the tick at which its
vector program started. -/
structure SlvRun where
  entry   : Option (Nat × Nat) := none
  cmd     : Option CmdRef := none
  startT  : Nat
  matEnd  : Nat
  dl      : DWord
  keep    : Bool := false
  waiting : Bool := false
  vecT    : Option Nat := none
  deriving DecidableEq, Repr

/-- An output record on its way (R210): the tick at which it is complete, what it answers, its 16 bytes and the solution. -/
structure SlvOut where
  outT   : Nat
  entry  : Option (Nat × Nat) := none
  cmd    : Option (CmdRef × Nat) := none
  record : List Byte
  vals   : List Word
  deriving DecidableEq, Repr

/-- A problem slot (R190 to R214). `active` holds the parameters of the active bank, `next` those of a pending switch with the
indices written, `front` and `back` the measurement halves, `store` the solution store; `cmd` is the SLV_SOLVE that waits
for its window or runs, with OUT_ADDR. -/
structure Prob where
  valid    : Bool := false
  desc     : ProbDesc := { slot := 0 }
  active   : List DWord := []
  next     : Option (List DWord) := none
  touched  : List Nat := []
  front    : List Word := []
  back     : List Word := []
  store    : List DWord := []
  age      : Nat := 0
  kept     : Option KeptFactor := none
  resetDue : Bool := false
  record   : List Byte := []
  runs     : Word := 0
  run      : Option SlvRun := none
  outs     : List SlvOut := []
  cmd      : Option (CmdRef × Nat) := none
  deriving DecidableEq, Repr

/-- The solver complex (R215, R216). `asmProb` and `asmEnd` give each assembly engine's current or latest problem and the tick at which
its program ends. -/
structure Solver where
  laneFault : Word := 0
  asmProb0  : Nat := 0
  asmProb1  : Nat := 0
  asmEnd0   : Nat := 0
  asmEnd1   : Nat := 0
  regCnt    : Word := 0
  staleCnt  : Word := 0
  missCnt   : Word := 0
  nonfinite : Word := 0
  refcapCnt : Word := 0
  measLate  : Word := 0
  eccCe     : Word := 0
  probSel   : BitVec 8 := 0
  probs     : Tbl Prob := []
  deriving DecidableEq, Repr

end Sys2Proof.Machine
end

