-- ==== Sys2Proof/Machine/State.lean ====
section
/-! DEFINITION. The state of the part, the reasons a step can stop, and the state right after power-good. -/
namespace Sys2Proof.Machine

/-- Why the part would stop with a fault. The spec gives every command and event of the block an effect (an access that
does not exist is completed without one, R13), so there is no such reason: safe, since nothing can raise it. -/
inductive Fault where
  deriving DecidableEq, Repr

/-- Why the model would refuse a command. -/
inductive Refusal where
  /-- The command has no meaning in the model yet, raised by the dispatch arm of that command only: safe. -/
  | notModelled (mnemonic : String)
  deriving DecidableEq, Repr

/-- The outcome of a step of this machine. -/
abbrev Outcome (σ : Type) := Host.Outcome σ Fault Refusal

/-- The blocks of the part, each with the registers it shows in BAR0 (R480). -/
structure Blocks where
  glob  : Glob := {}
  time  : TimeUnit := {}
  sched : Sched := {}
  cmd   : Cmd := {}
  sync  : Sync := {}
  safe  : Safe := {}
  pwr   : Pwr := {}
  cte   : Cte := {}
  mio   : Mio := {}
  cmp   : Compute := {}
  srv   : Serving := {}
  strm  : Streams := {}
  slv   : Solver := {}
  cap   : Cap := {}
  ppe   : Ppe := {}
  cans  : Tbl Can := []
  eths  : Tbl Eth := []
  lnk   : Lnk := {}
  sec   : Sec := {}
  deriving DecidableEq, Repr

/-- Everything the spec gives the part, block by block, and the queue of the commands and events that wait. `flash` is the boot
flash (R409), `hostMem` and
`hubMem` record what the part has written to host memory and to the rings of firmware agents (R291); `free` counts the
free values taken so far (log entry 3). `mark` holds the blocks as they stood at the start of the present ACLK cycle, and `records` the
BAR0 addresses of the record registers that have taken a record in it (R71, R126, R483). -/
structure State extends Blocks where
  pending : List Instr := []
  powered : Bool := true
  flash   : Flash := {}
  image   : Option Image := none
  hostMem : Mem := []
  hubMem  : Mem := []
  free    : Nat := 0
  mark    : Blocks := {}
  records : List Nat := []
  deriving DecidableEq, Repr

/-- The domain D0 of the built-in table (R280): source TIME, PS 0, Π 20,000, RATE 2, one FETCH entry at OFFSET 0. -/
def builtinD0 : Domain where
  state  := .run
  rate   := 2 * 2 ^ 48
  active := { period := 20000, entries := [{ offset := 0, action := 5, cls := 2 }] }

/-- The part right after power-good: every register at its reset value, D0 under the built-in table (R280), every context
DETACHED, every counter FREE, every queue empty (R325, R398, R450). -/
def State.reset : State where
  time := { doms := [(0, builtinD0)] }
  mark := { time := { doms := [(0, builtinD0)] } }

end Sys2Proof.Machine
end

