-- ==== Sys2Proof/Machine/Ops.lean ====
section
/-! DEFINITION. The operations every block shares: time and phase (R250 to R269), free values, records and counters (R71,
R126), replies (R300), and the entries of the tables of State. -/
namespace Sys2Proof.Machine

/-- Status codes (R18). -/
abbrev Status := BitVec 16
/-- OK. -/
def stOk : Status := 0x0000
/-- OK_REGULARISED. -/
def stRegularised : Status := 0x0001
/-- OK_STALE_SHIFTED. -/
def stStaleShifted : Status := 0x0002
/-- OK_WIDE_RERUN. -/
def stWideRerun : Status := 0x0003
/-- BUSY. -/
def stBusy : Status := 0x0010
/-- BAD_OPCODE. -/
def stBadOpcode : Status := 0x0101
/-- BAD_PARAM. -/
def stBadParam : Status := 0x0102
/-- NO_FIT. -/
def stNoFit : Status := 0x0103
/-- CONFIG_CONFLICT. -/
def stConflict : Status := 0x0104
/-- NOT_AUTHORISED. -/
def stNotAuth : Status := 0x0105
/-- SIGNATURE_FAIL. -/
def stSigFail : Status := 0x0106
/-- DATA_ERROR. -/
def stDataError : Status := 0x0201
/-- FRAME_STALE. -/
def stFrameStale : Status := 0x0202
/-- DECODE_BOUNDS. -/
def stDecodeBounds : Status := 0x0203
/-- STREAM_PINNED. -/
def stPinned : Status := 0x0204
/-- OWNER_LOST. -/
def stOwnerLost : Status := 0x0301
/-- SYNC_UNDERFLOW. -/
def stUnderflow : Status := 0x0302
/-- TIMEOUT. -/
def stTimeout : Status := 0x0303
/-- DEADLINE_MISS. -/
def stDeadline : Status := 0x0401
/-- SAFE_STATE. -/
def stSafe : Status := 0x0402
/-- DIAG_LATE. -/
def stDiagLate : Status := 0x0403
/-- ECC_UNCORRECTABLE. -/
def stEcc : Status := 0x0501

/-- The 22 codes that the part uses (R18). -/
def Status.known (st : Status) : Bool :=
  [stOk, stRegularised, stStaleShifted, stWideRerun, stBusy, stBadOpcode, stBadParam, stNoFit, stConflict, stNotAuth, stSigFail,
   stDataError, stFrameStale, stDecodeBounds, stPinned, stOwnerLost, stUnderflow, stTimeout, stDeadline, stSafe, stDiagLate, stEcc].contains st

/-- The statuses that report a result that may be used (R18). -/
def Status.usable (st : Status) : Bool := st.toNat ≤ 3

/-! ## Packet fields (R297) -/

/-- Parameter bytes `a` to `a` + `n` - 1 of a packet as a number; byte 16 is the first parameter byte. -/
def pfield (p : Packet) (a n : Nat) : Nat := leField p.params (a - 16) n
/-- One parameter byte. -/
def u8 (p : Packet) (a : Nat) : Nat := pfield p a 1
/-- A 16-bit parameter. -/
def u16 (p : Packet) (a : Nat) : Nat := pfield p a 2
/-- A 32-bit parameter. -/
def u32 (p : Packet) (a : Nat) : Nat := pfield p a 4
/-- A 64-bit parameter. -/
def u64 (p : Packet) (a : Nat) : Nat := pfield p a 8
/-- The IRQ flag of a packet. -/
def pIrq (p : Packet) : Bool := p.flags.getLsbD 0
/-- The FENCE flag of a packet. -/
def pFence (p : Packet) : Bool := p.flags.getLsbD 1

/-! ## Entries of the tables -/

/-- A phase domain. -/
def State.dom (s : State) (d : Nat) : Domain := tblGet {} s.time.doms d
/-- A context. -/
def State.ctx (s : State) (c : Nat) : Ctx := tblGet {} s.cmd.ctxs c
/-- A package counter. -/
def State.counter (s : State) (k : Nat) : Counter := tblGet {} s.sync.counters k
/-- A loop slot. -/
def State.loop (s : State) (n : Nat) : Loop := tblGet {} s.cte.loops n
/-- An axis group. -/
def State.group (s : State) (g : Nat) : Group := tblGet {} s.cte.groups g
/-- The key of a physical region. -/
def rkey (d r : Nat) : Nat := 16 * d + r
/-- A physical region by key. -/
def State.region (s : State) (k : Nat) : Region := tblGet {} s.cmp.regions k
/-- The scratchpad port of a physical region by key. -/
def State.port (s : State) (k : Nat) : RegionSp := tblGet {} s.cmp.ports k

/-- Changing a phase domain. -/
def State.setDom (s : State) (d : Nat) (x : Domain) : State :=
  { s with time := { s.time with doms := tblSet {} s.time.doms d x } }
/-- Changing a context. -/
def State.setCtx (s : State) (c : Nat) (x : Ctx) : State :=
  { s with cmd := { s.cmd with ctxs := tblSet {} s.cmd.ctxs c x } }
/-- Changing a package counter. -/
def State.setCounter (s : State) (k : Nat) (x : Counter) : State :=
  { s with sync := { s.sync with counters := tblSet {} s.sync.counters k x } }
/-- Changing a loop slot. -/
def State.setLoop (s : State) (n : Nat) (x : Loop) : State :=
  { s with cte := { s.cte with loops := tblSet {} s.cte.loops n x } }
/-- Changing an axis group. -/
def State.setGroup (s : State) (g : Nat) (x : Group) : State :=
  { s with cte := { s.cte with groups := tblSet {} s.cte.groups g x } }
/-- Changing a physical region. -/
def State.setRegion (s : State) (k : Nat) (x : Region) : State :=
  { s with cmp := { s.cmp with regions := tblSet {} s.cmp.regions k x } }
/-- Changing the scratchpad port of a physical region. -/
def State.setPort (s : State) (k : Nat) (x : RegionSp) : State :=
  { s with cmp := { s.cmp with ports := tblSet {} s.cmp.ports k x } }

/-- Whether a physical region is one the grade enables (R21, R481). -/
def State.enabled (s : State) (k : Nat) : Bool :=
  if k < 16 then maskBit s.glob.enabled0 k else if k < 32 then maskBit s.glob.enabled1 (k - 16) else false

/-- Whether a physical region is available (R21, R439): the grade enables it and no repair record withdraws it. -/
def State.available (s : State) (k : Nat) : Bool := s.enabled k && !s.sec.mram.repair.any fun r => rkey r.die r.region == k

/-- The available regions, die 0 first. -/
def State.offered (s : State) : List Nat := (List.range 32).filter s.available

/-- The partitions of the loaded image. -/
def State.parts (s : State) : List PartCfg := (s.image.map Image.parts).getD []

/-- A partition of the loaded image; one the image does not declare owns nothing. -/
def State.partCfg (s : State) (p : Nat) : PartCfg := (s.parts.find? fun c => c.id == p).getD { id := p }

/-- The partition that owns a logical region, if any. -/
def State.partOf (s : State) (l : Nat) : Option Nat := (s.parts.find? fun c => c.regions.contains l).map PartCfg.id

/-- The logical region bound to a physical one (R22). -/
def State.lregOf (s : State) (k : Nat) : Option Nat := (s.glob.lmap.find? fun e => rkey e.2.1 e.2.2 == k).map Prod.fst

/-- The physical region a logical one is bound to. -/
def State.physOf (s : State) (l : Nat) : Option Nat := (s.glob.lmap.find? fun e => e.1 == l).map fun e => rkey e.2.1 e.2.2

/-- The partition that owns a physical region, 0xFF where none does. -/
def State.partOfPhys (s : State) (k : Nat) : Nat := ((s.lregOf k).bind s.partOf).getD 0xFF

/-! ## Free values -/

/-- A free value for a use that a log entry names, and the state that has taken it. -/
def State.takeFree (s : State) (use : Nat) : Nat × State := (Config.freeNat use s.free, { s with free := s.free + 1 })

/-! ## Time and phase -/

/-- The counter brought to tick `t`; it never runs back (R250). Where a new ACLK cycle of two ticks begins, the blocks as they
stand are what that cycle starts from, and no record has been written in it (R71, R126, R483). -/
def State.advance (s : State) (t : Nat) : State :=
  let n := max s.time.cnt t
  let same := n / 2 == s.time.cnt / 2
  { s with time := { s.time with cnt := n }, mark := (if same then s.mark else s.toBlocks), records := (if same then s.records else []) }

/-- The state as it stood at the start of the present cycle, which is what a host read samples (R483). -/
def State.cycleStart (s : State) : State :=
  { s with toBlocks := { s.mark with time := { s.mark.time with cnt := s.time.cnt / 2 * 2 } } }

/-- What a clear leaves of a counter: the updates of the cycle in which it falls (R71), `was` being the count at the start of that
cycle; a counter reset within the cycle keeps what it has counted since. -/
def sinceMark {n : Nat} (was cur : BitVec n) : BitVec n := if was.toNat ≤ cur.toNat then cur - was else cur
/-- The same of a count kept as a number. -/
def sinceNat (was cur : Nat) : Nat := if was ≤ cur then cur - was else cur

/-- The time value of a TIME domain at a tick, in units of 2^-16 ns (R251). -/
def Domain.timeVal (x : Domain) (n : Nat) : Int := x.offset + x.rate * n / 2 ^ 32

/-- The whole nanoseconds of a time value. -/
def Domain.ns (x : Domain) (n : Nat) : Int := x.timeVal n / 2 ^ 16

/-- The phase φ of a domain at a tick: R254 in a TIME domain, the free run of R262 in HOLDOVER, the bounded advance of
R257 between events, and otherwise the phase its source has left. -/
def Domain.phase (x : Domain) (n : Nat) : Word :=
  if x.source = 0 then BitVec.ofInt 32 (x.ns n / 2 ^ x.ps)
  else if x.state = .holdover then x.phi + BitVec.ofInt 32 (x.rate * ((n : Int) - x.baseTick) / 2 ^ 48)
  else if x.state = .run ∧ x.source ≥ 3 then
    let adv := x.rate * ((n : Int) - x.baseTick) / 2 ^ 48
    x.phi + BitVec.ofInt 32 (max 0 (min 65535 adv))
  else x.phi

/-- Whether a target is due at a phase: their difference, as a signed number, is 0 or more (R269). -/
def dueAt (phi target : Word) : Bool := decide (0 ≤ (phi - target).toInt)

/-- The fields of a phase stamp (R268). -/
def stampValid (w : DWord) : Bool := w.getLsbD 63
/-- DOMAIN of a phase stamp. -/
def stampDom (w : DWord) : Nat := w.toNat / 2 ^ 56 % 8
/-- PHASE of a phase stamp. -/
def stampPhase (w : DWord) : Word := BitVec.ofNat 32 w.toNat

/-- The phase stamp of a domain now (R268). -/
def State.stamp (s : State) (d : Nat) : DWord :=
  BitVec.ofNat 64 (2 ^ 63 + (d % 8) * 2 ^ 56 + ((s.dom d).phase s.time.cnt).toNat)

/-- Whether a deadline is due now (R269); none is due while its domain is in ACQUIRE, and one that is not VALID never is. -/
def State.deadlineDue (s : State) (w : DWord) : Bool :=
  let x := s.dom (stampDom w)
  stampValid w && decide (x.state = .run ∨ x.state = .holdover) && dueAt (x.phase s.time.cnt) (stampPhase w)

/-- Whether a deadline had been passed before the present cycle: the stamp of its domain at the first tick of the cycle lies behind it (R269, R319). -/
def State.deadlinePast (s : State) (w : DWord) : Bool :=
  let x := s.dom (stampDom w)
  let ph := x.phase (s.time.cnt / 2 * 2)
  stampValid w && decide (x.state = .run ∨ x.state = .holdover) && dueAt ph (stampPhase w) && ph != stampPhase w

/-- The 12 bytes of a time value given in units of 2^-16 ns (R251). -/
def timeBytes (v : Int) : List Byte :=
  let n := v.toNat
  leBytes (n % 65536) 2 ++ leBytes (n / 65536 % 1000000000) 4 ++ leBytes (n / 65536 / 1000000000) 6

/-! ## Records (R126) -/

/-- A record register with VALID in bit 31 and MULTI in bit 30, after a new record: a record that is still VALID is
overwritten and MULTI set (R126). -/
def recWrite (old : Word) (fields : Nat) : Word := w32 (2 ^ 31 + bitAt (old.getLsbD 31) 30 + fields % 2 ^ 30)

/-- A record register, by its address in BAR0, that takes a record in this cycle (R126). -/
def State.recorded (s : State) (addr : Nat) : State := { s with records := addr :: s.records }

/-- A host write: what it makes of the blocks, given their copy of the cycle's start, which it changes alike, so that a later
read of the same cycle shows the write (R483). -/
def State.hostWrite (s : State) (f : Blocks → Blocks → Blocks) : State :=
  if s.powered then { s with toBlocks := f s.mark s.toBlocks, mark := f s.mark s.mark } else s

/-- A W1C write to some bits of a register: a 1 clears its bit (R15), where the bit stood at the start of the cycle; a bit that the
cycle has set stays (R71, R483). -/
def w1c {n : Nat} (was old mask value : BitVec n) : BitVec n := old &&& ~~~(mask &&& value &&& was)

/-- The same of one bit. -/
def w1cBit (was old v : Bool) : Bool := old && !(v && was)

/-- VALID and MULTI of a record register written (R126); a record written in the same cycle, `fresh`, stays VALID with MULTI 0. -/
def w1cRec (fresh : Bool) (old v : Word) : Word :=
  if fresh && v.getLsbD 31 then old &&& ~~~0x40000000 else old &&& ~~~(0xC0000000 &&& v)

/-- Bits [4:0] of RGN_ANCHOR_TRIP written (R70): a trip recorded in the same cycle stays, with MULTI 0 where the write clears the record. -/
def w1cTrip (fresh : Bool) (was old v : Word) : Word :=
  if fresh && v.toNat % 16 ≠ 0 then old &&& ~~~0x10 else w1c was old 0x1F v

/-! ## Replies (R300) -/

/-- Bits [31:2] of the time counter: the completion stamp. -/
def State.replyStamp (s : State) : BitVec 30 := BitVec.ofNat 30 (s.time.cnt / 4)

/-- A completed reply put behind the replies of its context that wait to be written; a status from 0x0101 onward is
counted (R298), and so is BUSY (R310). -/
def State.pushReply (s : State) (c : Nat) (r : Reply) : State :=
  let x := s.ctx c
  let s := s.setCtx c { x with replies := x.replies ++ [r] }
  if r.status.toNat ≥ 0x0101 then { s with cmd := { s.cmd with refusedCnt := satInc s.cmd.refusedCnt } }
  else if r.status = stBusy then { s with cmd := { s.cmd with busyCnt := satInc s.cmd.busyCnt } }
  else s

/-- A command completes with a status, AUX and result words. A command that its context no longer has in flight (dropped
under R303) gets no reply. -/
def State.complete (s : State) (r : CmdRef) (status : Status) (result : List Word := []) (aux : Status := 0) : State :=
  if (s.ctx r.ctx).inflight.contains r.uid then
    s.pushReply r.ctx { uid := some r.uid, tag := r.tag, status := status, aux := aux, cls := r.cls, stamp := s.replyStamp,
                        result := result, irq := r.irq }
  else s

/-! ## Memory of the host and of firmware agents -/

/-- Whether a function's rings lie in hub-die memory (R291). -/
def firmwareFunc (f : Nat) : Bool := f == 0x40 || f == 0x41

/-- While the link IDE stream is Insecure, every request to host memory fails (R453, R454). -/
def State.hostDead (s : State) : Bool := tblGet .unkeyed s.lnk.ide 8 == .insecure

/-- Whether every request that the part makes for a context fails so. -/
def State.ctxDead (s : State) (c : Nat) : Bool := s.hostDead && !firmwareFunc (s.ctx c).func

/-- What the part writes to memory that belongs to a function; a write to host memory that fails leaves it as it is. -/
def State.writeFunc (s : State) (f addr : Nat) (bytes : List Byte) : State :=
  if firmwareFunc f then { s with hubMem := memWrite s.hubMem addr bytes }
  else if s.hostDead then s
  else { s with hostMem := memWrite s.hostMem addr bytes }

end Sys2Proof.Machine
end

