-- ==== Sys2Proof/Machine/OpsSafe.lean ====
section
/-! DEFINITION. Raising a safety event, entering safe state and faulting an axis group: the one shared operation that every
checker, watchdog and monitor calls (R234, R369 to R380, R390, R395). -/
namespace Sys2Proof.Machine

/-- The minimum reaction level of an event code (R371): 0 RECORD, 1 PARTITION, 2 PACKAGE; 3 marks a fixed level; none for
a code the table does not list and for HOST_REQUEST, whose level is as requested. -/
def eventMin : Nat → Option Nat
  | 0x01 | 0x02 => some 1
  | 0x03 | 0x04 => some 0
  | 0x05 => some 3
  | 0x06 | 0x07 => some 0
  | 0x08 | 0x09 | 0x0A | 0x0B | 0x0C => some 1
  | 0x10 | 0x11 | 0x12 | 0x13 | 0x14 | 0x15 | 0x16 | 0x17 | 0x18 => some 2
  | _ => none

/-- The default level of an event code (R371). -/
def eventDefault (code : Nat) : Nat :=
  if code = 0x04 then 1 else match eventMin code with
    | some 3 => 0
    | some m => m
    | none => 0

/-- Whether an event leaves safe state only by a reset (R371). -/
def eventReset (code : Nat) : Bool := [0x10, 0x11, 0x12, 0x13, 0x16, 0x17, 0x18].contains code

/-- Whether the release condition of an event is met as soon as the event is over: a plain Release (R371). -/
def eventPlain (code : Nat) : Bool := [0x01, 0x02, 0x03, 0x04, 0x06, 0x07, 0x20].contains code

/-- The level in force of an event code: the image's, or the default while no image has set it (R370). -/
def State.reactLevel (s : State) (code : Nat) : Nat :=
  if s.safe.react = [] then eventDefault code else s.safe.react.getD code 0

/-- The partitions in safe state: all of them while the package is (R375). -/
def State.safeParts (s : State) : BitVec 8 := if s.safe.package then 0xFF else s.safe.parts

/-- Whether a partition is in safe state. -/
def State.partSafe (s : State) (p : Nat) : Bool := maskBit s.safeParts p

/-- The level that both pins carry: high once an image has been loaded, but not in SAFE_HOLD, in package safe state, while a
partition of SAFE_PIN_MASK is in safe state, or after a lost alive signal has latched the package (R376). -/
def State.pinLevel (s : State) : Bool :=
  s.safe.armed && !s.glob.safeHold && !s.safe.package && (s.safe.parts &&& s.safe.pinMask) == 0

/-- SAFE_OUT_A and SAFE_OUT_B driven to the intended level (R375, R380). -/
def State.drivePins (s : State) : State :=
  { s with safe := { s.safe with outA := s.pinLevel, outB := s.pinLevel } }

/-- A record put into the log: behind every record of an earlier cycle, and among those of its own cycle in code order (R390). -/
def logInsert (r : LogRec) (log : List LogRec) : List LogRec :=
  let before := fun x : LogRec => decide (x.time / 2 ≠ r.time / 2 ∨ x.code ≤ r.code)
  log.takeWhile before ++ [r] ++ log.dropWhile before

/-- A record put into the safety log, of which 256 are kept, and counted (R370, R395). -/
def State.logEvent (s : State) (code level part detail : Nat) : State :=
  { s with safe := { s.safe with log := (logInsert ⟨code, level, part, detail, s.time.cnt⟩ s.safe.log).drop ((s.safe.log.length + 1) - 256),
                                 logCount := s.safe.logCount + 1, evtCnt := satInc s.safe.evtCnt } }

/-- Whether SAFE_CAUSE has taken a record in this cycle that an event of a code and level does not displace: one with a higher level, or
with the same level and a code that is no higher (R390). -/
def State.causeStays (s : State) (code level : Nat) : Bool :=
  s.records.contains 0x500008 && s.safe.cause.getLsbD 31 &&
    decide (level < bitsOf s.safe.cause.toNat 24 2 ∨ (level = bitsOf s.safe.cause.toNat 24 2 ∧ bitsOf s.safe.cause.toNat 0 8 ≤ code % 256))

/-- SAFE_CAUSE after an event above RECORD (R396, R397); of two in one cycle it holds that of the higher level or lower code, with MULTI
set (R390). -/
def State.setCause (s : State) (code level part : Nat) : State :=
  { s with safe := { s.safe with cause := (if s.causeStays code level then s.safe.cause ||| w32 (2 ^ 30)
                                           else recWrite s.safe.cause (level * 2 ^ 24 + (part % 8) * 2 ^ 16 + code % 256)) },
           records := 0x500008 :: s.records }

/-- Whether an event of a scope has been logged in this cycle: the package (8) or a partition (R390). -/
def State.eventNow (s : State) (scope : Nat) : Bool :=
  s.safe.log.any fun r => r.time / 2 == s.time.cnt / 2 && (if scope = 8 then r.level == 2 else r.level == 1 && r.part == scope)

/-- An axis group enters FAULT with a cause, and every slot of it with the group (R229, R234); a group already in FAULT, or
one the image does not declare, is unchanged. -/
def State.faultGroupOnly (s : State) (g cause : Nat) : State :=
  let x := s.group g
  if x.valid && !x.fault then
    let s := s.setGroup g { x with fault := true, cause := cause, ack := false }
    List.foldl (fun s i =>
      let l := s.loop (x.first + i)
      if l.state = .off then s else s.setLoop (x.first + i) { l with state := .fault, opening := false, next := none, first := false })
      s (List.range x.count)
  else s

/-- Every axis group of a partition faults with cause SUPERVISOR (R374), and its output frames carry INVALID until the group has left
FAULT (R380). -/
def State.faultPartGroups (s : State) (p : Nat) : State :=
  (List.range 16).foldl (fun s g => if (s.group g).part = p then
    (let s := s.faultGroupOnly g 7
     if (s.group g).valid then s.setGroup g { s.group g with invalid := true } else s) else s) s

/-- The declared safe-state messages that `named` takes are sent with the event's code (R379): on a CAN FD controller (key 16 + c) the
message waits for the next bus idle, on an Ethernet port it leaves at once, or waits (key p) while the link is down. -/
def State.sendMessages (s : State) (named : MsgCfg → Bool) (code : Nat) : State :=
  let ms := ((s.image.map fun i => i.safety.messages).getD []).filter named
  List.foldl (fun s (m : MsgCfg) =>
    let x := tblGet {} s.eths m.port
    if !m.onCan && x.link then { s with eths := tblSet {} s.eths m.port { x with message := code } }
    else
      let k := if m.onCan then 16 + m.port else m.port
      { s with safe := { s.safe with messages := tblInsert (tblErase s.safe.messages k) k code } }) s ms

/-- A partition that is not in safe state enters it (R374), leaving the partitions that depend on it to the caller. -/
def State.enterPart (s : State) (p code : Nat) : State :=
  if maskBit s.safe.parts p then s else
    let s := { s with safe := { s.safe with parts := maskSet s.safe.parts p } }
    let s := s.faultPartGroups p
    s.sendMessages (fun m => maskBit m.mask p) code

/-- The partitions that enter with partition `p`: those whose SAFE_DEPEND mask names it, directly or through others (R374);
`fuel` bounds the chain, which eight partitions cannot exceed. -/
def State.dependents (s : State) : Nat → List Nat → List Nat
  | 0, ps => ps
  | fuel + 1, ps =>
    let more := (List.range 8).filter fun q => !ps.contains q && ps.any fun p => maskBit (tblGet 0 s.safe.depend q) p
    if more = [] then ps else s.dependents fuel (ps ++ more)

/-- A scope's list of the events that hold it in safe state, with one more (R380). -/
def State.holdEvent (s : State) (scope : Nat) (e : SafeEvt) : State :=
  { s with safe := { s.safe with events := tblUpd [] s.safe.events scope (fun l => l ++ [e]) } }

/-- The package enters safe state: every partition's groups fault, every message is sent once whatever its mask (R379), both pins drop (R375). -/
def State.enterPackage (s : State) (code : Nat) : State :=
  let s := { s with safe := { s.safe with package := true } }
  let s := List.foldl State.faultPartGroups s (List.range 8)
  (s.sendMessages (fun _ => true) code).drivePins

/-- A safety event reaches channel A (R370, R371): it is logged and counted, and at its level the partition charged with
those that depend on it, or the package, enters safe state. An event in a scope that was in safe state before this cycle, and still is,
is logged only (R390). `lvl` overrides the level in force for HOST_REQUEST; an event that no partition is charged with stays RECORD (R27).
The package stays held by every Reset event (R380). -/
def State.raiseAt (s : State) (code part detail lvl : Nat) : State :=
  let lvl := if lvl = 1 ∧ part ≥ 8 then 0 else lvl
  let s := s.logEvent code lvl (if lvl = 2 then 0xFF else part) detail
  let evt : SafeEvt := ⟨code, detail, eventPlain code⟩
  if lvl = 2 then
    let s := if eventReset code then { s with safe := { s.safe with latched := true } } else s
    if s.safe.package then
      (if s.mark.safe.package then (if eventReset code then s.holdEvent 8 evt else s) else (s.setCause code 2 part).holdEvent 8 evt)
    else ((s.setCause code 2 part).holdEvent 8 evt).enterPackage code
  else if lvl = 1 then
    if s.partSafe part then
      (if s.mark.safe.package || maskBit s.mark.safe.parts part then s else (s.setCause code 1 part).holdEvent part evt)
    else
      let s := (s.setCause code 1 part).holdEvent part evt
      let s := List.foldl (fun s p => s.enterPart p code) s (s.dependents 8 [part])
      s.drivePins
  else s

/-- A safety event at its level in force (R370). -/
def State.raise (s : State) (code part detail : Nat) : State := s.raiseAt code part detail (s.reactLevel code)

/-- An axis group faults with one of the causes 1 to 6, and the supervisor is informed (R234, R371). -/
def State.faultGroup (s : State) (g cause : Nat) : State :=
  let x := s.group g
  if x.valid && !x.fault then (s.faultGroupOnly g cause).raise 0x03 x.part g else s

/-- The release condition of an event code is met now, in every scope it holds; `detail` none means whatever the unit. -/
def State.meetCond (s : State) (code : Nat) (detail : Option Nat) : State :=
  let met := fun e : SafeEvt => if e.code = code ∧ (detail = none ∨ detail = some e.detail) then { e with met := true } else e
  { s with safe := { s.safe with events := tblMap [] (fun _ l => l.map met) s.safe.events } }

/-- The release condition of an event code is met now for the events that hold one scope. -/
def State.meetCondIn (s : State) (scope code : Nat) : State :=
  let met := fun e : SafeEvt => if e.code = code then { e with met := true } else e
  { s with safe := { s.safe with events := tblUpd [] s.safe.events scope (fun l => l.map met) } }

/-- The completion status of class 1 work of a partition in safe state: SAFE_STATE in place of a usable status (R374). -/
def State.recordStatus (s : State) (part cls : Nat) (st : Status) : Status :=
  if cls = 1 && s.partSafe part && st.usable then stSafe else st

end Sys2Proof.Machine
end

