-- ==== Sys2Proof/Machine/OpsCmd.lean ====
section
/-! DEFINITION. Counters and waits (R314 to R320), the checks and the start of a command (R298, R299, R304, R309 to R311),
and the ring control block (R293). -/
namespace Sys2Proof.Machine

/-! ## Synchronisation counters -/

/-- The largest value of a counter (R314). -/
def counterMax : Nat := 2 ^ 31 - 1

/-- A wait's requester learns that it has been granted, with the counter's value after the take (R315). -/
def State.grantWait (s : State) (w : Wait) (after : Nat) : State :=
  match w.who with
  | .cmd r => s.complete r stOk [w32 after]
  | .solver slot => { s with sync := { s.sync with granted := s.sync.granted ++ [slot] } }
  | .entry _ _ => s

/-- The waits on one counter granted from the head while the counter can pay (R315); `fuel` bounds their number. -/
def State.grantLoop (s : State) (k : Nat) : Nat → State
  | 0 => s
  | fuel + 1 =>
    match s.sync.waits.find? fun w => w.counter == k with
    | none => s
    | some w =>
      let x := s.counter k
      if x.value < w.n then s else
        let s := s.setCounter k { x with value := x.value - w.n }
        let s := { s with sync := { s.sync with waits := s.sync.waits.erase w } }
        State.grantLoop (s.grantWait w (x.value - w.n)) k fuel

/-- The place of an entry's run among the waits of one cycle (R315): entries in table order, a hub block's by the lower problem slot. -/
def entryRank (d e slot : Nat) : Nat := (d * 65536 + e) * 64 + slot

/-- The place of a context's command: behind every entry, by the context's number. -/
def ctxRank (c slot : Nat) : Nat := 2 ^ 40 + c * 64 + slot

/-- A wait put into the queue: behind those of its counter that are older, and of its own cycle behind those that rank before it (R315). -/
def insertWait (w : Wait) : List Wait → List Wait
  | [] => [w]
  | x :: rest => if x.counter = w.counter ∧ x.cyc = w.cyc ∧ w.rank < x.rank then w :: x :: rest else x :: insertWait w rest

/-- A wait for `n` registered on a counter now. -/
def State.register (s : State) (k n rank : Nat) (who : Waiter) : State :=
  { s with sync := { s.sync with waits := insertWait { counter := k, n := n, who := who, cyc := s.time.cnt / 2, rank := rank } s.sync.waits } }

/-- Every wait that a counter can pay, granted in order of registration (R315). -/
def State.grants (s : State) (k : Nat) : State := s.grantLoop k s.sync.waits.length

/-- A wait whose deadline was passed before the present cycle: no grant of this cycle can stand (R319). -/
def State.waitLate (s : State) (k : Nat) (w : Wait) : Bool := w.counter == k && match w.who with
  | .cmd r => s.deadlinePast r.deadline
  | _ => false

/-- The waits on a counter that are late end with TIMEOUT, and those behind them are tested (R319). -/
def State.expireWaits (s : State) (k : Nat) : State :=
  let ws := s.sync.waits.filter (s.waitLate k)
  if ws = [] then s else
    let s' := { s with sync := { s.sync with waits := s.sync.waits.filter fun w => !s.waitLate k w } }
    (List.foldl (fun s w => match w.who with
      | .cmd r => ({ s with sync := { s.sync with timeoutCnt := satInc s.sync.timeoutCnt } }).complete r stTimeout
      | _ => s) s' ws).grants k

/-- A signal of `n` on a LIVE counter, and the grants it enables; a sum beyond 2^31 - 1 is refused (R314), a counter that
is not LIVE answers OWNER_LOST (R318). -/
def State.signal (s : State) (k n : Nat) : State × Status :=
  let x := s.counter k
  match x.state with
  | .live => if x.value + n > counterMax then (s, stBadParam) else ((s.setCounter k { x with value := x.value + n }).grants k, stOk)
  | .abandoned => (s, stOwnerLost)
  | .free => (s, stOwnerLost)

/-- The entry of a partition's image map for a VID (R316). -/
def State.imageVid (s : State) (part vid : Nat) : Option VidMap := (tblGet [] s.sync.images part).find? fun m => m.vid == vid

/-- A signal of +1 that compiled work of a partition and class makes on a VID of its image map (R314, R316): a sum beyond
2^31 - 1 leaves the counter at its end, the task completes with BAD_PARAM, and class 0 or class 1 work raises UNIT_FAULT. -/
def State.signalVid (s : State) (part vid cls : Nat) : State × Status :=
  match s.imageVid part vid with
  | none => (s, stBadParam)
  | some m =>
    if !m.sig then (s, stNotAuth) else
      match (s.expireWaits m.counter).signal m.counter 1 with
      | (s', st) =>
        if st = stBadParam then
          let s'' := s'.setCounter m.counter { s'.counter m.counter with value := counterMax }
          (if cls ≤ 1 then s''.raise 0x08 part m.counter else s'', stBadParam)
        else (s', st)

/-- A counter becomes FREE (R317). -/
def State.freeCounter (s : State) (k : Nat) : State := s.setCounter k {}

/-- Every wait on a counter completes with a status and leaves the queue. -/
def State.failWaits (s : State) (k : Nat) (st : Status) : State :=
  let ws := s.sync.waits.filter fun w => w.counter == k
  let s := { s with sync := { s.sync with waits := s.sync.waits.filter fun w => w.counter != k } }
  List.foldl (fun s w => match w.who with
    | .cmd r => s.complete r st
    | _ => s) s ws

/-- The contexts that map a counter. -/
def State.mappers (s : State) (k : Nat) : List Nat :=
  (s.cmd.ctxs.filter fun e => e.2.vids.any fun m => m.2.counter == k).map Prod.fst

/-- A counter loses its owner (R318): ABANDONED while another mapping remains, its waits ending with OWNER_LOST; FREE where
none does. -/
def State.abandon (s : State) (k : Nat) : State :=
  if s.mappers k = [] then s.freeCounter k else
    let s := s.setCounter k { s.counter k with state := .abandoned }
    let s := s.failWaits k stOwnerLost
    { s with sync := { s.sync with abandonCnt := satInc s.sync.abandonCnt } }

/-- A mapping is removed (R317, R318): of an image counter nothing more follows; the owner's mapping makes the counter
ABANDONED or FREE, the last mapping of another context makes it FREE. -/
def State.dropMapping (s : State) (c vid : Nat) : State :=
  let x := s.ctx c
  match (x.vids.find? fun m => m.1 == vid).map Prod.snd with
  | none => s
  | some m =>
    let s := s.setCtx c { x with vids := tblErase x.vids vid }
    let k := s.counter m.counter
    if k.image then s
    else if (s.ctx c).vids.any fun e => e.2.counter == m.counter then s
    else if k.state = .live ∧ k.owner = c then s.abandon m.counter
    else if s.mappers m.counter = [] then s.freeCounter m.counter
    else s

/-- Every mapping of a context is removed (R303). -/
def State.dropMappings (s : State) (c : Nat) : State :=
  List.foldl (fun s m => s.dropMapping c m.1) s (s.ctx c).vids

/-! ## Ring control block (R293) -/

/-- What the part reads of a ring control block. -/
structure Rcb where
  cmdRing : Nat
  rplRing : Nat
  cmdLog2 : Nat
  rplLog2 : Nat
  vector  : Nat
  cls     : Nat
  deriving DecidableEq, Repr

/-- The size of a function's MSI-X table (R451): 64 vectors for the physical function and 8 for a virtual function. -/
def vectors (f : Nat) : Nat := if f = 0 then 64 else 8

/-- Bytes 16 to 35 of a ring control block, checked (R293): BAD_PARAM where a field is out of range, ECC_UNCORRECTABLE where
the read failed. The operand holds those 20 bytes. -/
def readRcb (func : Nat) : HostRead → Except Status Rcb
  | .failed => .error stEcc
  | .data b =>
    let r : Rcb := { cmdRing := leField b 0 8, rplRing := leField b 8 8, cmdLog2 := leField b 16 1, rplLog2 := leField b 17 1,
                     vector := leField b 18 1, cls := leField b 19 1 }
    if r.cmdRing % 4096 = 0 ∧ r.rplRing % 4096 = 0 ∧ 6 ≤ r.cmdLog2 ∧ r.cmdLog2 ≤ 16 ∧ 6 ≤ r.rplLog2 ∧ r.rplLog2 ≤ 16 ∧
       (firmwareFunc func ∨ r.vector < vectors func) ∧ (r.cls = 2 ∨ r.cls = 3)
    then .ok r else .error stBadParam

/-- What a function's ring control block gives: a read that fails while no request reaches host memory gives ECC_UNCORRECTABLE (R454). -/
def State.ringBlock (s : State) (func : Nat) (r : HostRead) : Except Status Rcb :=
  if s.hostDead && !firmwareFunc func then .error stEcc else readRcb func r

/-! ## The start of a command -/

/-- The opcodes that R305 defines. -/
def opcodes : List Nat :=
  [0x0101, 0x0102, 0x0103, 0x0104, 0x0105, 0x0106, 0x0107, 0x0201, 0x0202, 0x0203, 0x0301, 0x0310, 0x0311, 0x0312, 0x0313,
   0x0320, 0x0321, 0x0322, 0x0323, 0x0324, 0x0325, 0x0326, 0x0401, 0x0402, 0x0403, 0x0501, 0x0502, 0x0503, 0x0504, 0x0505,
   0x0506, 0x0507, 0x0508, 0x0601, 0x0602, 0x0603, 0x0604, 0x0701, 0x0702, 0x0703, 0x0704, 0x0705, 0x0801, 0x0802, 0x0803,
   0x0804, 0x0901, 0x0902, 0x0903, 0x0904, 0x0A01, 0x0A02, 0x0A03, 0x0A04, 0x0A05, 0x0A06, 0x0A07, 0x0A08, 0x0A09, 0x0A0A,
   0x0A0B, 0x0B01, 0x0B02, 0x0B03, 0x0B04, 0x0B05, 0x0B06, 0x0B07, 0x0B08, 0x0B09, 0x0C01, 0x0C02]

/-- The family of an opcode: its high byte. -/
def family (op : Nat) : Nat := op / 256

/-- The families that enter the control queue: session, image, safety and security (R311). -/
def controlFamily (op : Nat) : Bool := [0x01, 0x02, 0x09, 0x0A].contains (family op)

/-- What is accepted while no image is loaded (R309). -/
def allowedWithoutImage (op : Nat) (p : Packet) : Bool :=
  [0x01, 0x02, 0x09, 0x0A, 0x0B, 0x0C].contains (family op) || (op == 0x0601 && u8 p 16 == 0)

/-- The header checks of R298, items 1 to 3 with R299: the first status that applies. -/
def State.headerCheck (s : State) (p : Packet) : Option Status :=
  if !opcodes.contains p.opcode.toNat then some stBadOpcode
  else if p.hlen ≠ 4 then some stBadParam
  else if p.flags.toNat ≥ 4 then some stBadParam
  else if stampValid p.deadline && decide ((s.dom (stampDom p.deadline)).state = .idle) then some stBadParam
  else if s.deadlineDue p.deadline then some stTimeout
  else none

/-- The first queued command of a context: the one that may start next, as its commands start in fetch order (R296). -/
def State.headOf (s : State) (c : Nat) : Option Queued := s.cmd.queue.find? fun q => q.cmd.ctx == c

/-- A fetched packet takes its place in the context's order and is counted (R295, R296). -/
def State.fetchOne (s : State) (c : Nat) (p : Packet) (cls : Nat) : State × CmdRef :=
  let x := s.ctx c
  let r : CmdRef := { ctx := c, uid := s.cmd.nextUid, tag := p.tag, irq := pIrq p, cls := cls, deadline := p.deadline }
  let s := s.setCtx c { x with fetched := x.fetched + 1, inflight := x.inflight ++ [r.uid] }
  ({ s with cmd := { s.cmd with nextUid := s.cmd.nextUid + 1, fetchCnt := satInc s.cmd.fetchCnt } }, r)

/-- Whether a FENCE lets a command start: every earlier command of its context has been replied to (R296). -/
def State.fenceOk (s : State) (c uid : Nat) (p : Packet) : Bool :=
  !pFence p || !((s.ctx c).inflight.any fun u => u < uid)

/-- Whether the part may fetch from a context: it is ATTACHED, and has fewer than 256 commands in flight and 64 replies
waiting (R290, R296). -/
def State.mayFetch (s : State) (c : Nat) : Bool :=
  decide ((s.ctx c).state = .attached) && decide ((s.ctx c).inflight.length < 256) && decide ((s.ctx c).replies.length < 64)

/-- QMAX of a partition's queue of a class (R310). -/
def State.qmax (s : State) (part cls : Nat) : Nat := if cls = 2 then (s.partCfg part).qmax2 else (s.partCfg part).qmax3

/-- How many commands stand in the pending queue of a partition and class. -/
def State.queueLen (s : State) (part cls : Nat) : Nat :=
  countIf (fun q : Queued => !q.control && q.part == part && q.cmd.cls == cls) s.cmd.queue

/-- The control queue holds its 32 commands. -/
def State.controlFull (s : State) : Bool := decide (countIf Queued.control s.cmd.queue ≥ 32)

/-- Whether a command of a class that is fetched now finds its pending queue full (R310); one of the control queue does not enter such a queue. -/
def State.queueFull (s : State) (c cls : Nat) (p : Packet) : Bool :=
  !controlFamily p.opcode.toNat && decide (s.queueLen (s.ctx c).part cls ≥ s.qmax (s.ctx c).part cls)

/-- Whether a queued command has waited for longer than BUSY_AGE since it was fetched (R310). -/
def State.aged (s : State) (q : Queued) : Bool := !q.control && decide (s.time.cnt > q.fetchedT + (s.partCfg q.part).busyAgeNs / 2)

/-- Whether a command of the control queue, which is served before every pending queue, may start (R311). A load that is held for the compute
dies (R32) holds no other command back. -/
def State.controlWaits (s : State) : Bool := s.cmd.queue.any fun q =>
  q.control && q.img.isNone && (s.ctx q.cmd.ctx).state == .attached && s.headOf q.cmd.ctx == some q && s.fenceOk q.cmd.ctx q.cmd.uid q.packet

/-- A context enters ERROR with a cause (R302): 1 RING, 2 HOST_READ, 3 HOST_WRITE. One reply with TAG 0xFFFF_FFFF follows,
its status BAD_PARAM for RING and ECC_UNCORRECTABLE otherwise, its AUX the cause. -/
def State.ctxError (s : State) (c cause : Nat) : State :=
  let x := s.ctx c
  if x.state = .attached ∨ x.state = .suspended then
    let s := s.setCtx c { x with state := .error, err := cause }
    s.pushReply c { tag := 0xFFFFFFFF, status := (if cause = 1 then stBadParam else stEcc), aux := BitVec.ofNat 16 cause,
                    cls := x.cls, stamp := s.replyStamp }
  else s

/-- Whether a command reads or writes a host buffer when it starts (R453); a push and a solve, whose data may be empty, see to theirs. -/
def hostBuffer (op : Nat) (p : Packet) : Bool :=
  [0x0201, 0x0326, 0x0401, 0x0402, 0x0703, 0x0802, 0x0904, 0x0A02, 0x0A03, 0x0A04, 0x0A06, 0x0A07, 0x0A08, 0x0A09, 0x0A0A, 0x0A0B,
    0x0B04, 0x0B05, 0x0B06].contains op || (op == 0x0A01 && u64 p 24 != 0)

/-- The status of a command that its checks let start, but whose host buffer cannot be reached (R453, R454). -/
def State.bufferCheck (s : State) (c op : Nat) (p : Packet) (own : Option Status) : Option Status :=
  own.orElse fun _ => if s.ctxDead c && hostBuffer op p then some stEcc else none

/-- The checks made when a command starts: its deadline, which a start stamped at or before it beats (R269, R299), zeroisation, in which SEC_QUERY alone is accepted (R416), what
R309 accepts, and then its own. -/
def State.startCheck (s : State) (p : Packet) (own : Option Status) : Option Status :=
  if s.deadlinePast p.deadline then some stTimeout
  else if s.sec.mram.zrec.isSome && p.opcode.toNat != 0x0A01 then some stNotAuth
  else if !s.glob.imageLoaded && !allowedWithoutImage p.opcode.toNat p then some stBadParam
  else own

/-- A command of context `c` starts (R296, R298). Where packets of the context are queued, the command is the first of
them; otherwise it is fetched now, in the same cycle, if its context may be fetched from. `op` is the opcode of the row,
`cls` the class it runs in (R304), `own` the first status of the command's own checks that applies, `run` its effect. A
command that is not next in its context's order, whose context is not ATTACHED, that a FENCE or the control queue holds back, or that finds
the control queue full does not start, and nothing happens. One that has waited for too long, or that finds its pending queue full, is
answered BUSY (R310). While every request to host memory fails, a packet cannot be fetched, and its context enters ERROR (R302, R454). -/
def State.command (s : State) (c : Nat) (p : Packet) (op cls : Nat) (own : Option Status) (run : State → CmdRef → State) : State :=
  if !s.powered || p.opcode.toNat != op || (s.ctx c).state != .attached || (!controlFamily op && s.controlWaits) then s else
    match s.headOf c with
    | some q =>
      if q.packet ≠ p then s
      else if !s.fenceOk c q.cmd.uid p then s
      else
        let s' := { s with cmd := { s.cmd with queue := s.cmd.queue.erase q } }
        match s'.startCheck p (if s.aged q then some stBusy else s.bufferCheck c op p own) with
        | some st => s'.complete { q.cmd with cls := cls } st
        | none => run s' { q.cmd with cls := cls }
    | none =>
      if !s.mayFetch c || !s.fenceOk c s.cmd.nextUid p || (controlFamily op && s.controlFull) then s
      else if s.ctxDead c then s.ctxError c 2
      else
        let (s', r) := s.fetchOne c p cls
        match (s'.headerCheck p).orElse fun _ => s'.startCheck p (own.orElse fun _ => if s'.queueFull c cls p then some stBusy else none) with
        | some st => s'.complete r st
        | none => run s' r

/-- A command whose effect is a reply made at once. -/
def State.replyNow (s : State) (r : CmdRef) (result : List Word := []) : State := s.complete r stOk result

end Sys2Proof.Machine
end

