-- ==== Sys2Proof/Machine/OpsMem.lean ====
section
/-! DEFINITION. Scratchpad and LPDDR contents by address (R100 to R105, R122, R457), and the status that started work gathers
(R272, R306). -/
namespace Sys2Proof.Machine

/-- The bytes of a slice (R100). -/
def sliceLen : Nat := 0x600000

/-- Where a scratchpad address lies, as a key of the scratchpad contents; none where it addresses nothing (R100). -/
def State.spaKey (s : State) (spa : Nat) : Option Nat :=
  if spa / sliceLen ≥ 32 then none else (s.physOf (spa / sliceLen)).map fun k => k * sliceLen + spa % sliceLen

/-- Whether a range of scratchpad addresses addresses bound regions throughout. -/
def State.spaBound (s : State) (spa n : Nat) : Bool :=
  n == 0 || ((List.range ((spa + n - 1) / sliceLen + 1 - spa / sliceLen)).all fun i => (s.spaKey ((spa / sliceLen + i) * sliceLen)).isSome)

/-- Whether a range of scratchpad addresses lies in slices of one partition (R101). -/
def State.spaOf (s : State) (part spa n : Nat) : Bool :=
  n == 0 || ((List.range ((spa + n - 1) / sliceLen + 1 - spa / sliceLen)).all fun i => s.partOf (spa / sliceLen + i) == some part)

/-- One byte at a scratchpad address. -/
def State.spByte (s : State) (spa : Nat) : Byte := match s.spaKey spa with
  | some a => memGet s.cmp.sp a
  | none => 0

/-- Bytes at scratchpad addresses. -/
def State.spRead (s : State) (spa : Nat) : Nat → List Byte
  | 0 => []
  | n + 1 => s.spByte spa :: s.spRead (spa + 1) n

/-- Bytes written at scratchpad addresses; a byte at an address that addresses nothing is not written. -/
def State.spWrite (s : State) (spa : Nat) : List Byte → State
  | [] => s
  | b :: bs =>
    let s := match s.spaKey spa with
      | some a => { s with cmp := { s.cmp with sp := memSet s.cmp.sp a b } }
      | none => s
    s.spWrite (spa + 1) bs

/-- The lines of a size that a range of bytes touches, by number. -/
def linesOf (size a n : Nat) : List Nat := if n = 0 then [] else (List.range ((a + n - 1) / size + 1 - a / size)).map (· + a / size)

/-- Whether a range of scratchpad addresses holds poisoned data (R122). -/
def State.spPoisoned (s : State) (spa n : Nat) : Bool := (linesOf 256 spa n).any fun l => match s.spaKey (l * 256) with
  | some a => s.cmp.spPoison.contains (a / 256)
  | none => false

/-- Bytes of LPDDR. -/
def State.lpRead (s : State) (a n : Nat) : List Byte := memRead s.cmp.lp a n
/-- Bytes written to LPDDR. -/
def State.lpWrite (s : State) (a : Nat) (bs : List Byte) : State := { s with cmp := { s.cmp with lp := memWrite s.cmp.lp a bs } }
/-- Whether a range of LPDDR holds poisoned data (R457). -/
def State.lpPoisoned (s : State) (a n : Nat) : Bool := (linesOf 64 a n).any s.cmp.lpPoison.contains

/-! ## Started work -/

/-- The status of a piece of work after one more result: an error stays, a usable status gives way to a higher one (R67). -/
def mergeStatus (old new : Status) : Status := if old.usable then (if new.usable && decide (new.toNat ≤ old.toNat) then old else new) else old

/-- The work that has started under an identifier. -/
def State.work (s : State) (id : WorkId) : Option Work := s.cmp.works.find? fun w => w.id == id

/-- A piece of work changed. -/
def State.updWork (s : State) (id : WorkId) (f : Work → Work) : State :=
  { s with cmp := { s.cmp with works := s.cmp.works.map fun w => if w.id = id then f w else w } }

/-- A status gathered by a piece of work. -/
def State.addStatus (s : State) (id : Option WorkId) (st : Status) : State :=
  match id with
  | none => s
  | some i => s.updWork i fun w => { w with status := mergeStatus w.status st }

/-- The status a piece of work has gathered. -/
def State.workStatus (s : State) (id : Option WorkId) : Status := ((id.bind s.work).map Work.status).getD stOk

/-- The order of R157 between the statuses that one position meets: an uncorrectable error, then a refusal, then the first of the others. -/
def worseStatus (old new : Status) : Status :=
  if old = stEcc ∨ new = stEcc then stEcc
  else if old = stNotAuth ∨ new = stNotAuth then stNotAuth
  else mergeStatus old new

/-- A status met by one position of a step (R137, R157). -/
def State.addPos (s : State) (id : WorkId) (i : Nat) (st : Status) : State :=
  s.updWork id fun w => { w with pos := tblUpd stOk w.pos i fun old => worseStatus old st }

/-- The status that one position of a step has gathered. -/
def State.posStatus (s : State) (id : WorkId) (i : Nat) : Status := ((s.work id).map fun w => tblGet stOk w.pos i).getD stOk

/-- The address in BAR0 of a region's block (R481). -/
def rgnAddr (k : Nat) : Nat := 0x1000000 + k * 0x80000

/-- A fault of a region is reported against the partition that owns it (R27). -/
def State.faultUnit (s : State) (k : Nat) : State := s.raise 0x08 (s.partOfPhys k) k

/-- Results that are not finite counted in a region (R44). -/
def State.addNonfinite (s : State) (k n : Nat) : State :=
  let x := s.region k
  s.setRegion k { x with nonfinite := satAdd x.nonfinite n }

/-- A refusal under R105 recorded in a region: the slot, what was accessed (0 narrow read, 1 narrow write, 2 wide read, 3 wide
write, 4 a transfer's far end), and the offset (R125, R126). -/
def State.boundRecord (s : State) (k slot kind offset : Nat) : State :=
  let x := s.port k
  (s.recorded (rgnAddr k + 0x410)).setPort k { x with boundErr := recWrite x.boundErr (slot % 128 * 256 + kind % 8), boundOfs := w32 offset, boundCnt := satInc x.boundCnt }

/-! ## Windows (R104, R105) -/

/-- Whether a Rolink port carries traffic: trained, keyed and not faulty. -/
def State.rolOk (s : State) (port : Nat) : Bool := decide (port < 4) && maskBit s.lnk.rolUp port && !maskBit s.lnk.rolFault port

/-- Whether a remote package cannot be reached (R414, R463): every port declared to it is without traffic, or, where it lies two hops
away, every port. -/
def State.remoteDown (s : State) (pkg : Nat) : Bool :=
  let ports := ((s.image.map Image.peers).getD []).filter fun q => q.2 == pkg
  if ports = [] then !(List.range 4).any s.rolOk else !ports.any fun q => s.rolOk q.1

/-- The cycles of a region since its frame origin (R107, R428): of 4 ns, or of 5 ns while its clock is stretched. -/
def RegionSp.cycle (x : RegionSp) (now : Nat) : Nat :=
  if x.stretched then (2 * (x.slowT - x.frameOrigin) - x.slowCyc) / 4 + 2 * (now - x.slowT) / 5
  else (2 * (now - x.frameOrigin) - x.slowCyc) / 4

/-- The stretched cycles of 2.5 ticks of the running stretch (R428). -/
def RegionSp.runCyc (x : RegionSp) (now : Nat) : Nat := if x.stretched then (now - x.slowT) * 2 / 5 else 0

/-- RGN_STRETCH_CYC (R448): the stretched cycles counted, those of the running stretch among them but for the ones that a clear has taken away. -/
def RegionSp.cycCount (x : RegionSp) (now : Nat) : Word := satAdd x.stretchCyc (x.runCyc now - x.dropCyc)

/-- The present cycle of a region, in which every count of the chapters on the array and the scratchpad holds (R96, R123). -/
def State.cycleOf (s : State) (k : Nat) : Nat := (s.port k).cycle s.time.cnt

/-- The window of a region's slot (R104); a slot in which no task has run has bound 0. -/
def State.winOf (s : State) (k slot : Nat) : Window := tblGet { base := 0, bound := 0 } (s.port k).wins slot

/-- A window slot written. -/
def State.setWin (s : State) (k slot : Nat) (w : Window) : State :=
  let x := s.port k
  s.setPort k { x with wins := tblSet { base := 0, bound := 0 } x.wins slot w }

/-- A task starts in a window slot (R104): its base and bound are written, unless another task holds the slot. -/
def State.takeWin (s : State) (k slot base bound part : Nat) (id : WorkId) : State :=
  match (s.winOf k slot).work with
  | some other => if other = id then s.setWin k slot { base := base, bound := bound, part := part, work := some id } else s
  | none => s.setWin k slot { base := base, bound := bound, part := part, work := some id }

/-- The window slots that work holds are given up; their bases and bounds stay (R104). -/
def State.freeWins (s : State) (id : WorkId) : State :=
  let free := fun w : Window => if w.work = some id then { w with work := none, stopped := false } else w
  { s with cmp := { s.cmp with ports := tblMap {} (fun _ (x : RegionSp) => { x with wins := tblMap { base := 0, bound := 0 } (fun _ w => free w) x.wins }) s.cmp.ports } }

/-- A piece of work that is over: it gives up its window slots. -/
def State.endWork (s : State) (id : WorkId) : State := { s with cmp := { s.cmp with works := s.cmp.works.filter fun w => w.id != id } }.freeWins id

/-- Whether `n` bytes at an offset of a window lie in it and address bound regions (R105). -/
def State.inRange (s : State) (base bound off n : Nat) : Bool := decide (off < 2 ^ 32) && decide (off + n ≤ bound) && s.spaBound (base + off) n

/-- The same of a window slot. -/
def State.inWin (s : State) (w : Window) (off n : Nat) : Bool := s.inRange w.base w.bound off n

/-- A task of a region is stopped in its window slot (R105). -/
def State.stopWin (s : State) (k slot : Nat) : State :=
  let w := s.winOf k slot
  if w.work.isSome then s.setWin k slot { w with stopped := true } else s

/-- A refused access (R105): it is recorded, the task is stopped, its pass completes with NOT_AUTHORISED, and a refusal of class 0 or
class 1 work is reported (R371). -/
def State.refuse (s : State) (k slot kind offset : Nat) (work : Option WorkId) (cls : Nat) : State :=
  let s := ((s.boundRecord k slot kind offset).stopWin k slot).addStatus work stNotAuth
  if cls ≤ 1 then s.faultUnit k else s

/-- An uncorrectable error of a scratchpad line recorded in its region (R122): the bank is o[12:8] and the line o / 8,192 (R103). -/
def State.eccRecord (s : State) (k o : Nat) : State :=
  let x := s.port k
  (s.recorded (rgnAddr k + 0x420)).setPort k { x with eccUe := recWrite x.eccUe (o / 256 % 32 * 2 ^ 16 + o / 8192 % 1024) }

end Sys2Proof.Machine
end

