-- ==== Sys2Proof/Machine/OpsTime.lean ====
section
/-! DEFINITION. What phase domains and the schedule engine do under every row that touches them: slews and steps, loss and
return of a source, the rate estimate, boundaries, restarts and swaps, the firing and the completion of an entry
(R251 to R289). -/
namespace Sys2Proof.Machine

/-- Bits of TIME_EVENT set for a domain: `field` 0 LOST, 1 OVERSPEED, 2 STEP, 3 INDEX_ERR (R286). -/
def State.timeEvent (s : State) (field d : Nat) : State :=
  { s with time := { s.time with event := s.time.event ||| w32 (2 ^ (8 * field + d)) } }

/-- Whether a domain's active table holds a SERVO entry (R286). -/
def Domain.servo (x : Domain) : Bool := x.active.entries.any fun e => e.action == 9

/-- The servo set: the TIME domains that hold SERVO entries (R265). -/
def State.servoSet (s : State) : List Nat :=
  (List.range 8).filter fun d => (s.dom d).state != .idle && (s.dom d).source == 0 && (s.dom d).servo

/-- The domains that one correction of a domain moves: the servo set for a member, else the domain alone (R265). -/
def State.together (s : State) (d : Nat) : List Nat := if s.servoSet.contains d then s.servoSet else [d]

/-- A domain whose RATE becomes `rate` at tick `n`, with OFFSET rebased so that its time value runs on (R251). -/
def Domain.slew (x : Domain) (rate : Int) (n : Nat) : Domain :=
  { x with rate := rate, offset := (x.timeVal n * 2 ^ 32 - rate * n) / 2 ^ 32 }

/-- A slew of a domain, or of the whole servo set with it (R264, R265). -/
def State.slew (s : State) (d : Nat) (rate : Int) : State :=
  List.foldl (fun s m => s.setDom m ((s.dom m).slew rate s.time.cnt)) s (s.together d)

/-- The number of entries of a domain that stand in the current period: PCOUNT mod DIV = SEL (R271, R274). -/
def Domain.inPeriod (x : Domain) (e : Entry) : Bool := e.div != 0 && x.pcount.toNat % e.div == e.sel

/-- The entries of the current period that have not fired. -/
def Domain.unfired (x : Domain) : Nat :=
  ((List.range x.active.entries.length).filter fun i =>
    !x.fired.contains i && (match x.active.entries[i]? with | some e => x.inPeriod e | none => false)).length

/-- Entries that do not fire are counted (R261). -/
def State.missed (s : State) (n : Nat) : State :=
  { s with sched := { s.sched with missedCnt := satAdd s.sched.missedCnt n } }

/-- A forward step of a domain has landed on its present phase: what it makes due fires by rows of its own, and the
boundaries it passes are taken by PERIOD_BOUNDARY, which skips whole periods up to here (R261). `mark` sets
TIME_EVENT.STEP, which event catch-up does not. -/
def State.stepTo (s : State) (d : Nat) (mark : Bool) : State :=
  let x := s.dom d
  let s := s.setDom d { x with stepPhi := some (x.phase s.time.cnt) }
  if mark then s.timeEvent 2 d else s

/-! ## Loss and return of a source -/

/-- A domain enters HOLDOVER: φ free-runs at the last estimate, LOST is set, HOLD_CNT rises, and one information event
goes to the supervisor against the owner (R262). -/
def State.holdover (s : State) (d : Nat) : State :=
  let x := s.dom d
  if x.state = .run then
    let x' := { x with state := .holdover, phi := (if x.source = 0 then x.phi else x.phase s.time.cnt), baseTick := s.time.cnt,
                       locked := false, goodEx := 0, holdCnt := satInc x.holdCnt }
    ((s.setDom d x').timeEvent 0 d).raise 0x06 x.owner d
  else s

/-- The discipline's source of a TIME domain is lost: every member of its servo set enters HOLDOVER (R265, R266). -/
def State.loseMaster (s : State) (d : Nat) : State := List.foldl State.holdover s (s.together d)

/-- A domain's overspeed after its estimate has changed: set with one information event above MAX_RATE, cleared below 15/16
of it (R259). MAX_RATE is in phase units per ms, of 500,000 ticks. -/
def State.checkSpeed (s : State) (d : Nat) : State :=
  let x := s.dom d
  let mag : Nat := x.rate.natAbs * 500000
  let lim : Nat := x.maxRate * 2 ^ 48
  if x.source = 0 then s
  else if mag > lim ∧ !x.overspeed then ((s.setDom d { x with overspeed := true }).timeEvent 1 d).raise 0x07 x.owner d
  else if mag * 16 < lim * 15 ∧ x.overspeed then s.setDom d { x with overspeed := false }
  else s

/-- The estimate moved a quarter of the way to an observation, `num` / `den` phase units per tick, rounded to nearest with
ties to even (R258). -/
def estimate (est num : Int) (den : Nat) : Int :=
  -- est + (num 2^48 / den - est) / 4, exactly, over the denominator 4 den
  let den4 : Int := 4 * den
  let top : Int := 3 * est * den + num * 2 ^ 48
  let q : Int := top / den4
  let r : Int := top % den4
  if 2 * r > den4 ∨ (2 * r = den4 ∧ q % 2 = 1) then q + 1 else q

/-- A domain's estimate updated from an observation, and its overspeed judged (R258, R259). -/
def State.observe (s : State) (d : Nat) (num : Int) (den : Nat) : State :=
  if den = 0 then s else
    let x := s.dom d
    (s.setDom d { x with rate := estimate x.rate num den }).checkSpeed d

/-! ## The cycle-table pool, boundaries and swaps -/

/-- The pool tables that hold entries: active, staged, and retired ones of swaps that have not finished (R270, R279). -/
def State.poolTables (s : State) : List PoolTable :=
  (s.time.doms.flatMap fun e => e.2.active :: e.2.staged.toList) ++ s.sched.swaps.flatMap Swap.retired

/-- Pool entries in use. -/
def State.poolUsed (s : State) : Nat := ((s.poolTables.map fun t => t.entries.length).foldl (· + ·) 0)

/-- Whether `n` entries from `base` on are free and inside the pool. -/
def State.poolFree (s : State) (base n : Nat) : Bool :=
  decide (base + n ≤ 4096) && s.poolTables.all fun t => t.entries.length == 0 || base + n ≤ t.base || t.base + t.entries.length ≤ base

/-- The lowest place of the pool at which `n` entries fit (log entry 11). -/
def State.poolFit (s : State) (n : Nat) : Option Nat :=
  (0 :: s.poolTables.map fun t => t.base + t.entries.length).foldl
    (fun best b => if s.poolFree b n then (match best with | none => some b | some a => some (min a b)) else best) none

/-- A swap of a domain at its boundary, where a TBL_SWAP waits for it and its lead has swapped or is this domain (R279):
the staged table becomes active with its Π, SCHED_BANK toggles, and after the last domain the TBL_SWAP is replied to. A boundary in the cycle
in which the TBL_SWAP is accepted is not one of them (R283). -/
def State.swapAt (s : State) (d : Nat) : State :=
  match s.sched.swaps.find? fun w => w.todo.contains d && (w.lead == d || w.leadDone.isSome) && w.cyc != some (s.time.cnt / 2) with
  | none => s
  | some w =>
    let x := s.dom d
    match x.staged with
    | none => s
    | some t =>
      let s := s.setDom d { x with active := t, staged := none }
      let w' := { w with todo := w.todo.erase d, leadDone := (if w.lead = d then some x.pcount else w.leadDone),
                         retired := w.retired ++ [x.active] }
      let rest := s.sched.swaps.erase w
      let s := { s with sched := { s.sched with bank := s.sched.bank ^^^ BitVec.ofNat 8 (2 ^ d),
                                                swaps := (if w'.todo = [] then rest else rest ++ [w']) } }
      match w'.todo, w'.cmd with
      | [], some r => s.complete r stOk [w32 (w'.leadDone.getD 0).toNat]
      | _, _ => s

/-- The period that begins: nothing of it has fired, PCOUNT has moved, and a waiting swap takes effect (R260, R279). -/
def State.newPeriod (s : State) (d : Nat) (origin : Word) : State :=
  let x := s.dom d
  (s.setDom d { x with phiK := origin, pcount := x.pcount + 1, fired := [] }).swapAt d

/-- A restart: the entries of the period that have not fired are counted missed, and a new period begins at `origin` (R261). -/
def State.restart (s : State) (d : Nat) (origin : Word) : State :=
  let x := s.dom d
  ((s.setDom d { x with stepPhi := none }).missed x.unfired).newPeriod d origin

/-- A domain's period boundary is due (R260). -/
def Domain.boundaryDue (x : Domain) (n : Nat) : Bool :=
  decide (x.state = .run ∨ x.state = .holdover) && dueAt (x.phase n) (x.phiK + w32 x.active.period)

/-- Whether an entry of the current period is due and has not fired (R274). -/
def Domain.entryDue (x : Domain) (n i : Nat) : Bool :=
  match x.active.entries[i]? with
  | none => false
  | some e => decide (x.state = .run ∨ x.state = .holdover) && x.inPeriod e && !x.fired.contains i &&
      dueAt (x.phase n) (x.phiK + w32 e.offset)

/-- Whether every due entry of the current period has fired (R274). -/
def Domain.allFired (x : Domain) (n : Nat) : Bool := !(List.range x.active.entries.length).any fun i => x.entryDue n i

/-- A boundary is taken once every due entry of the ending period has fired (R260, R274). A whole period that a step has
crossed does not fire: its entries are counted missed, the period is counted skipped (R261). -/
def State.boundary (s : State) (d : Nat) : State :=
  let x := s.dom d
  if x.boundaryDue s.time.cnt && x.allFired s.time.cnt then
    let s := s.newPeriod d (x.phiK + w32 x.active.period)
    let y := s.dom d
    match y.stepPhi with
    | none => s
    | some p =>
      if dueAt p (y.phiK + w32 y.active.period) then
        let s := s.missed y.unfired
        s.setDom d { s.dom d with fired := List.range y.active.entries.length, skipCnt := satInc y.skipCnt }
      else s.setDom d { y with stepPhi := none }
  else s

/-! ## Slices and template segments (R278) -/

/-- Whether an open slice of a partition still holds a compiled time, given in hub cycles. -/
def State.sliceHolds (s : State) (part cycles : Nat) : Bool :=
  s.sched.slices.any fun x => x.part == part && decide (s.time.cnt < x.endT ∧ s.time.cnt + 2 * cycles ≤ x.endT)

/-! ## Firing and completing entries -/

/-- An entry of a domain's active table with the given action that fires now: it is due, no earlier due entry of the table waits, and the
domain has fired none in this hub cycle (R274). -/
def State.fires (s : State) (d i action : Nat) : Option Entry :=
  let x := s.dom d
  match x.active.entries[i]? with
  | none => none
  | some e =>
    if s.powered && e.action == action && x.entryDue s.time.cnt i && !(List.range i).any (fun j => x.entryDue s.time.cnt j) &&
        x.firedCyc != some (s.time.cnt / 2)
    then some e else none

/-- An entry marked as fired in its period. -/
def State.markFired (s : State) (d i : Nat) : State :=
  let x := s.dom d
  s.setDom d { x with fired := x.fired ++ [i], firedCyc := some (s.time.cnt / 2) }

/-- Whether the owner partition of an entry of domain `d` is drained: then the entry fires and starts nothing (R438). A class 1 entry
starts work again from the domain's next boundary after the resumption (R440). -/
def State.entryDrained (s : State) (d : Nat) (e : Entry) : Bool :=
  maskBit s.pwr.drained e.part ||
    (e.cls == 1 && s.sched.resumed.any fun r => r.1 == e.part && r.2.1 == d && r.2.2 == (s.dom d).pcount)

/-- SCHED_WD_ERR after a violation or an overrun: KIND 0 EARLY, 1 LATE, 2 OVERRUN (R288). -/
def State.wdRecord (s : State) (kind d pool : Nat) (e : Entry) : State :=
  let fields := kind * 2 ^ 28 + (e.stage % 8) * 2 ^ 24 + (d % 8) * 2 ^ 20 + (e.part % 8) * 2 ^ 16 + pool % 4096
  { s.recorded 0xD00018 with sched := { s.sched with wdErr := recWrite s.sched.wdErr fields } }

/-- The ticks of `n` watchdog units of an entry: 64 or 16,384 hub cycles of two ticks each (R271, R276). -/
def wdTicks (e : Entry) (n : Nat) : Nat := n * (if e.wdUnit then 16384 else 64) * 2

/-- An entry's previous start that has not completed. -/
def State.startedOf (s : State) (d i : Nat) : Option Started :=
  s.sched.started.find? fun w => w.d == d && w.pool == (s.dom d).active.base + i

/-- A violation of a class 0 or class 1 entry is reported with its stage and partition (R276, R371). -/
def State.wdViolation (s : State) (kind : Nat) (w : Started) : State :=
  let s := s.wdRecord kind w.d w.pool w.entry
  let s := { s with sched := { s.sched with
    earlyCnt := (if kind = 0 then satInc s.sched.earlyCnt else s.sched.earlyCnt),
    lateCnt := (if kind = 1 then satInc s.sched.lateCnt else s.sched.lateCnt) } }
  if w.entry.cls ≤ 1 then s.raise 0x01 w.entry.part w.pool else s

/-- An overrun: the new start is not made, it is counted, recorded and reported (R275). -/
def State.overrun (s : State) (d i : Nat) (e : Entry) : State :=
  let s := s.wdRecord 2 d ((s.dom d).active.base + i) e
  let s := { s with sched := { s.sched with overrunCnt := satInc s.sched.overrunCnt } }
  s.raise 0x02 e.part ((s.dom d).active.base + i)

/-- A start of an entry, which its watchdog watches from now on (R276). -/
def State.startEntry (s : State) (d i : Nat) (e : Entry) : State :=
  { s with sched := { s.sched with started := s.sched.started ++
    [{ d := d, pool := (s.dom d).active.base + i, index := i, entry := e, firedT := s.time.cnt }] } }

/-- The completion record of an entry (R272): its status, SAFE_STATE in its place for class 1 work of a partition in safe
state (R374), by pool index with the tick. -/
def State.record (s : State) (pool part cls : Nat) (st : Status) : State :=
  let v := (s.recordStatus part cls st, BitVec.ofNat 64 s.time.cnt)
  { s with sched := { s.sched with records := tblInsert (tblErase s.sched.records pool) pool v } }

/-- A started entry completes: a completion before WD_MIN is EARLY (R276), and the record is written. -/
def State.completeEntry (s : State) (w : Started) (st : Status) : State :=
  let s := { s with sched := { s.sched with started := s.sched.started.erase w } }
  let s := s.record w.pool w.entry.part w.entry.cls st
  if w.armed ∧ w.entry.wdMin ≠ 0 ∧ s.time.cnt < w.firedT / 2 * 2 + wdTicks w.entry w.entry.wdMin then s.wdViolation 0 w else s

/-- An entry that fires while its partition is drained starts nothing, and its class 1 record carries SAFE_STATE (R438). -/
def State.drainedRecord (s : State) (d i : Nat) (e : Entry) : State :=
  if e.cls = 1 then
    let v := (stSafe, BitVec.ofNat 64 s.time.cnt)
    let k := (s.dom d).active.base + i
    { s with sched := { s.sched with records := tblInsert (tblErase s.sched.records k) k v } }
  else s

/-- What TASK, SOLVE, LATCH, OUTPUT and GOLDEN entries share when they fire (R275, R438): the entry is marked; one of a
drained partition starts nothing; one whose previous start has not completed overruns; otherwise it starts, and `start`
is what it starts. -/
def State.fireStart (s : State) (d i action : Nat) (start : State → Entry → State) : State :=
  match s.fires d i action with
  | none => s
  | some e =>
    let s := s.markFired d i
    if s.entryDrained d e then s.drainedRecord d i e
    else if (s.startedOf d i).isSome then s.overrun d i e
    else start (s.startEntry d i e) e

/-- A started entry whose work ends in the cycle in which it fires. -/
def State.finishNow (s : State) (d i : Nat) (st : Status) : State :=
  match s.startedOf d i with
  | none => s
  | some w => s.completeEntry w st

end Sys2Proof.Machine
end

