-- ==== Sys2Proof/Machine/Time.lean ====
section
/-! DEFINITION. The rows of the time unit: reads and captures (R285), boundaries (R260), sources and their loss (R257 to
R263), discipline (R264 to R267) and the commands of R284. -/
namespace Sys2Proof.Machine

/-- An outcome of this machine that is a next state. -/
abbrev Out := Host.Outcome State Fault Refusal

/-- TIME_CNT_LO_READ (R285): the high word is captured. -/
def execTimeCntLoRead (t : Nat) (s : State) : Out :=
  let s := s.advance t
  .next (if s.powered then { s with time := { s.time with cntHi := w32 (s.time.cnt / 2 ^ 32) } } else s)

/-- One domain captured at the present tick (R285, R286): its phase and, in a TIME domain, its time value. -/
def State.snap (s : State) (d : Nat) : State :=
  let x := s.dom d
  if x.state = .idle then s.setDom d { x with snapPhase := 0, snapNs := 0, snapSecLo := 0, snapSecHi := 0 } else
    let n := s.time.cnt
    let v := if x.source = 0 then (x.timeVal n).toNat else 0
    let sec := v / 2 ^ 16 / 10 ^ 9
    s.setDom d { x with snapPhase := x.phase n, snapNs := w32 (v / 2 ^ 16 % 10 ^ 9), snapSecLo := w32 sec,
                        snapSecHi := w32 (v % 2 ^ 16 * 2 ^ 16 + sec / 2 ^ 32 % 2 ^ 16) }

/-- TIME_SNAP (R285): the domains of the mask are captured at one tick. -/
def execTimeSnap (t : Nat) (value : Word) (s : State) : Out :=
  let s := s.advance t
  .next (if s.powered then List.foldl (fun s d => if maskBit value d then s.snap d else s) s (List.range 8) else s)

/-- PERIOD_BOUNDARY (R260). -/
def execPeriodBoundary (t d : Nat) (s : State) : Out :=
  let s := s.advance t
  .next (if s.powered then s.boundary d else s)

/-- Whether a domain has been lost in the present cycle: a source event that falls in the same cycle still counts before the loss (R283). -/
def State.lostNow (s : State) (d : Nat) : Bool :=
  (s.dom d).state == .holdover && (tblGet {} s.mark.time.doms d).state == .run

/-- An event of a MAINS or EXTSYNC domain that falls at tick `n` (R257, R263): the first one starts the domain; later ones
carry φ to the next multiple of 65,536; after a loss φ steps forward to such a multiple and the domain returns to RUN. An event in the
cycle of the loss counts, and the loss stands (R283). -/
def State.sourceEvent (s : State) (d n : Nat) : State :=
  let x := s.dom d
  let next := { x with events := x.events + 1, phi := w32 (65536 * (x.events + 1)), baseTick := n, eventTick := n }
  match x.state with
  | .idle => s
  | .acquire => s.setDom d { x with state := .run, phi := 0, phiK := 0, pcount := 0, events := 0, baseTick := n, eventTick := n, fired := [] }
  | .run => ((s.setDom d next).stepTo d false).observe d 65536 (n - x.eventTick)
  | .holdover => if s.lostNow d then ((s.setDom d next).stepTo d false).observe d 65536 (n - x.eventTick) else
    let ph := (x.phase n).toNat
    let k := (ph + 65535) / 65536
    let x' := { x with state := .run, events := k, phi := w32 (65536 * k), baseTick := n, eventTick := n }
    ((s.setDom d x').stepTo d true).observe d 65536 (n - x.eventTick)

/-- The domains that take a source: its code and selector (R253). -/
def State.domsOf (s : State) (source sel : Nat) : List Nat :=
  (List.range 8).filter fun d => (s.dom d).state != .idle && (s.dom d).source == source && (s.dom d).sel == sel

/-- SYNC_IN_EDGE (R257): a rising edge on SYNC_INn is an event of every EXTSYNC domain that takes it. -/
def execSyncInEdge (t n : Nat) (s : State) : Out :=
  let s := s.advance t
  .next (if s.powered && n < 4 then List.foldl (fun s d => s.sourceEvent d t) s (s.domsOf 4 n) else s)

/-- Whether a domain's source is lost now (R262): the ports' own records for ANGLE, LOSS × 524.288 µs without a line start
or an event for LINE, MAINS and EXTSYNC before the present cycle (R283), three missed exchanges under ROLINK. -/
def State.sourceIsLost (s : State) (d : Nat) : Bool :=
  let x := s.dom d
  let last := if (tblGet {} s.mark.time.doms d).state = .run then (tblGet {} s.mark.time.doms d).eventTick else x.eventTick
  let quiet := s.time.cnt ≥ last + x.loss * 262144
  let enc := tblGet {} s.mio.encs x.sel
  match x.source with
  | 0 => x.disc == 2 && x.missedEx ≥ 3
  | 1 => if enc.cfg.toNat % 4 = 2 then enc.fails ≥ 4 else maskBit s.mio.encErr x.sel
  | 2 => quiet || (tblGet {} s.cap.cams x.sel).err
  | _ => quiet

/-- SOURCE_LOST (R262). -/
def execSourceLost (t d : Nat) (s : State) : Out :=
  let s := s.advance t
  .next (if s.powered && s.sourceIsLost d then (if (s.dom d).source = 0 then s.loseMaster d else s.holdover d) else s)

/-- RATE_WINDOW (R258): a window of 2^20 ticks of an ANGLE domain ends. -/
def execRateWindow (t d : Nat) (s : State) : Out :=
  let s := s.advance t
  let x := s.dom d
  .next (if s.powered && x.source == 1 && (x.state == .run || x.state == .acquire) && s.time.cnt ≥ x.winTick + 2 ^ 20 then
    let ph := x.phase s.time.cnt
    (s.setDom d { x with winPhi := ph, winTick := s.time.cnt }).observe d (ph - x.winPhi).toInt (2 ^ 20)
  else s)

/-- A correction of a disciplined TIME domain for an error in units of 2^-16 ns (R264): a step where the error exceeds 1 µs
and the domain holds no SERVO entry, else a slew. The spec bounds a slew's rate by ±500 ppm of 2 and gives no law for it, so
the rate within that range is a free value (log entry 12). -/
def State.correct (s : State) (d : Nat) (err : Int) : State :=
  let x := s.dom d
  if err.natAbs > 1000 * 65536 ∧ !x.servo then
    let s := s.setDom d { x with offset := x.offset - err }
    s.stepTo d true
  else if s.servoSet.contains d && s.servoSet.headD d != d then s
  else
    let (v, s) := s.takeFree 12
    let span : Nat := 2 ^ 49 / 2000
    s.slew d (2 ^ 49 - span + (v % (2 * span + 1) : Nat))

/-- TIME_EXCHANGE (R266): a two-way exchange of a ROLINK domain is missed, finds the master in HOLDOVER, or measures an error. -/
def execTimeExchange (t d : Nat) (result : Exchange) (s : State) : Out :=
  let s := s.advance t
  let x := s.dom d
  .next (if s.powered && x.source == 0 && x.disc == 2 && (x.state == .run || x.state == .holdover) then
    match result with
    | .missed =>
      let s := s.setDom d { x with missedEx := x.missedEx + 1, goodEx := 0 }
      if x.missedEx + 1 ≥ 3 then s.loseMaster d else s
    | .masterHoldover => s.loseMaster d
    | .error e =>
      let good := if e.natAbs ≤ 8 * 65536 then x.goodEx + 1 else 0
      let s := s.setDom d { x with state := .run, missedEx := 0, goodEx := good, locked := x.locked || decide (good ≥ 16) }
      s.correct d e
  else s)

/-- PTP_TIMEOUT (R267): the domains that follow a PTP instance lose their master. -/
def execPtpTimeout (t inst : Nat) (s : State) : Out :=
  let s := s.advance t
  .next (if s.powered then
    List.foldl (fun s d => if (s.dom d).state = .run ∧ (s.dom d).source = 0 ∧ (s.dom d).disc = 3 ∧ (s.dom d).discSel = inst
      then s.loseMaster d else s) s (List.range 8)
  else s)

/-! ## Commands (R284) -/

/-- Whether a context's partition owns a domain. -/
def State.ownsDom (s : State) (c d : Nat) : Bool := (s.dom d).state != .idle && (s.dom d).owner == (s.ctx c).part

/-- The checks of PHASE_READ. -/
def chkPhaseRead (s : State) (p : Packet) : Option Status :=
  if u8 p 16 > 7 ∨ (s.dom (u8 p 16)).state = .idle then some stBadParam else none

/-- PHASE_READ, 0x0601 (R284). -/
def execPhaseRead (c : Nat) (p : Packet) (s : State) : Out :=
  .next (s.command c p 0x0601 (s.ctx c).cls (chkPhaseRead s p) fun s r =>
    let x := s.dom (u8 p 16)
    let ns := if x.source = 0 then (x.ns s.time.cnt).toNat else 0
    s.replyNow r [x.phase s.time.cnt, w32 x.pcount.toNat, w32 (ns % 10 ^ 9), w32 (ns / 10 ^ 9)])

/-- The table of the image that TBL_STAGE names for a domain. -/
def State.stageTable (s : State) (p : Packet) : Option TableCfg :=
  match s.image with
  | none => none
  | some i =>
    if (i.domains.find? fun x => x.d == u8 p 16).elim false fun x => x.tables.contains (u16 p 18) then i.tables[u16 p 18]? else none

/-- Whether a table was admitted with every domain's active table (R279). -/
def State.admitted (s : State) (t : TableCfg) : Bool :=
  (List.range 8).all fun d => match (s.dom d).state, (s.dom d).active.index with
    | .idle, _ => true
    | _, none => true
    | _, some i => t.admitted.contains (d, i)

/-- The checks of TBL_STAGE, in the order of R284. -/
def chkTblStage (s : State) (c : Nat) (p : Packet) : Option Status :=
  if u8 p 16 > 7 then some stBadParam else match s.stageTable p with
    | none => some stBadParam
    | some t =>
      if !s.ownsDom c (u8 p 16) then some stNotAuth
      else if (s.dom (u8 p 16)).staged.isSome || !s.admitted t then some stConflict
      else if (s.poolFit t.entries.length).isNone then some stNoFit
      else none

/-- TBL_STAGE, 0x0602 (R284). -/
def execTblStage (c : Nat) (p : Packet) (s : State) : Out :=
  .next (s.command c p 0x0602 (s.ctx c).cls (chkTblStage s c p) fun s r =>
    match s.stageTable p with
    | none => s
    | some t =>
      let pt : PoolTable := { index := some (u16 p 18), base := (s.poolFit t.entries.length).getD 0, period := t.period, entries := t.entries }
      let s := s.setDom (u8 p 16) { s.dom (u8 p 16) with staged := some pt }
      s.replyNow r [w32 s.poolUsed])

/-- The domains a TBL_SWAP names. -/
def swapDoms (p : Packet) : List Nat := (List.range 8).filter fun d => bitOf (u8 p 16) d

/-- The domains named by TBL_SWAPs whose swap is still pending (R288). -/
def State.swapPending (s : State) (d : Nat) : Bool := s.sched.swaps.any fun w => w.todo.contains d

/-- The checks of TBL_SWAP, in the order of R284. -/
def chkTblSwap (s : State) (c : Nat) (p : Packet) : Option Status :=
  let ds := swapDoms p
  if ds = [] ∨ !ds.contains (u8 p 17) ∨ ds.any (fun d => (s.dom d).staged.isNone) then some stBadParam
  else if !ds.all (fun d => s.ownsDom c d) then some stNotAuth
  else if ds.any fun d => s.swapPending d then some stConflict
  else none

/-- TBL_SWAP, 0x0603 (R279): the swap waits for the boundaries, and the reply for the last swap. -/
def execTblSwap (c : Nat) (p : Packet) (s : State) : Out :=
  .next (s.command c p 0x0603 (s.ctx c).cls (chkTblSwap s c p) fun s r =>
    { s with sched := { s.sched with swaps := s.sched.swaps ++ [{ todo := swapDoms p, lead := u8 p 17, cmd := some r, cyc := some (s.time.cnt / 2) }] } })

/-- A field of a packet as a signed number. -/
def sfield (p : Packet) (a n : Nat) : Int :=
  let v : Nat := pfield p a n
  if v ≥ 2 ^ (8 * n - 1) then (v : Int) - 2 ^ (8 * n) else v

/-- The checks of DOM_ADJ, in the order of R284. -/
def chkDomAdj (s : State) (c : Nat) (p : Packet) : Option Status :=
  let d := u8 p 16
  let x := s.dom d
  if d > 7 ∨ u8 p 17 > 1 ∨ (u8 p 17 = 0 ∧ (sfield p 20 4).natAbs > 500000) then some stBadParam
  else if !(s.together d).all (fun m => s.ownsDom c m) || !s.ownsDom c d then some stNotAuth
  else if x.source ≠ 0 ∨ x.disc ≠ 1 ∨ (u8 p 17 = 1 ∧ x.servo) then some stConflict
  else none

/-- RATE = 2 × (1 + ADJ × 10^-9) in units of 2^-48, rounded to nearest with ties to even (R251, R284). -/
def adjRate (adj : Int) : Int :=
  let top : Int := 2 * (10 ^ 9 + adj) * 2 ^ 48
  let q := top / 10 ^ 9
  let r := top % 10 ^ 9
  if 2 * r > 10 ^ 9 ∨ (2 * r = 10 ^ 9 ∧ q % 2 = 1) then q + 1 else q

/-- DOM_ADJ, 0x0604 (R264, R265, R284). -/
def execDomAdj (c : Nat) (p : Packet) (s : State) : Out :=
  .next (s.command c p 0x0604 (s.ctx c).cls (chkDomAdj s c p) fun s r =>
    let d := u8 p 16
    let s :=
      if u8 p 17 = 0 then s.slew d (adjRate (sfield p 20 4))
      else
        let x := s.dom d
        let s := s.setDom d { x with offset := x.offset + sfield p 24 8 * 2 ^ 16 + (u16 p 32 : Nat) }
        s.stepTo d true
    s.replyNow r)

end Sys2Proof.Machine
end

