-- ==== Sys2Proof/Machine/Array.lean ====
section
/-! DEFINITION. The region arrays, the matrix-vector units and the tile cores (R61 to R99): how a compiled pass starts, loads and strobes its
stationary sets, the requests and changes of the region sequencer, and the halts of tile cores. -/
namespace Sys2Proof.Machine

/-! ## Counts and trips (R44, R52, R53, R61, R64, R70) -/

/-- The counts of results added in a region, with the read cycles of its MVU. -/
def State.addRun (s : State) (k : Nat) (cols : List ColOut) (reads : Nat) : State :=
  let n := runCounts cols
  let x := s.region k
  s.setRegion k { x with ovfCnt := satAdd x.ovfCnt n.1, lossCnt := satAdd x.lossCnt n.2.1, nonfinite := satAdd x.nonfinite n.2.2,
                         mvuBusy := satAdd x.mvuBusy reads }

/-- A trip on record (R70, R71). -/
def tripWord (old : Word) (layer : Nat) (c0 rerun loss ovf : Bool) : Word :=
  let multi := old.toNat % 16 ≠ 0 || old.getLsbD 4
  w32 (layer % 65536 * 65536 + bitAt multi 4 + bitAt c0 3 + bitAt rerun 2 + bitAt loss 1 + bitAt ovf 0)

/-- Whether results trip: by overflow, by loss (R61). -/
def tripOf (d : LayerDesc) (cols : List ColOut) : Bool × Bool :=
  let n := runCounts cols
  (decide (n.1 > 0), decide (n.2.1 > d.lossLimit))

/-- A trip recorded in the lead region, and of class 0 reported as an information event (R64, R70). -/
def State.recordTrip (s : State) (k layer : Nat) (c0 : Bool) (trip : Bool × Bool) (again : Bool) : State :=
  let x := s.region k
  let s := (s.recorded (rgnAddr k + 0x80C)).setRegion k { x with trip := tripWord x.trip layer c0 again trip.2 trip.1 }
  if c0 then s.raise 0x05 (s.partOfPhys k) layer else s

/-! ## The policy's product (R91, R223) -/

/-- The physical region of the image's C0 region. -/
def State.c0Phys (s : State) : Option Nat := (s.image.bind fun i => if i.hasC0 then i.c0Region else none).bind s.physOf

/-- What the MVU of the C0 region computes for a group. -/
def State.policyRun (s : State) (g : Nat) : Option (Nat × List ColOut) := s.c0Phys.bind fun k => match (s.region k).policy with
  | some e => if e.1 = g then some (k, e.2) else none
  | none => none

/-- A group's policy result is missing (R223); a product still under way for it comes to nothing. -/
def State.missPolicy (s : State) (g : Nat) : State :=
  let s := s.setGroup g { s.group g with result := .missing }
  match s.policyRun g with
  | some e => s.setRegion e.1 { s.region e.1 with policy := none }
  | none => s

/-! ## Passes under way -/

/-- One cluster of a region. -/
def Region.cluster (x : Region) (c : Nat) : Cluster := tblGet {} x.clusters c

/-- One cluster of a region changed. -/
def Region.setCluster (x : Region) (c : Nat) (y : Cluster) : Region := { x with clusters := tblSet {} x.clusters c y }

/-- The passes of a region, those of its array first. -/
def Region.all (x : Region) : List RunPass := x.passes ++ x.mvus

/-- Some passes of a region changed. -/
def Region.mapPasses (x : Region) (f : RunPass → RunPass) : Region := { x with passes := x.passes.map f, mvus := x.mvus.map f }

/-- Every pass under way, with its physical region. -/
def State.passes (s : State) : List (Nat × RunPass) := s.cmp.regions.flatMap fun e => e.2.all.map fun p => (e.1, p)

/-- Whether a pass of a piece of work is over: it ran in no region or has ended, and no wide re-run of it is due (R65). -/
def State.passOver (s : State) (key : PassKey) : Bool := !s.passes.any fun e => e.2.key == key

/-- What a pass reads: its window, and the BF16 copy of its layer in the LPDDR of its partition (R65). -/
def State.passIn (s : State) (p : RunPass) : PassIn :=
  { win := fun o => s.spByte (p.sh.base + o), copy := fun o => memGet s.cmp.lp ((s.partCfg p.part).lpBase + p.desc.wideCopy + o) }

/-- Whether bytes of a pass's window are poisoned. -/
def State.winPoisoned (s : State) (p : RunPass) (r : Nat × Nat) : Bool := s.spPoisoned (p.sh.base + r.1) r.2

/-- Poisoned data that a whole pass or step shares (R122, R158): its work completes with ECC_UNCORRECTABLE, and the fault is reported. -/
def State.poisonedPass (s : State) (k : Nat) (p : RunPass) (bad : Bool) : State :=
  if bad then (s.addStatus (some p.key.work) stEcc).faultUnit k else s

/-- Poisoned activations (R122, R137): in a template step they mark their position alone. -/
def State.poisonedActs (s : State) (k : Nat) (p : RunPass) (poss : List Nat) : State :=
  let bad := poss.filter fun pos => s.winPoisoned p (p.actRange pos)
  if p.template then
    let s := List.foldl (fun s pos => s.addPos p.key.work (p.vecs.getD pos 0) stEcc) s bad
    if bad = [] then s else s.faultUnit k
  else s.poisonedPass k p (bad != [])

/-- The bytes of the window that set `w` of a cluster is loaded from: the stored run of each of its columns. -/
def RunPass.setRanges (p : RunPass) (c w : Nat) : List (Nat × Nat) :=
  let (r0, _, g) := p.waveAt c w
  let span := fun k0 n : Nat =>
    if p.desc.mode = 0 then (k0 / 2, (k0 + n + 1) / 2 - k0 / 2) else if p.desc.mode ≤ 4 then (k0, n) else (2 * k0, 2 * n)
  (p.columns c w).map fun j =>
    if p.cfg.backward then
      let e := span r0 (p.rows c w j).length
      (p.sh.weights.getD (512 * g + 128 * c + j) 0 + e.1, e.2)
    else
      let e := span (p.setLen * g) (min p.setLen (p.desc.reduction - p.setLen * g))
      (p.sh.weights.getD (r0 + j) 0 + e.1, e.2)

/-- Whether any weight of a share is poisoned, in its window or in the copy. -/
def State.weightsPoisoned (s : State) (p : RunPass) : Bool :=
  if p.wide.isSome then
    let r := p.copyRange
    s.lpPoisoned ((s.partCfg p.part).lpBase + p.desc.wideCopy + r.1) r.2
  else (shareWeightRanges p.sh p.desc p.cfg.backward).any (s.winPoisoned p)

/-- Whether what a cluster's set is loaded from holds poisoned data. -/
def State.setPoisoned (s : State) (p : RunPass) (c w : Nat) : Bool :=
  if p.wide.isSome then s.weightsPoisoned p else (p.setRanges c w).any (s.winPoisoned p)

/-! ## The port mode (R109) -/

/-- The port modes that the work of a region wants, with whether it has begun under its mode: its passes, and its address-generator and VPU
tasks, which begin as soon as their mode is in force. -/
def State.modeUsers (s : State) (k : Nat) : List (Nat × Bool) :=
  ((s.region k).all.filter RunPass.ready).map (fun p => (p.cfg.portMode, p.began.isSome || p.strobed != [])) ++
    s.cmp.works.filterMap fun w => match w.task with
      | some t => match t.kind with
        | .agen _ => if s.physOf t.lreg = some k then some (t.portMode, decide ((s.port k).portMode = t.portMode)) else none
        | .vpu => if s.physOf t.lreg = some k then some (t.portMode, decide ((s.port k).portMode = t.portMode)) else none
        | _ => none
      | none => none

/-- The first mode that the work of a region wants and that is not in force becomes pending. -/
def State.askMode (s : State) (k : Nat) : State :=
  let x := s.port k
  if x.portPending then s else match (s.modeUsers k).find? fun u => u.1 != x.portMode with
    | some u => s.setPort k { x with portNext := u.1, portPending := true }
    | none => s

/-! ## The shadow feed and the MVU -/

/-- The pass whose next stationary set a cluster loads: the earliest with a set that it has not loaded. The stationary operand of an
activation × activation product is there once the passes are over whose results it takes. -/
def Region.nextLoad (x : Region) (c : Nat) : Option RunPass :=
  match x.passes.find? fun p => decide (tblGet 0 p.loaded c < p.waves c) with
  | some p => if p.ready || p.desc.mode != 7 then some p else none
  | none => none

/-- The shadow feed of a cluster that holds no shadow set begins with the next one, in the cycle after this (R80). -/
def State.loadShadow (s : State) (k c : Nat) : State :=
  let x := s.region k
  let cl := x.cluster c
  if cl.shadow.isSome then s else match x.nextLoad c with
    | none => s
    | some p =>
      let w := tblGet 0 p.loaded c
      let x := x.setCluster c { cl with shadow := some (p.set (s.passIn p) c w), loadCyc := s.cycleOf k + 1, requests := [] }
      let mark := fun q : RunPass => if q.key = p.key then { q with loaded := tblSet 0 q.loaded c (w + 1) } else q
      (s.setRegion k (x.mapPasses mark)).poisonedPass k p (s.setPoisoned p c w)

/-- The first ready product of a region's MVU begins, once its port mode is in force and no other runs (R89, R109). -/
def State.beginMvu (s : State) (k : Nat) : State :=
  let x := s.region k
  if x.mvus.any fun p => p.began.isSome then s else match x.mvus.find? RunPass.ready with
    | none => s
    | some p =>
      if (s.port k).portMode ≠ p.cfg.portMode then s else
        let mark := fun q : RunPass => if q.key = p.key then { q with began := some (s.cycleOf k) } else q
        let s := s.setRegion k { x with mvus := x.mvus.map mark, mvuMode := p.desc.mode }
        if p.isAttn then s else (s.poisonedPass k p (s.weightsPoisoned p)).poisonedActs k p (List.range p.vecs.length)

/-- The window slot of a region's sequencer (64) or MVU (68) holds the window of the first pass that its unit runs (R104). -/
def State.passWin (s : State) (k slot : Nat) (ps : List RunPass) : State := match ps with
  | [] => s
  | p :: _ =>
    let w := s.winOf k slot
    if w.work = some p.key.work ∧ w.base = p.sh.base ∧ w.bound = p.sh.bound then s
    else s.setWin k slot { base := p.sh.base, bound := p.sh.bound, part := p.part, work := some p.key.work }

/-! ## The start of a pass -/

/-- The anchors that a pre-pass writes to the layer's anchor table (R62): those of the pass, in a template step those of its last position
(log entry 203). -/
def State.writeAnchors (s : State) (p : RunPass) : State :=
  ((p.anchors.getLastD []).zipIdx).foldl (fun s a =>
    s.spWrite (p.sh.base + p.desc.anchorTable + 4 * (p.sh.first / 128 + a.2)) (leBytes (BitVec.ofInt 16 a.1).toNat 2)) s

/-- A pass may begin: its anchors are determined, by the pre-pass where they are dynamic (R60, R62), and the region shows its MODE and vector
interval (R98). -/
def State.readyPass (s : State) (k : Nat) (p : RunPass) : State :=
  let q : RunPass := { p with ready := true, anchors := p.anchorRows (s.passIn p) }
  let x := (s.region k).mapPasses fun y => if y.key = p.key then q else y
  let s := s.setRegion k (if p.cfg.onMvu then x else { x with mode := p.desc.mode, interval := p.cfg.interval })
  if p.isAttn then s
  else if p.dynamic then
    let s := s.poisonedActs k p (List.range p.vecs.length)
    if p.wide.isSome then s else s.writeAnchors q
  else s

/-- Whether a pass may begin: those whose results it takes are over, and one that begins a segment of a template finds an open slice whose
time left holds the segment (R278). -/
def State.mayBegin (s : State) (p : RunPass) : Bool :=
  !p.ready && p.cfg.after.all (fun i => s.passOver { p.key with idx := i }) && (match p.template, p.cfg.segment with
    | true, some n => s.sliceHolds p.part n
    | _, _ => true)

/-- What follows from a pass that starts or ends, a strobe, a slice that opens, or a port mode that is applied: the passes that wait for no other
any more may begin, and every region takes what it can of its next sets, products, windows and modes. -/
def State.settle (s : State) : State :=
  let s := List.foldl (fun s e => if s.mayBegin e.2 then s.readyPass e.1 e.2 else s) s s.passes
  List.foldl (fun s k =>
    let s := (List.range 4).foldl (fun s c => s.loadShadow k c) s
    let s := (s.askMode k).beginMvu k
    let x := s.region k
    (s.passWin k 64 x.passes).passWin k 68 x.mvus) s (s.cmp.regions.map Prod.fst)

/-- The passes of a piece of work are given up, and with them the sets that wait in shadow registers. -/
def State.dropPasses (s : State) (id : WorkId) : State :=
  let mine := fun p : RunPass => p.key.work == id
  let clear := fun (c : Cluster) => if c.shadow.any fun z => z.key.work == id then { c with shadow := none, requests := [] } else c
  { s with cmp := { s.cmp with regions := tblMap {} (fun _ (x : Region) =>
    { x with passes := x.passes.filter fun p => !mine p, mvus := x.mvus.filter fun p => !mine p,
             clusters := tblMap {} (fun _ c => clear c) x.clusters }) s.cmp.regions } }

/-- A share of a compiled pass as the region that it names starts it: `poss` are the positions of a template step that the pass serves, none
for a task, whose pass takes every vector of the share. -/
def State.shareOf (s : State) (id : WorkId) (cls part : Nat) (poss : Option (List Nat)) (idx : Nat) (cfg : PassCfg) (i : Nat) : RunPass :=
  let sh := cfg.shares.getD i {}
  let vecs := poss.getD (List.range sh.acts.length)
  let attn := match cfg.use with
    | .attn _ _ => true
    | _ => false
  { key := ⟨id, idx⟩, cfg := cfg, share := i, cls := cls, part := part, vecs := vecs, template := poss.isSome,
    desc := if attn then {} else layerAt (fun o => s.spByte (sh.base + o)) sh.desc sh.first sh.count }

/-- The ranges of its window that a share reads and writes besides its activations, each with its KIND (R125): the descriptor narrow, the
tables, the weights and the results wide. -/
def RunPass.fixedRanges (p : RunPass) : List (Nat × Nat × Nat) :=
  let out := match p.sh.out with
    | some o => if p.isAttn then [] else [(3, o, 4 * p.sh.count * p.vecs.foldl (fun n i => max n (i + 1)) 0)]
    | none => []
  if p.isAttn then out else
    ((shareTableRanges p.sh p.desc).zipIdx.map fun e => (if e.2 = 0 then 0 else 2, e.1)) ++
      (shareWeightRanges p.sh p.desc p.cfg.backward).map (fun e => (2, e)) ++ out

/-- The first of some ranges that does not lie in the window of a pass (R105). -/
def State.badRange (s : State) (p : RunPass) (rs : List (Nat × Nat × Nat)) : Option (Nat × Nat) :=
  (rs.find? fun e => !s.inRange p.sh.base p.sh.bound e.2.1 e.2.2).map fun e => (e.1, e.2.1)

/-- The slot of the unit that runs a pass (R104). -/
def RunPass.slot (p : RunPass) : Nat := if p.cfg.onMvu then 68 else 64

/-- A share put under way in its region, its window checked (R105, log entry 204): a refused access stops its work; one of the activations of
a position of a step makes that position NOT_AUTHORISED (R157). -/
def State.startShare (s : State) (k : Nat) (p : RunPass) : State :=
  match s.badRange p p.fixedRanges with
  | some (kind, off) => (s.refuse k p.slot kind off (some p.key.work) p.cls).dropPasses p.key.work
  | none =>
    let bad := if p.isAttn then [] else (List.range p.vecs.length).filter fun pos => !s.inRange p.sh.base p.sh.bound (p.actRange pos).1 (p.actRange pos).2
    if bad ≠ [] ∧ !p.template then
      (s.refuse k p.slot 2 (p.actRange (bad.headD 0)).1 (some p.key.work) p.cls).dropPasses p.key.work
    else
      let s := List.foldl (fun s pos => (s.boundRecord k p.slot 2 (p.actRange pos).1).addPos p.key.work (p.vecs.getD pos 0) stNotAuth) s bad
      let x := s.region k
      let s := s.setRegion k (if p.cfg.onMvu then { x with mvus := x.mvus ++ [p] } else { x with passes := x.passes ++ [p] })
      s.poisonedPass k p (!p.isAttn && (shareTableRanges p.sh p.desc).any (s.winPoisoned p))

/-- A compiled pass of a piece of work starts on the regions that run it (R20, R61, R68): a descriptor that R47 or R68 refuses gives the work
BAD_PARAM, and nothing of the pass runs. -/
def State.startPass (s : State) (id : WorkId) (cls part : Nat) (poss : Option (List Nat)) (idx : Nat) (cfg : PassCfg) : State :=
  if !(s.workStatus (some id)).usable || poss == some [] then s else
    let shares := (List.range cfg.shares.length).filterMap fun i =>
      let p := s.shareOf id cls part poss idx cfg i
      (s.physOf p.sh.lreg).map fun k => (k, p)
    if shares.any fun e => !e.2.isAttn && (layerBad e.2.desc || codebookBad e.2.desc) then s.addStatus (some id) stBadParam
    else List.foldl (fun s e => if (s.workStatus (some id)).usable then s.startShare e.1 e.2 else s) s shares

/-- The passes of a piece of work, in the order in which they were compiled; `poss` gives the positions that a pass of a step serves. -/
def State.startPasses (s : State) (id : WorkId) (cls part : Nat) (poss : PassCfg → Option (List Nat)) (cfgs : List PassCfg) : State :=
  (List.foldl (fun s e => s.startPass id cls part (poss e.1) e.2 e.1) s cfgs.zipIdx).settle

/-! ## Tile cores and units (R74, R76, R83) -/

/-- The first row and column of a tile of a cluster; of the tile's part of a unit. -/
def tilePlace (tile : Nat) : Nat × Nat := (32 * (tile % 16 / 4), 32 * (tile % 4))

/-- The first row and column of a quarter-tile of a cluster. -/
def quarterPlace (q : Nat) : Nat × Nat :=
  let t := tilePlace (q / 4)
  (t.1 + 16 * (q / 2 % 2), t.2 + 16 * (q % 2))

/-- The first row and column of a unit. -/
def unitPlace : SwapUnit → Nat × Nat
  | .tile t => tilePlace t
  | .quarter q => quarterPlace q

/-- The units that a tile sequences in a fine shape. -/
def swapUnits (shape tile : Nat) : List SwapUnit :=
  if shape = 0 then (List.range 4).map fun i => .quarter (4 * tile + i) else [.tile tile]

/-- The pass of a fine shape whose sequence a tile core runs (R76). -/
def Region.coreMaybe (x : Region) (tile : Nat) : Option RunPass :=
  x.passes.find? fun p => p.ready && decide (p.cfg.shape ≤ 1) && p.unitRuns (tile / 16) 0 (tilePlace tile).1 (tilePlace tile).2

/-- Whether a tile core runs an array sequence or a scalar task (R98): one that has halted runs nothing. -/
def State.coreRuns (s : State) (k tile : Nat) : Bool :=
  let x := s.region k
  !maskBit x.halted tile && ((x.coreMaybe tile).isSome || (s.winOf k tile).work.isSome)

/-- The units of a cluster that hold back the strobe of the set in its shadow registers: those of a fine shape whose tile core still runs a
sequence (R83). -/
def Region.gateUnits (x : Region) (c : Nat) : List SwapUnit := match (x.cluster c).shadow with
  | none => []
  | some z => match x.passes.find? fun p => p.key == z.key with
    | none => []
    | some p =>
      if p.cfg.shape ≥ 2 then [] else
        (((List.range 16).filter fun i => !maskBit x.halted (16 * c + i)).flatMap fun i => swapUnits p.cfg.shape (16 * c + i)).filter fun u =>
          p.unitRuns c z.wave (unitPlace u).1 (unitPlace u).2

/-- Whether every unit of a cluster that runs an array sequence holds its request. -/
def Region.gateReady (x : Region) (c : Nat) : Bool := (x.gateUnits c).all (x.cluster c).requests.contains

/-- SWAP_REQUEST (R83): in a fine shape a tile core posts a swap request for its tile or quarter-tile. -/
def execSwapRequest (d r cluster : Nat) (who : SwapUnit) (s : State) : Out :=
  let k := rkey d r
  let x := s.region k
  let c := x.cluster cluster
  .next (if !s.powered || !s.available k || !(x.gateUnits cluster).contains who || c.requests.contains who then s
    else s.setRegion k (x.setCluster cluster { c with requests := c.requests ++ [who] }))

/-! ## Strobes (R80 to R83) -/

/-- Whether a vector enters a cluster in a cycle. -/
def Cluster.enters (c : Cluster) (n : Nat) : Bool := match c.lastStrobe with
  | none => false
  | some p => decide (p ≤ n) && decide ((n - p) % c.every = 0) && decide ((n - p) / c.every < c.vectors)

/-- Whether a cluster's shadow set is complete (R80, R82). -/
def Cluster.full (c : Cluster) (now : Nat) : Bool := c.shadow.isSome && decide (now ≥ c.loadCyc + 31)

/-- Whether a vector of a cluster is in flight (R84, R98). -/
def Cluster.inFlight (c : Cluster) (lat now : Nat) : Bool := match c.lastStrobe with
  | none => false
  | some p => decide (c.vectors ≠ 0) && decide (p ≤ now ∧ now ≤ p + (c.vectors - 1) * c.every + lat)

/-- Whether the strobe of a cluster can be raised now, but for the direction (R75, R80, R83, R109): its shadow set is complete, the set period
since its previous strobe is over, its pass may begin and has its shape and port mode, and the requests of a fine shape are held. -/
def State.strobeDue (s : State) (k c : Nat) : Bool :=
  let x := s.region k
  let cl := x.cluster c
  let now := s.cycleOf k
  decide (now ≥ cl.loadCyc + 32) && x.gateReady c && decide (now ≥ x.shapeEnd) &&
    (match cl.lastStrobe with
      | none => true
      | some p => decide (now ≥ p + max (cl.vectors * cl.every) 33)) &&
    (match cl.shadow.bind fun z => x.passes.find? fun p => p.key == z.key with
      | none => false
      | some p => p.ready && p.cfg.shape == x.shape && p.cfg.portMode == (s.port k).portMode)

/-- Whether the strobe of these clusters can be raised now: the four together in the REGION shape, and the region has the direction of
each one's pass (R74, R86). -/
def State.mayStrobe (s : State) (k : Nat) (cs : List Nat) : Bool :=
  let x := s.region k
  cs != [] && cs.all (fun c => decide (c < 4)) && (x.shape != 3 || (List.range 4).all cs.contains) && cs.all (s.strobeDue k) &&
    cs.all fun c => match (x.cluster c).shadow.bind fun z => x.passes.find? fun p => p.key == z.key with
      | none => false
      | some p => p.cfg.backward == x.dirBack

/-- One cluster at its strobe (R81): every shadow register is copied to its active register, the banks switch, and the set's vectors enter; their
products go to the feet, and the cycles in which no other cluster takes a vector and the gated cycles are counted (log entry 86). -/
def State.strobeCluster (s : State) (k c : Nat) : State :=
  let x := s.region k
  let cl := x.cluster c
  match cl.shadow with
  | none => s
  | some z => match x.passes.find? fun p => p.key == z.key with
    | none => s
    | some p =>
      let now := s.cycleOf k
      let y := s.passIn p
      let m := p.vectors c z.wave
      let others := ((List.range 4).filter (· != c)).map x.cluster
      let fresh := countIf (fun i => !others.any fun o => o.enters (now + i * p.cfg.interval)) (List.range m)
      let q : RunPass := { p.serve y c z with
        strobed := tblSet 0 p.strobed c (tblGet 0 p.strobed c + 1),
        doneCyc := max p.doneCyc (now + (m - 1) * p.cfg.interval + latency p.cfg.shape p.cfg.backward + 5) }
      let x := x.setCluster c { cl with active := some z, shadow := none, lastStrobe := some now, vectors := m, every := p.cfg.interval, requests := [] }
      let x := { x with passes := x.passes.map (fun o => if o.key = p.key then q else o), busyCyc := satAdd x.busyCyc fresh,
                        gateRow := satAdd x.gateRow (p.gatedRows y c z), gateCells := x.gateCells + p.gatedCells c z }
      (s.setRegion k x).poisonedActs k p (p.positions c z.wave)

/-- A parity fault of a stationary register (R94): it is recorded, the pass completes with ECC_UNCORRECTABLE, and the fault is reported. -/
def State.parityFault (s : State) (k cluster : Nat) (id : Option WorkId) : State :=
  let x := s.region k
  ((s.setRegion k { x with parity := maskSet x.parity cluster }).addStatus id stEcc).faultUnit k

/-- A parity fault of the MVU's code buffer (R94). -/
def State.mvuParityFault (s : State) (k : Nat) (id : Option WorkId) : State :=
  let x := s.region k
  ((s.setRegion k { x with mvuParity := true }).addStatus id stEcc).faultUnit k

/-- SWAP_STROBE (R80 to R83, R94): the clusters' strobe is raised, counted once where the four are ganged, and their next sets begin to load;
a shadow register with bad parity is found as it is copied. -/
def execSwapStrobe (t d r : Nat) (clusters parityBad : List Nat) (s : State) : Out :=
  let s := s.advance t
  let k := rkey d r
  .next (if !s.powered || !s.available k || !s.mayStrobe k clusters then s else
    let cs := (List.range 4).filter clusters.contains
    let owner := fun c => ((s.region k).cluster c).shadow.map fun z => z.key.work
    let bad := (cs.filter parityBad.contains).map fun c => (c, owner c)
    let s := cs.foldl (fun s c => s.strobeCluster k c) s
    let x := s.region k
    let s := s.setRegion k { x with swapCnt := satAdd x.swapCnt (if x.shape = 3 then 1 else cs.length) }
    (List.foldl (fun s e => s.parityFault k e.1 e.2) s bad).settle)

/-! ## Shape and direction (R75, R86) -/

/-- Whether a cluster's feet have delivered the results of its latest vector (R84). -/
def Cluster.delivered (c : Cluster) (lat now : Nat) : Bool := match c.lastStrobe with
  | none => true
  | some p => decide (now > p + (c.vectors - 1) * c.every + lat + 5)

/-- Whether a pass has begun and has sets left to strobe. -/
def RunPass.midway (p : RunPass) : Bool := p.strobed != [] && (List.range 4).any fun c => decide (tblGet 0 p.strobed c < p.waves c)

/-- SHAPE_CHANGE (R75): with no vector inside the array and every foot's results delivered, the region takes another shape; the change lasts
8 cycles. -/
def execShapeChange (d r : Nat) (shape : ShapeReq) (s : State) : Out :=
  let s := s.advance shape.t
  let k := rkey d r
  let x := s.region k
  let now := s.cycleOf k
  .next (if s.powered && s.available k && decide (shape.shape < 4) && !x.passes.any RunPass.midway && decide (now ≥ x.shapeEnd) &&
      (List.range 4).all fun c => (x.cluster c).delivered (latency x.shape x.dirBack) now
    then s.setRegion k { x with shape := shape.shape, shapeEnd := now + 8 } else s)

/-- DIRECTION_CHANGE (R85, R86): only in the REGION shape for the backward direction, and only in the cycle of a strobe or after L cycles
without a vector. -/
def execDirectionChange (d r : Nat) (backward : DirReq) (s : State) : Out :=
  let s := s.advance backward.t
  let k := rkey d r
  let x := s.region k
  let now := s.cycleOf k
  let strobeNow := (x.cluster 0).lastStrobe == some now || (List.range 4).all (s.strobeDue k)
  let quiet := (List.range 4).all fun c => match (x.cluster c).lastStrobe with
    | none => true
    | some p => decide (now ≥ p + ((x.cluster c).vectors - 1) * (x.cluster c).every + latency x.shape x.dirBack)
  .next (if s.powered && s.available k && (!backward.backward || x.shape == 3) && (strobeNow || quiet)
    then s.setRegion k { x with dirBack := backward.backward } else s)

/-! ## Halts of tile cores -/

/-- The status of a halt (R95). -/
def haltStatus : HaltCause → Status
  | .illegal => stDataError
  | .localEcc => stEcc
  | .refused => stNotAuth

/-- A tile core halts (R83, R95): its fault bit is set, its units leave their cluster's swap gate, and the work it ran is abandoned with the
status of the halt: in a fine shape the compiled pass whose sequence it ran, otherwise the scalar task in its window. -/
def State.haltCore (s : State) (k tile : Nat) (cause : HaltCause) : State :=
  let x := s.region k
  let c := tile / 16
  let drop := swapUnits 0 tile ++ swapUnits 1 tile
  let cl := x.cluster c
  let id := match x.coreMaybe tile with
    | some p => some p.key.work
    | none => (s.winOf k tile).work
  let x := x.setCluster c { cl with requests := cl.requests.filter fun u => !drop.contains u }
  let s := s.setRegion k { x with tcoreFault := maskSet x.tcoreFault tile, halted := maskSet x.halted tile }
  ((s.stopWin k tile).addStatus id (haltStatus cause)).faultUnit k

/-- TILE_CORE_HALT (R95). -/
def execTileCoreHalt (t d r tile : Nat) (cause : HaltCause) (s : State) : Out :=
  let s := s.advance t
  let k := rkey d r
  .next (if s.powered && s.available k && decide (tile < 64) && !maskBit (s.region k).halted tile then s.haltCore k tile cause else s)

/-! ## Clears of the region registers (R70, R98, R125, R448) -/

/-- A host write of an enabled region's registers; the block of a region that the grade does not enable ignores writes (R481). -/
def State.rgnWrite (s : State) (k : Nat) (f : Region → Region → Region) : State :=
  if s.enabled k then s.hostWrite fun w x =>
    { x with cmp := { x.cmp with regions := tblUpd {} x.cmp.regions k (f (tblGet {} w.cmp.regions k)) } }
  else s

/-- The same for its scratchpad and droop registers. -/
def State.portWrite (s : State) (k : Nat) (f : RegionSp → RegionSp → RegionSp) : State :=
  if s.enabled k then s.hostWrite fun w x => { x with cmp := { x.cmp with ports := tblUpd {} x.cmp.ports k (f (tblGet {} w.cmp.ports k)) } }
  else s

/-- RGN_NUM_CLEAR.NONFINITE. -/
def execRgnNumClearNonfinite (d r : Nat) (s : State) : Out :=
  .next (s.rgnWrite (rkey d r) fun w x => { x with nonfinite := sinceMark w.nonfinite x.nonfinite })
/-- RGN_NUM_CLEAR.RERUN. -/
def execRgnNumClearRerun (d r : Nat) (s : State) : Out :=
  .next (s.rgnWrite (rkey d r) fun w x => { x with rerunCnt := sinceMark w.rerunCnt x.rerunCnt })
/-- RGN_NUM_CLEAR.ANCHOR. -/
def execRgnNumClearAnchor (d r : Nat) (s : State) : Out :=
  .next (s.rgnWrite (rkey d r) fun w x => { x with ovfCnt := sinceMark w.ovfCnt x.ovfCnt, lossCnt := sinceMark w.lossCnt x.lossCnt })
/-- RGN_ARRAY_CLEAR.GATE. -/
def execRgnArrayClearGate (d r : Nat) (s : State) : Out :=
  .next (s.rgnWrite (rkey d r) fun w x => { x with gateRow := sinceMark w.gateRow x.gateRow, gateCells := sinceNat w.gateCells x.gateCells })
/-- RGN_ARRAY_CLEAR.BUSY. -/
def execRgnArrayClearBusy (d r : Nat) (s : State) : Out :=
  .next (s.rgnWrite (rkey d r) fun w x => { x with busyCyc := sinceMark w.busyCyc x.busyCyc, mvuBusy := sinceMark w.mvuBusy x.mvuBusy })
/-- RGN_ARRAY_CLEAR.SWAP. -/
def execRgnArrayClearSwap (d r : Nat) (s : State) : Out :=
  .next (s.rgnWrite (rkey d r) fun w x => { x with swapCnt := sinceMark w.swapCnt x.swapCnt })
/-- RGN_SP_CLEAR.XFER. -/
def execRgnSpClearXfer (d r : Nat) (s : State) : Out :=
  .next (s.portWrite (rkey d r) fun w x => { x with xferDone := sinceMark w.xferDone x.xferDone, agenDone := sinceMark w.agenDone x.agenDone })
/-- RGN_SP_CLEAR.ECC. -/
def execRgnSpClearEcc (d r : Nat) (s : State) : Out :=
  .next (s.portWrite (rkey d r) fun w x => { x with eccCe := sinceMark w.eccCe x.eccCe })
/-- RGN_SP_CLEAR.BOUND. -/
def execRgnSpClearBound (d r : Nat) (s : State) : Out :=
  .next (s.portWrite (rkey d r) fun w x => { x with boundCnt := sinceMark w.boundCnt x.boundCnt })
/-- RGN_DROOP_CLEAR.CYC. -/
def execRgnDroopClearCyc (d r : Nat) (s : State) : Out :=
  .next (s.portWrite (rkey d r) fun w x => { x with
    stretchCyc := sinceMark (w.cycCount (s.time.cnt / 2 * 2)) (x.cycCount s.time.cnt), dropCyc := x.runCyc s.time.cnt })
/-- RGN_DROOP_CLEAR.CNT. -/
def execRgnDroopClearCnt (d r : Nat) (s : State) : Out :=
  .next (s.portWrite (rkey d r) fun w x => { x with droopCnt := sinceMark w.droopCnt x.droopCnt })

end Sys2Proof.Machine
end

