-- ==== Sys2Proof/Machine/Sync.lean ====
section
/-! DEFINITION. The synchronisation commands (R306, R314 to R320), the timeout of a wait (R319) and a signal from another
package (R313). -/
namespace Sys2Proof.Machine

/-- The number of a counter state (R324). -/
def CounterState.code : CounterState → Nat
  | .free => 0
  | .live => 1
  | .abandoned => 2

/-- SYNC_VALUE of a counter (R324). -/
def State.syncValue (s : State) (k : Nat) : Word := w32 (s.counter k).value

/-- SYNC_STATE of a counter (R324). -/
def State.syncState (s : State) (k : Nat) : Word :=
  let x := s.counter k
  w32 (countIf (fun w : Wait => w.counter == k) s.sync.waits * 2 ^ 19 + (x.part % 8) * 2 ^ 16 + (x.owner % 64) * 2 ^ 8 +
    bitAt x.image 4 + x.state.code)

/-- What a context's translation table gives for a VID (R316). -/
def State.vid (s : State) (c v : Nat) : Option MapEntry :=
  if v ≥ 1024 then none else ((s.ctx c).vids.find? fun m => m.1 == v).map Prod.snd

/-- The lowest-numbered FREE counter (log entry 13); the table lists the others. -/
def lowestFree : Nat → Tbl Counter → Nat
  | k, [] => k
  | k, (j, _) :: rest => if j = k then lowestFree (k + 1) rest else k

/-- The checks of SYNC_CREATE. -/
def chkSyncCreate (s : State) (c : Nat) (p : Packet) : Option Status :=
  if u16 p 16 ≥ 1024 ∨ (s.vid c (u16 p 16)).isSome ∨ u32 p 20 > counterMax then some stBadParam
  else if lowestFree 0 s.sync.counters ≥ 16384 then some stBusy
  else none

/-- SYNC_CREATE, 0x0501. -/
def execSyncCreate (c : Nat) (p : Packet) (s : State) : Out :=
  .next (s.command c p 0x0501 (s.ctx c).cls (chkSyncCreate s c p) fun s r =>
    let k := lowestFree 0 s.sync.counters
    let x := s.ctx c
    let s := s.setCounter k { state := .live, value := u32 p 20, owner := c, part := x.part }
    let s := s.setCtx c { x with vids := tblInsert x.vids (u16 p 16) { counter := k, sig := true, wait := true } }
    s.replyNow r [w32 k])

/-- The checks of SYNC_MAP (R316). -/
def chkSyncMap (s : State) (c : Nat) (p : Packet) : Option Status :=
  let k := u16 p 20
  if u16 p 16 ≥ 1024 ∨ (s.vid c (u16 p 16)).isSome ∨ k ≥ 16384 ∨ (s.counter k).state = .free then some stBadParam
  else if (s.counter k).part ≠ (s.ctx c).part then some stNotAuth
  else none

/-- SYNC_MAP, 0x0502. -/
def execSyncMap (c : Nat) (p : Packet) (s : State) : Out :=
  .next (s.command c p 0x0502 (s.ctx c).cls (chkSyncMap s c p) fun s r =>
    let x := s.ctx c
    let m : MapEntry := { counter := u16 p 20, sig := bitOf (u8 p 22) 0, wait := bitOf (u8 p 22) 1 }
    let s := s.setCtx c { x with vids := tblInsert x.vids (u16 p 16) m }
    s.replyNow r)

/-- Whether a context has a pending wait on a counter (R317). -/
def State.waitsOn (s : State) (c k : Nat) : Bool :=
  s.sync.waits.any fun w => w.counter == k && (match w.who with | .cmd r => r.ctx == c | _ => false)

/-- The checks of SYNC_UNMAP. -/
def chkSyncUnmap (s : State) (c : Nat) (p : Packet) : Option Status :=
  match s.vid c (u16 p 16) with
  | none => some stBadParam
  | some m => if s.waitsOn c m.counter then some stConflict else none

/-- SYNC_UNMAP, 0x0503 (R317, R318). -/
def execSyncUnmap (c : Nat) (p : Packet) (s : State) : Out :=
  .next (s.command c p 0x0503 (s.ctx c).cls (chkSyncUnmap s c p) fun s r => (s.dropMapping c (u16 p 16)).replyNow r)

/-- Whether an amount lies from 1 to 65,535. -/
def amountOk (n : Nat) : Bool := 1 ≤ n && n ≤ 65535

/-- The checks of SYNC_SIGNAL: R306's order, with the overflow of R314 under BAD_PARAM. -/
def chkSyncSignal (s : State) (c : Nat) (p : Packet) : Option Status :=
  match s.vid c (u16 p 16) with
  | none => some stBadParam
  | some m =>
    let x := s.counter m.counter
    if !amountOk (u32 p 20) || decide (x.value + u32 p 20 > counterMax) then some stBadParam
    else if !m.sig then some stNotAuth
    else if x.state ≠ .live then some stOwnerLost
    else none

/-- SYNC_SIGNAL, 0x0504 (R314): the grants it enables follow in the same cycle, and the reply carries the value after them. -/
def execSyncSignal (c : Nat) (p : Packet) (s : State) : Out :=
  .next (s.command c p 0x0504 (s.ctx c).cls (chkSyncSignal s c p) fun s r =>
    match s.vid c (u16 p 16) with
    | none => s
    | some m =>
      let s := s.expireWaits m.counter
      let v := (s.counter m.counter).value + u32 p 20
      let s := (s.signal m.counter (u32 p 20)).1
      s.replyNow r [w32 v])

/-- The checks of SYNC_WAIT; 4,096 waits in all, the compiled ones reserved (R315). -/
def chkSyncWait (s : State) (c : Nat) (p : Packet) : Option Status :=
  match s.vid c (u16 p 16) with
  | none => some stBadParam
  | some m =>
    if !amountOk (u32 p 20) then some stBadParam
    else if !m.wait then some stNotAuth
    else if (s.counter m.counter).state ≠ .live then some stOwnerLost
    else if countIf (fun w => match w.who with | .cmd _ => true | _ => false) s.sync.waits + s.sync.reserved ≥ 4096 then some stBusy
    else none

/-- SYNC_WAIT, 0x0505 (R315): the wait takes its place, and is granted at once where it is the head and the counter can pay. -/
def execSyncWait (c : Nat) (p : Packet) (s : State) : Out :=
  .next (s.command c p 0x0505 (s.ctx c).cls (chkSyncWait s c p) fun s r =>
    match s.vid c (u16 p 16) with
    | none => s
    | some m =>
      ((s.expireWaits m.counter).register m.counter (u32 p 20) (ctxRank c 0) (.cmd r)).grants m.counter)

/-- SYNC_WAIT_TIMEOUT (R319): a wait whose deadline is due leaves the queue with TIMEOUT, and the wait behind it is tested. -/
def execSyncWaitTimeout (t c : Nat) (tag : Word) (s : State) : Out :=
  let s := s.advance t
  .next (match s.sync.waits.find? fun w => (match w.who with
      | .cmd r => r.ctx == c && r.tag == tag && s.deadlineDue r.deadline
      | _ => false) with
    | none => s
    | some w =>
      let s := { s with sync := { s.sync with waits := s.sync.waits.erase w, timeoutCnt := satInc s.sync.timeoutCnt } }
      let s := match w.who with
        | .cmd r => s.complete r stTimeout
        | _ => s
      s.grants w.counter)

/-- The checks of SYNC_TAKE (R314). -/
def chkSyncTake (s : State) (c : Nat) (p : Packet) : Option Status :=
  match s.vid c (u16 p 16) with
  | none => some stBadParam
  | some m =>
    if !amountOk (u32 p 20) then some stBadParam
    else if !m.wait then some stNotAuth
    else if (s.counter m.counter).state ≠ .live then some stOwnerLost
    else none

/-- SYNC_TAKE, 0x0506 (R314): `n` is removed at once, or the command is refused with SYNC_UNDERFLOW, which is counted. -/
def execSyncTake (c : Nat) (p : Packet) (s : State) : Out :=
  .next (s.command c p 0x0506 (s.ctx c).cls (chkSyncTake s c p) fun s r =>
    match s.vid c (u16 p 16) with
    | none => s
    | some m =>
      let s := s.expireWaits m.counter
      let x := s.counter m.counter
      if x.value ≥ u32 p 20 then
        (s.setCounter m.counter { x with value := x.value - u32 p 20 }).replyNow r [w32 (x.value - u32 p 20)]
      else
        let s := { s with sync := { s.sync with underflowCnt := satInc s.sync.underflowCnt } }
        s.complete r stUnderflow)

/-- The checks of SYNC_INIT (R316 to R318). -/
def chkSyncInit (s : State) (c : Nat) (p : Packet) : Option Status :=
  match s.vid c (u16 p 16) with
  | none => some stBadParam
  | some m =>
    if u32 p 20 > counterMax then some stBadParam
    else if !(m.sig && m.wait) then some stNotAuth
    else if (s.counter m.counter).image || decide ((s.counter m.counter).state ≠ .abandoned) then some stConflict
    else none

/-- SYNC_INIT, 0x0507 (R318): an ABANDONED counter returns to LIVE under its new owner. -/
def execSyncInit (c : Nat) (p : Packet) (s : State) : Out :=
  .next (s.command c p 0x0507 (s.ctx c).cls (chkSyncInit s c p) fun s r =>
    match s.vid c (u16 p 16) with
    | none => s
    | some m =>
      let x := s.counter m.counter
      (s.setCounter m.counter { x with state := .live, value := u32 p 20, owner := c }).replyNow r)

/-- The checks of SYNC_QUERY. -/
def chkSyncQuery (s : State) (c : Nat) (p : Packet) : Option Status :=
  if (s.vid c (u16 p 16)).isNone then some stBadParam else none

/-- SYNC_QUERY, 0x0508. -/
def execSyncQuery (c : Nat) (p : Packet) (s : State) : Out :=
  .next (s.command c p 0x0508 (s.ctx c).cls (chkSyncQuery s c p) fun s r =>
    match s.vid c (u16 p 16) with
    | none => s
    | some m => s.replyNow r [s.syncValue m.counter, s.syncState m.counter])

/-- ROLINK_COUNTER_SIGNAL (R313): a signal of another package's work lands on a package counter, and the grants follow. A
sum beyond 2^31 - 1 leaves the counter at its end (R314); a counter that is not LIVE is unchanged (R318). -/
def execRolinkCounterSignal (t _pkg _part counter n : Nat) (s : State) : Out :=
  let s := s.advance t
  .next (if s.powered then
    match (s.expireWaits counter).signal counter n with
    | (s', st) =>
      if st = stBadParam then (s'.setCounter counter { s'.counter counter with value := counterMax }).grants counter else s'
  else s)

end Sys2Proof.Machine
end

