-- ==== Sys2Proof/Machine/Session.lean ====
section
/-! DEFINITION. The rows of the command processor that touch no other block: writing replies (R300 to R302), BUSY and
TIMEOUT of queued commands (R299, R310), the load window (R312), and the session commands that only read or suspend. -/
namespace Sys2Proof.Machine

/-- The number of a context state (R290). -/
def CtxState.code : CtxState → Nat
  | .detached => 0
  | .attached => 1
  | .suspended => 2
  | .error => 3

/-- CMD_Cc_STATE (R322). -/
def State.ctxStateWord (s : State) (c : Nat) : Word :=
  let x := s.ctx c
  w32 (x.err % 4 * 2 ^ 24 + x.part % 8 * 2 ^ 20 + (if x.state = .detached then 0 else x.cls % 4) * 2 ^ 16 + x.func % 128 * 2 ^ 8 + x.state.code)

/-- CMD_Cc_COUNT (R322). -/
def State.ctxCountWord (s : State) (c : Nat) : Word :=
  w32 ((s.ctx c).fetched.toNat * 2 ^ 16 + (s.ctx c).inflight.length % 512)

/-- The 32 bytes of a reply (R300). -/
def Reply.bytes (r : Reply) : List Byte :=
  leBytes r.tag.toNat 4 ++ leBytes r.status.toNat 2 ++ leBytes r.aux.toNat 2 ++ leBytes (r.cls % 4 * 2 ^ 30 + r.stamp.toNat) 4 ++
    wordBytes ((List.range 5).map fun i => r.result.getD i 0)

/-- REPLY_WRITE (R301): the oldest completed reply of a context is written at RPL_PI when its ring has room by the RPL_CI
the host has left, then RPL_PI; a packet with IRQ raises the context's vector once, but none for a firmware function. A
write that fails puts the context into ERROR (R302). -/
def execReplyWrite (t c : Nat) (rplCi : Word) (ok : Bool) (s : State) : Out :=
  let s := s.advance t
  let x := s.ctx c
  .next (match x.replies with
    | [] => s
    | r :: rest =>
      if !s.powered || x.state == .detached then s
      else if !ok || s.ctxDead c then s.ctxError c 3
      else if (x.rplPi - rplCi).toNat ≥ 2 ^ x.rplLog2 then s
      else
        let s := s.writeFunc x.func (x.rplRing + x.rplPi.toNat % 2 ^ x.rplLog2 * 32) r.bytes
        let s := s.writeFunc x.func (x.rcb + 8) (leBytes (x.rplPi + 1).toNat 4)
        let s := s.setCtx c { x with replies := rest, rplPi := x.rplPi + 1,
                                     inflight := (match r.uid with | some u => x.inflight.erase u | none => x.inflight) }
        if r.irq && !firmwareFunc x.func then
          { s with cmd := { s.cmd with msix := tblUpd 0 s.cmd.msix (x.func * 4096 + x.vector) (· + 1) } }
        else s)

/-- BUSY_AGE_EXPIRE (R310): a command that has waited in a pending queue for longer than BUSY_AGE is answered BUSY. The
commands of the control queue are never answered BUSY (R311). -/
def execBusyAgeExpire (t c : Nat) (tag : Word) (s : State) : Out :=
  let s := s.advance t
  .next (match s.cmd.queue.find? fun q => q.cmd.ctx == c && q.cmd.tag == tag && s.aged q with
    | none => s
    | some q => ({ s with cmd := { s.cmd with queue := s.cmd.queue.erase q } }).complete q.cmd stBusy)

/-- COMMAND_DEADLINE_EXPIRE (R299): a command that has not started by its deadline is answered TIMEOUT. -/
def execCommandDeadlineExpire (t c : Nat) (tag : Word) (s : State) : Out :=
  let s := s.advance t
  .next (match s.cmd.queue.find? fun q => q.cmd.ctx == c && q.cmd.tag == tag && s.deadlineDue q.cmd.deadline with
    | none => s
    | some q => ({ s with cmd := { s.cmd with queue := s.cmd.queue.erase q } }).complete q.cmd stTimeout)

/-- The pending queues: one for each partition and each of class 2 and class 3. -/
def queueKeys : List (Nat × Nat) := (List.range 8).flatMap fun p => [(p, 2), (p, 3)]

/-- LOAD_WINDOW (R312): a window of 1.024 ms ends with a measured load; decimation doubles under load and halves without it. -/
def execLoadWindow (t load : Nat) (s : State) : Out :=
  let s := s.advance t
  .next (if s.powered then
    let fill := queueKeys.foldl (fun m k => max m (s.queueLen k.1 k.2 * 100 / max 1 (s.qmax k.1 k.2))) 0
    let heavy := load > 90 || queueKeys.any fun k => decide (4 * s.queueLen k.1 k.2 > 3 * s.qmax k.1 k.2)
    let light := load < 60 && queueKeys.all fun k => decide (2 * s.queueLen k.1 k.2 < s.qmax k.1 k.2)
    let dec := if heavy then min 4 (s.cmd.decim + 1) else if light then s.cmd.decim - 1 else s.cmd.decim
    { s with cmd := { s.cmd with load := min load 100, qfill := min fill 100, decim := dec } }
  else s)

/-- BOOT_RCB_WRITE (R292): stored while context 0 is DETACHED, otherwise discarded with BOOT_REFUSED. -/
def execBootRcbWrite (hi : Bool) (value : Word) (s : State) : Out :=
  .next (if !s.powered then s
    else if (s.ctx 0).state ≠ .detached then { s with cmd := { s.cmd with bootRefused := true } }
    else
      let old := s.cmd.bootRcb.toNat
      let v := if hi then value.toNat * 2 ^ 32 + old % 2 ^ 32 else old / 2 ^ 32 * 2 ^ 32 + value.toNat / 64 * 64
      { s with cmd := { s.cmd with bootRcb := BitVec.ofNat 64 v } })

/-- The context a session command names. -/
def sessCtx (p : Packet) : Nat := u8 p 16

/-- The first two checks of R307, with the range of context numbers. -/
def chkSession (c : Nat) (p : Packet) : Option Status :=
  if c ≠ 0 then some stNotAuth else if sessCtx p = 0 ∨ sessCtx p > 63 then some stBadParam else none

/-- CTX_SUSPEND, 0x0104 (R303): from ATTACHED to SUSPENDED; in another state nothing changes. -/
def execCtxSuspend (c : Nat) (p : Packet) (s : State) : Out :=
  .next (s.command c p 0x0104 (s.ctx c).cls (chkSession c p) fun s r =>
    let x := s.ctx (sessCtx p)
    (if x.state = .attached then s.setCtx (sessCtx p) { x with state := .suspended } else s).replyNow r)

/-- CTX_RESUME, 0x0105 (R303): from SUSPENDED to ATTACHED; in another state nothing changes. -/
def execCtxResume (c : Nat) (p : Packet) (s : State) : Out :=
  .next (s.command c p 0x0105 (s.ctx c).cls (chkSession c p) fun s r =>
    let x := s.ctx (sessCtx p)
    (if x.state = .suspended then s.setCtx (sessCtx p) { x with state := .attached } else s).replyNow r)

/-- The checks of CTX_QUERY (R307). -/
def chkCtxQuery (c : Nat) (p : Packet) : Option Status :=
  if sessCtx p > 63 then some stBadParam else if c ≠ 0 ∧ sessCtx p ≠ c then some stNotAuth else none

/-- CTX_QUERY, 0x0106. -/
def execCtxQuery (c : Nat) (p : Packet) (s : State) : Out :=
  .next (s.command c p 0x0106 (s.ctx c).cls (chkCtxQuery c p) fun s r =>
    s.replyNow r [s.ctxStateWord (sessCtx p), s.ctxCountWord (sessCtx p)])

/-- NOP, 0x0107. -/
def execNop (c : Nat) (p : Packet) (s : State) : Out :=
  .next (s.command c p 0x0107 (s.ctx c).cls none fun s r => s.replyNow r)

end Sys2Proof.Machine
end

