-- ==== Sys2Proof/Machine/Supervisor.lean ====
section
/-! DEFINITION. The rows of the safety supervisor (R369 to R395): monitors and direct inputs, self-test, golden frames and
the safety commands. -/
namespace Sys2Proof.Machine

/-- An event of the supervisor itself, after which HEARTBEAT is held low (R369, R377). -/
def State.supervisorFault (s : State) : State :=
  let s := s.raise 0x17 0xFF 0
  { s with safe := { s.safe with hbRun := false, heartbeat := false } }

/-- ALIVE_TIMEOUT (R369): channel B drops SAFE_OUT_B and raises event 0x17. -/
def execAliveTimeout (t : Nat) (s : State) : Out :=
  let s := s.advance t
  .next (if s.powered then ({ s with safe := { s.safe with outB := false } }).supervisorFault else s)

/-- CHANNEL_DISAGREE (R371). -/
def execChannelDisagree (t : Nat) (s : State) : Out :=
  let s := s.advance t
  .next (if s.powered then s.supervisorFault else s)

/-- SCHED_FAULT (R27, R371). -/
def execSchedFault (t : Nat) (s : State) : Out :=
  let s := s.advance t
  .next (if s.powered then s.raise 0x11 0xFF 0 else s)

/-- SAFE_IN_LOW (R378, R390): the pin is ignored until the first image load (R376) and while SAFE_IN_EN is 0; in SAFE_HOLD the event
is logged only. -/
def execSafeInLow (t : Nat) (s : State) : Out :=
  let s := s.advance t
  .next (if !s.powered then s else
    let s := { s with safe := { s.safe with safeIn := false } }
    if s.glob.safeHold then s.logEvent 0x15 2 0xFF 0
    else if s.safe.armed && s.safe.safeInEn then s.raise 0x15 0xFF 0
    else s)

/-- HEARTBEAT_TOGGLE (R377): HEARTBEAT changes level while it runs: from HUB_READY on, not in SAFE_HOLD, not after 0x17. -/
def execHeartbeatToggle (t : Nat) (s : State) : Out :=
  let s := s.advance t
  .next (if s.powered && s.safe.hbRun && s.glob.hubReady && !s.glob.safeHold
    then { s with safe := { s.safe with heartbeat := !s.safe.heartbeat } } else s)

/-- CLOCK_MONITOR_TRIP (R427): event 0x12, and PWR_CLK_STATUS follows a lost lock. -/
def execClockMonitorTrip (t : Nat) (clk : ClockId) (lockLost : Bool) (s : State) : Out :=
  let s := s.advance t
  .next (if !s.powered then s else
    let k := match clk with
      | .xtal => 0
      | .refclk100 => 1
      | .hubPll => 2
      | .diePll => 3
      | .serdesPll => 4
    let s := { s with pwr := { s.pwr with
      clkHub := s.pwr.clkHub && !(lockLost && k == 2), clkDie := s.pwr.clkDie && !(lockLost && k == 3),
      clkSerdes := s.pwr.clkSerdes && !(lockLost && k == 4) } }
    s.raise 0x12 0xFF k)

/-- The monitor window of a rail in mV × 100 (R424). -/
def State.railWindow (s : State) : Nat → Nat × Nat
  | 0 => (s.glob.vtrim0 * 90, s.glob.vtrim0 * 106)
  | 1 => (s.glob.vtrim1 * 90, s.glob.vtrim1 * 106)
  | 2 => (71250, 78750)
  | 3 => (71250, 78750)
  | 4 => (114000, 126000)
  | 5 => (99750, 110250)
  | 6 => (85500, 94500)
  | 7 => (47500, 52500)
  | 8 => (162000, 198000)
  | _ => (297000, 363000)

/-- VOLTAGE_MONITOR_TRIP (R424, R429): a rail outside its window raises event 0x13. -/
def execVoltageMonitorTrip (t rail millivolts : Nat) (s : State) : Out :=
  let s := s.advance t
  let w := s.railWindow rail
  .next (if s.powered && (millivolts * 100 < w.1 || millivolts * 100 > w.2) then s.raise 0x13 0xFF rail else s)

/-- TEMPERATURE_TRIP (R371): Tj above +115 °C, in 1/16 °C. -/
def execTemperatureTrip (t sensor : Nat) (tj16 : Int) (s : State) : Out :=
  let s := s.advance t
  .next (if s.powered && tj16 > 115 * 16 then s.raise 0x14 0xFF sensor else s)

/-! ## Self-test (R384 to R387) -/

/-- The self-test state of a logical region. -/
def State.selfTest (s : State) (l : Nat) : SelfTest := tblGet {} s.safe.selftest l
/-- Changing the self-test state of a logical region. -/
def State.setSelfTest (s : State) (l : Nat) (x : SelfTest) : State :=
  { s with safe := { s.safe with selftest := tblSet {} s.safe.selftest l x } }

/-- The tick at which the oldest of a region's 40 slices last passed. -/
def SelfTest.oldest (x : SelfTest) : Nat :=
  match x.passed with
  | [] => 0
  | a :: rest => rest.foldl min a

/-- Whether a region is covered: every slice has passed within the last 100 ms, which are 50,000,000 ticks (R386). -/
def State.covered (s : State) (l : Nat) : Bool :=
  let x := s.selfTest l
  x.passed.length == 40 && decide (s.time.cnt ≤ x.oldest + 50000000)

/-- SELFTEST (R384, R385): the entry runs the region's next unpassed slice in its slot; a step that would pass the guard
abandons the slice, which keeps the slice pointer. The entry of a drained partition runs nothing (R438). -/
def execSelftest (t d e : Nat) (guardPassed : Bool) (s : State) : Out :=
  let s := s.advance t
  .next (match s.fires d e 8 with
    | none => s
    | some en =>
      let s := s.markFired d e
      if s.entryDrained d en then s
      else if guardPassed then { s with safe := { s.safe with stAbandon := satInc s.safe.stAbandon } }
      else
        let s := s.setSelfTest en.target { s.selfTest en.target with running := true }
        match s.startedOf d e with
        | some _ => s
        | none => s.startEntry d e en)

/-- A region's slice has passed: its pointer moves on, and a region covered again lifts DIAG_LATE (R371, R384, R386). -/
def State.slicePassed (s : State) (l : Nat) : State :=
  let x := s.selfTest l
  let s := s.setSelfTest l { x with running := false, next := (x.next + 1) % 40, passed := x.passed.set x.next s.time.cnt }
  if s.covered l then (s.setSelfTest l { s.selfTest l with late := false }).meetCond 0x0B (some l) else s

/-- SELFTEST_SLICE_END (R384, R387): the running slice of the entry's region passes, or raises SELFTEST_FAIL. -/
def execSelftestSliceEnd (t d e : Nat) (pass : Bool) (s : State) : Out :=
  let s := s.advance t
  .next (match s.startedOf d e with
    | none => s
    | some w =>
      let l := w.entry.target
      if !s.powered || w.entry.action ≠ 8 || !(s.selfTest l).running then s else
        let s := s.completeEntry w stOk
        if pass then s.slicePassed l
        else
          let s := s.setSelfTest l { s.selfTest l with running := false }
          let s := { s with safe := { s.safe with stFail := satInc s.safe.stFail } }
          s.raise 0x0A ((s.partOf l).getD 0xFF) l)

/-- COVER_LOSS (R386, R438): a region whose oldest slice is older than 100 ms raises DIAG_LATE once. -/
def execCoverLoss (t l : Nat) (s : State) : Out :=
  let s := s.advance t
  .next (match s.partOf l with
    | none => s
    | some p =>
      if s.powered && s.glob.imageLoaded && (s.physOf l).isSome && !maskBit s.pwr.drained p && !s.covered l && !(s.selfTest l).late then
        let s := s.setSelfTest l { s.selfTest l with late := true }
        let s := { s with safe := { s.safe with diagLate := satInc s.safe.diagLate } }
        s.raise 0x0B p l
      else s)

/-! ## Golden frames (R388, R389) -/

/-- One bit of the reflected CRC-64 of R388. -/
def crcStep (c : BitVec 64) : BitVec 64 := if c.getLsbD 0 then (c >>> 1) ^^^ 0xC96C5795D7870F42 else c >>> 1

/-- One byte of the CRC-64. -/
def crcByte (c : BitVec 64) (b : Byte) : BitVec 64 :=
  let c := c ^^^ b.zeroExtend 64
  crcStep (crcStep (crcStep (crcStep (crcStep (crcStep (crcStep (crcStep c)))))))

/-- The CRC-64 of R388: initial value and final XOR all ones, input and output reflected. -/
def crc64 (bs : List Byte) : BitVec 64 := (bs.foldl crcByte (BitVec.allOnes 64)) ^^^ BitVec.allOnes 64

/-- GOLDEN (R389): the entry runs its chain on the golden input. -/
def execGolden (t d e : Nat) (s : State) : Out :=
  let s := s.advance t
  .next (s.fireStart d e 7 fun s _ => s)

/-- GOLDEN_COMPARE (R388, R389): the CRC-64 of the result is compared; a mismatch raises GOLDEN_FAIL, a passing run meets
the release condition of an earlier one. -/
def execGoldenCompare (t d e : Nat) (result : List Byte) (s : State) : Out :=
  let s := s.advance t
  .next (match s.startedOf d e, s.image with
    | some w, some img =>
      if !s.powered || w.entry.action ≠ 7 then s else
        let s := s.completeEntry w stOk
        let s := { s with safe := { s.safe with gfRun := satInc s.safe.gfRun } }
        let want := (img.safety.golden.find? fun g => g.index == w.entry.target).map GoldenCfg.crc
        if want = some (crc64 result) then s.meetCondIn w.entry.part 0x0C
        else
          let s := { s with safe := { s.safe with gfFail := satInc s.safe.gfFail } }
          s.raise 0x0C w.entry.part w.entry.target
    | _, _ => s)

/-! ## Commands (R394) -/

/-- SAFE_STATUS (R397). -/
def State.safeStatus (s : State) : Word :=
  w32 (bitAt s.safe.heartbeat 8 + bitAt s.safe.safeIn 5 + bitAt s.safe.outB 4 + bitAt s.safe.outA 3 + bitAt s.safe.latched 2 +
    bitAt s.safe.package 1 + bitAt s.glob.safeHold 0)

/-- The partitions that some partition names in its SAFE_DEPEND mask (R397). -/
def State.dependMask (s : State) : BitVec 8 := s.safe.depend.foldl (fun m e => m ||| e.2) 0

/-- SAFE_PART_STATE (R397). -/
def State.safePartState (s : State) : Word :=
  w32 (s.dependMask.toNat * 2 ^ 16 + s.safe.pinMask.toNat * 2 ^ 8 + s.safeParts.toNat)

/-- SAFE_QUERY, 0x0901. -/
def execSafeQuery (c : Nat) (p : Packet) (s : State) : Out :=
  .next (s.command c p 0x0901 (s.ctx c).cls none fun s r => s.replyNow r [s.safeStatus, s.safePartState, s.safe.cause])

/-- The checks of SAFE_ENTER and SAFE_RELEASE (R394). -/
def chkSafeScope (s : State) (c : Nat) (p : Packet) : Option Status :=
  if u8 p 16 > 1 ∨ u8 p 17 > 7 then some stBadParam
  else if c ≠ 0 ∧ (u8 p 16 = 1 ∨ u8 p 17 ≠ (s.ctx c).part) then some stNotAuth
  else none

/-- SAFE_ENTER, 0x0902: HOST_REQUEST at the level asked for (R371, R394). -/
def execSafeEnter (c : Nat) (p : Packet) (s : State) : Out :=
  .next (s.command c p 0x0902 (s.ctx c).cls (chkSafeScope s c p) fun s r =>
    let s := s.raiseAt 0x20 (if u8 p 16 = 1 then 0xFF else u8 p 17) c (if u8 p 16 = 1 then 2 else 1)
    s.replyNow r)

/-- Whether an event's release condition is met now (R371): recorded for most; event 0x15 needs SAFE_IN high now, and event 0x14
a hottest sensor below +105 °C in a window after it and in the latest one. -/
def State.evtMet (s : State) (e : SafeEvt) : Bool :=
  if e.code = 0x15 then s.safe.safeIn else e.met && (e.code != 0x14 || decide (s.pwr.tjMax < 105 * 16))

/-- What holds a partition back from release (R380). -/
def State.partHeld (s : State) (q : Nat) : Bool :=
  s.safe.package || ((List.range 8).any fun k => maskBit (tblGet 0 s.safe.depend q) k && s.partSafe k) ||
    !(tblGet [] s.safe.events q).all s.evtMet

/-- What holds the package back from release (R380). -/
def State.packageHeld (s : State) : Bool := s.safe.latched || !(tblGet [] s.safe.events 8).all s.evtMet

/-- SAFE_RELEASE, 0x0903 (R380): refused with SAFE_STATE while a condition is not met and where an event of the scope falls in the same cycle (R390), else the scope leaves safe state.
`safeIn` is the filtered level of SAFE_IN in the cycle in which the command is processed (log entry 14). -/
def execSafeRelease (c : Nat) (p : Packet) (safeIn : Bool) (s : State) : Out :=
  .next (s.command c p 0x0903 (s.ctx c).cls (chkSafeScope s c p) fun s r =>
    let s := { s with safe := { s.safe with safeIn := safeIn } }
    if u8 p 16 = 1 then
      if s.packageHeld || s.eventNow 8 then s.complete r stSafe
      else
        let s := { s with safe := { s.safe with package := false, events := tblErase s.safe.events 8 } }
        s.drivePins.replyNow r
    else
      let q := u8 p 17
      if s.partHeld q || s.eventNow q then s.complete r stSafe
      else
        let s := { s with safe := { s.safe with parts := maskClear s.safe.parts q, events := tblErase s.safe.events q } }
        s.drivePins.replyNow r)

/-- The 16 bytes of a safety log record (R395). -/
def LogRec.bytes (r : LogRec) : List Byte :=
  [BitVec.ofNat 8 r.code, BitVec.ofNat 8 r.level, BitVec.ofNat 8 r.part, 0] ++ leBytes r.detail 4 ++ leBytes r.time 8

/-- The record of a log index, if it is kept: records are numbered from 0 since power-good, modulo 65,536 (log entry 15). -/
def State.logAt (s : State) (i : Nat) : Option LogRec :=
  let first := s.safe.logCount - s.safe.log.length
  ((List.range s.safe.log.length).find? fun k => (first + k) % 65536 == i % 65536).bind fun k => s.safe.log[k]?

/-- The checks of SAFE_LOG_READ. -/
def chkSafeLogRead (p : Packet) : Option Status := if u16 p 18 = 0 ∨ u16 p 18 > 256 then some stBadParam else none

/-- SAFE_LOG_READ, 0x0904 (R395): a context other than 0 reads the records of its own partition, and zeros for the others. -/
def execSafeLogRead (c : Nat) (p : Packet) (s : State) : Out :=
  .next (s.command c p 0x0904 (s.ctx c).cls (chkSafeLogRead p) fun s r =>
    let zero : List Byte := List.replicate 16 0
    let bytes := (List.range (u16 p 18)).flatMap fun k => match s.logAt (u16 p 16 + k) with
      | some x => if c = 0 ∨ x.part = (s.ctx c).part then x.bytes else zero
      | none => zero
    let s := s.writeFunc (s.ctx c).func (u64 p 24) bytes
    s.replyNow r [w32 ((s.safe.logCount - 1) % 65536)])

end Sys2Proof.Machine
end

