-- ==== Sys2Proof/Machine/Power.lean ====
section
/-! DEFINITION. The rows of GLOBAL (R25, R37), of the power budget and the droop detectors (R426 to R432), and the service
commands that touch no other block (R432, R445). -/
namespace Sys2Proof.Machine

/-- GLOBAL_MODE_WRITE (R37): discarded with MODE_REFUSED while an image is loaded or loading, stored otherwise. -/
def execGlobalModeWrite (value : Word) (s : State) : Out :=
  .next (if !s.powered then s
    else if s.glob.imageLoaded || s.glob.loading then { s with glob := { s.glob with modeRefused := true } }
    else { s with glob := { s.glob with det := value.getLsbD 0, pkgId := BitVec.ofNat 3 (bitsOf value.toNat 4 3),
                                        pkgCount := BitVec.ofNat 3 (bitsOf value.toNat 8 3) } })

/-- The compute die a link belongs to (R25). -/
def linkDie : LinkId → Nat
  | .noc die _ => die
  | .bridge die => die
  | .c0lane die _ => die

/-- NOC_FLIT_CRC_FAIL (R25): the flit is resent in the reserved interval and counted on its die. -/
def execNocFlitCrcFail (link : LinkId) (s : State) : Out :=
  .next (if !s.powered then s
    else if linkDie link = 0 then { s with glob := { s.glob with nocRetry0 := satInc s.glob.nocRetry0 } }
    else { s with glob := { s.glob with nocRetry1 := satInc s.glob.nocRetry1 } })

/-- The partitions that hold a slot on a network-on-chip link in the loaded image (R27). -/
def State.linkParts (s : State) (die link : Nat) : List Nat :=
  ((s.image.map Image.links).getD []).flatMap fun u => if u.die = die ∧ u.link = link then u.parts else []

/-- A link out of service, with its GLOBAL_FAULT bit set (R25, R36). -/
def State.linkFault (s : State) (bit : Nat) : State :=
  { s with glob := { s.glob with fault := maskSet s.glob.fault bit, linkDown := maskSet s.glob.linkDown bit } }

/-- NOC_RETRY_FAIL (R25, R27): the link is faulty; a network-on-chip link is charged to every partition with a slot on it, or
logged at RECORD with partition 0xFF where there is none; a bridge or its C0 lane raises BRIDGE_FAULT; a lost C0 crossing
leaves its group's policy result missing (R223). -/
def execNocRetryFail (t : Nat) (link : LinkId) (s : State) : Out :=
  let s := s.advance t
  .next (if !s.powered then s else match link with
    | .noc die n =>
      let s := s.linkFault (if die = 0 then 2 else 3)
      match s.linkParts die n with
      | [] => s.raiseAt 0x08 0xFF n 0
      | ps => List.foldl (fun s p => s.raise 0x08 p n) s ps
    | .bridge die => (s.linkFault (if die = 0 then 0 else 1)).raise 0x10 0xFF die
    | .c0lane die g =>
      let x := s.group g
      let s := if x.valid && x.result == .waiting then s.missPolicy g else s
      (s.linkFault (if die = 0 then 0 else 1)).raise 0x10 0xFF die)

/-! ## Power budget and cap (R426, R431, R432) -/

/-- The power of a window in mW: the sum over the measured rails of mV × 10 mA units / 100. -/
def railPower (rails : List RailVI) : Nat := (rails.foldl (fun a v => match v with | some (mv, i) => a + mv * i | none => a) 0) / 100

/-- The rails as PWR_RAIL_VI shows them. -/
def railTable : Nat → List RailVI → Tbl (Nat × Nat)
  | _, [] => []
  | k, some v :: rest => (k, v) :: railTable (k + 1) rest
  | k, none :: rest => railTable (k + 1) rest

/-- The throttle level after a window (R431). -/
def nextThrottle (t p cap : Nat) (hottest : Int) : Nat :=
  if p > cap ∨ hottest > 110 * 16 then min 16 (t + 1)
  else if p + 2000 < cap ∧ hottest ≤ 108 * 16 then t - 1
  else t

/-- PMBUS_POLL_WINDOW (R426, R431, R432): the package power of a window is measured, T moves by one, and the windows in which
T has stood at 16 with P above the cap are counted from the fourth on. A cap set in the same cycle counts from the next window (R443). -/
def execPmbusPollWindow (t : Nat) (rails : List RailVI) (sensors : List Int) (s : State) : Out :=
  let s := s.advance t
  .next (if !s.powered then s else
    let p := railPower rails
    let hottest := match sensors with
      | [] => s.pwr.tjMax
      | a :: r => r.foldl max a
    let cap := s.mark.pwr.cap
    let th := nextThrottle s.pwr.throttle p cap hottest
    let streak := if s.pwr.throttle = 16 ∧ p > cap then s.pwr.streak + 1 else 0
    let unmet := streak ≥ 4
    let s := { s with pwr := { s.pwr with
      pkgMw := p, rails := railTable 0 (rails.take 10), tjMax := hottest, throttle := th, streak := streak,
      capUnmet := (s.pwr.capUnmet || unmet) && th == 16,
      capExceed := if unmet then satInc s.pwr.capExceed else s.pwr.capExceed } }
    if hottest < 105 * 16 then s.meetCond 0x14 none else s)

/-- PMB_ALERT (R426): a fault bit on a package rail raises event 0x13. -/
def execPmbAlert (t : Nat) (faultRails : List Nat) (s : State) : Out :=
  let s := s.advance t
  .next (if s.powered then List.foldl (fun s r => s.raise 0x13 0xFF r) s faultRails else s)

/-! ## Droop and stretch (R428) -/

/-- DROOP_TRIP (R428): the region's ACLK is stretched; a trip during a stretch restarts the 64-cycle hold. -/
def execDroopTrip (t d r : Nat) (s : State) : Out :=
  let s := s.advance t
  let k := rkey d r
  let x := s.port k
  .next (if !s.powered || !s.enabled k then s
    else if x.stretched then s.setPort k { x with stretchT := s.time.cnt }
    else s.setPort k { x with stretched := true, stretchT := s.time.cnt, slowT := s.time.cnt, droopCnt := satInc x.droopCnt })

/-- STRETCH_END (R428): after at least 64 stretched cycles of 2.5 ticks each since the latest trip the region returns to
4 ns; `cycles` stretched cycles are counted. -/
def execStretchEnd (t d r cycles : Nat) (s : State) : Out :=
  let s := s.advance t
  let k := rkey d r
  let x := s.port k
  .next (if s.powered && x.stretched && cycles ≥ 64 && decide (s.time.cnt ≥ x.stretchT + 160)
    then s.setPort k { x with stretched := false, stretchCyc := satAdd x.stretchCyc (cycles - x.dropCyc), dropCyc := 0, slowCyc := x.slowCyc + cycles } else s)

/-! ## Commands (R445) -/

/-- PWR_STATUS (R447). -/
def State.pwrStatus (s : State) : Word :=
  w32 (bitAt (s.pwr.handover != .none) 13 + bitAt s.pwr.lpddrInit 12 + bitAt s.pwr.capUnmet 8 + s.pwr.throttle % 32)

/-- PWR_SVC_STATE (R447). -/
def State.pwrSvc (s : State) : Word := w32 (s.pwr.drained.toNat * 256 + s.pwr.draining.toNat)

/-- The checks of PWR_CAP_SET (R432). -/
def chkPwrCapSet (s : State) (c : Nat) (p : Packet) : Option Status :=
  if u32 p 20 < 25000 ∨ u32 p 20 > 75000 then some stBadParam
  else if c ≠ 0 then some stNotAuth
  else if s.glob.imageLoaded && decide (u32 p 20 < s.pwr.floor) then some stNoFit
  else none

/-- PWR_CAP_SET, 0x0B08 (R432): with no image loaded the cap takes effect when one is. -/
def execPwrCapSet (c : Nat) (p : Packet) (s : State) : Out :=
  .next (s.command c p 0x0B08 (s.ctx c).cls (chkPwrCapSet s c p) fun s r =>
    let s := if s.glob.imageLoaded then { s with pwr := { s.pwr with cap := u32 p 20, capNext := none } }
             else { s with pwr := { s.pwr with capNext := some (u32 p 20) } }
    s.replyNow r [w32 s.pwr.cap])

end Sys2Proof.Machine
end

