-- ==== Sys2Proof/Machine/Boot.lean ====
section
/-! DEFINITION. Verification of an image (R408, R410), measurement (R411), zeroisation (R416, R417), and the start that the ROM
makes after power-good and after a part reset (R409, R433, R436). -/
namespace Sys2Proof.Machine

/-- The 64 bytes of a digest. -/
def digestBytes (d : Digest) : List Byte := leBytes d.toNat 64

/-- The digest of DevID's public key (R405). -/
def devidHash : Digest := Config.sha3 (Config.publicKey 0)

/-! ## Measurement (R411) -/

/-- The slots and the log extended by a digest: M := SHA3-512(M ‖ d), and one more log entry while the log holds fewer than
1,024. The type code of the entry is a free value (log entry 22). -/
def State.measure (s : State) (slot : Nat) (d : Digest) : State :=
  let m := Config.sha3 (digestBytes (tblGet 0 s.sec.slots slot) ++ digestBytes d)
  let (code, s) := s.takeFree 22
  let log := if s.sec.log.length < 1024 then s.sec.log ++ [⟨slot, code, d, s.time.cnt⟩] else s.sec.log
  { s with sec := { s.sec with slots := tblSet 0 s.sec.slots slot m, log := log } }

/-- The debug port is open in MANUFACTURE, and in PEELED, whose debug-open flag is set (R415, R416). -/
def Mram.portOpen (m : Mram) : Bool := m.lifecycle == 0 || m.debugOpen

/-- Slot 0 extended with the 16-byte record of lifecycle, debug-open flag and epoch. -/
def State.measureRom (s : State) : State :=
  s.measure 0 (Config.sha3 (bytesAt (Config.romRecord s.sec.mram.lifecycle s.sec.mram.debugOpen s.sec.mram.epoch) 0 16))

/-- Slot 5 extended with the records of OWNER, SYSTEM and the tamper responses. -/
def State.measureOwner (s : State) : State :=
  s.measure 5 (Config.sha3 (Config.ownerRecords s.sec.mram.owner.toList s.sec.mram.system s.sec.mram.policy.toNat))

/-! ## Verification (R407, R408, R410) -/

/-- The signers that R408 requires for a TYPE: 0 the vendor, 1 the owner. -/
def State.signersFor (s : State) (type : Nat) : List Nat :=
  if s.sec.mram.lifecycle = 0 then [0]
  else if type ≥ 0x10 then [1]
  else if s.sec.mram.owner.isSome then [0, 1] else [0]

/-- The hash that a signer's key must have: the vendor hash of the ROM, or OWNER. -/
def State.signerHash (s : State) (signer : Nat) : Option Digest := if signer = 0 then some s.sec.vendorHash else s.sec.mram.owner

/-- Whether a signature of a required signer verifies against the right key hash. -/
def State.signedBy (s : State) (e : Envelope) (signer : Nat) : Bool :=
  e.sigs.any fun g => g.signer == signer && g.genuine && s.signerHash signer == some g.keyHash

/-- Whether MAGIC, TYPE and the reserved fields are as R407 requires, TYPE being one of those allowed here. -/
def headerOk (e : Envelope) (types : List Nat) : Bool :=
  e.magic == 0x4B535957 && types.contains e.type.toNat && e.reservedZero && decide (e.svnIndex < 16)

/-- Why an image does not verify (R408), numbered as SEC_BOOT numbers its reasons (R409): 2 header, 5 digest, 4 rollback, 3
signature; none where it verifies. -/
def State.verifyReason (s : State) (e : Envelope) (types : List Nat) : Option Nat :=
  if !headerOk e types then some 2
  else if e.bodyDigest ≠ e.bodyHash then some 5
  else if e.svn.toNat < tblGet 0 s.sec.mram.svn e.svnIndex then some 4
  else if !(s.signersFor e.type.toNat).all (s.signedBy e) then some 3
  else none

/-- The status with which an encrypted body is refused (R410): in PEELED no wrapped key exists; an empty slot or a wrong tag
fails as a signature does. -/
def State.decryptCheck (s : State) (e : Envelope) : Option Status :=
  if !e.encrypted then none
  else if s.sec.mram.lifecycle = 3 then some stNotAuth
  else if tblGet [] s.sec.mram.wrapped e.keySlot = [] ∨ !e.tagOk then some stSigFail
  else none

/-- The status with which an image is refused that does not verify or cannot be decrypted. -/
def State.verifyStatus (s : State) (e : Envelope) (types : List Nat) : Option Status :=
  if (s.verifyReason e types).isSome then some stSigFail else s.decryptCheck e

/-! ## Zeroisation (R416) -/

/-- A solver slot whose memories are written with zeros. -/
def Prob.zeroed (x : Prob) : Prob :=
  { x with active := x.active.map fun _ => 0, front := x.front.map fun _ => 0, back := x.back.map fun _ => 0,
           store := x.store.map fun _ => 0, next := x.next.map fun l => l.map fun _ => 0, kept := none }

/-- Step 3: every scratchpad line, lane memory, solution store, hub memory and tile-core memory written with zeros. -/
def State.zeroMemories (s : State) : State :=
  { s with cmp := { s.cmp with sp := [], spPoison := [], regions := tblMap {} (fun _ x => { x with tiles := [] }) s.cmp.regions }, hubMem := [],
           slv := { s.slv with probs := s.slv.probs.map fun e => (e.1, e.2.zeroed) } }

/-- Steps 1 and 2: the epoch becomes the target, and WRAPPED is cleared. A scrap sets the epoch itself (R404). -/
def Mram.zeroKeys (m : Mram) (target : Nat) : Mram :=
  { m with epoch := (if m.lifecycle = 4 then m.epoch else target % 2 ^ 32), wrapped := [], zrec := some (target, 3) }

/-- A zeroisation begins (R416): ZREC is written and steps 1 to 3 are done; step 4 runs until ZEROISATION_COMPLETE. One that
runs already goes on (R418). -/
def State.beginZero (s : State) (cmd : Option (CmdRef × List Word)) (cause : Digest) : State :=
  if s.sec.mram.zrec.isSome then s
  else { s.zeroMemories with sec := { s.sec with mram := s.sec.mram.zeroKeys (s.sec.mram.epoch + 1), zcmd := cmd, zcause := some cause } }

/-! ## The start (R409, R433, R436) -/

/-- The first copy of a TYPE that the ROM can run, with the reasons met before it: copy A first, then copy B. -/
def State.chooseCopy (s : State) (f : Flash) (type : Nat) : Option FlashCopy × Nat × Nat :=
  let pick := fun b : Bool => if f.dirOk then f.copies.find? fun x => x.type == type && x.copyB == b else none
  let why := fun o : Option FlashCopy => match o with
    | none => some 1
    | some x => match s.verifyReason x.env [type] with
      | some r => some r
      | none => if (s.decryptCheck x.env).isSome then some 3 else none
  match why (pick false), why (pick true) with
  | none, _ => (pick false, 0, 0)
  | some a, none => (pick true, a, 0)
  | some a, some b => (none, a, b)

/-- A firmware image that the ROM runs: it is measured and its SVN counts as running (R408, R411). -/
def State.runFirmware (s : State) (slot : Nat) (e : Envelope) : State :=
  let s := s.measure slot e.headerDigest
  { s with sec := { s.sec with running := tblInsert (tblErase s.sec.running slot) slot (e.svnIndex, e.svn.toNat) } }

/-- Husk or compute-die firmware, where a copy verifies. -/
def State.runCopy (s : State) (slot : Nat) (c : Option FlashCopy) : State := match c with
  | none => s
  | some x => s.runFirmware slot x.env

/-- The reasons of the first type of which no copy verifies, in the order 0x02, 0x01, 0x03. -/
def firstReasons : List (Option FlashCopy × Nat × Nat) → Nat × Nat
  | [] => (0, 0)
  | (none, a, b) :: _ => (a, b)
  | (some _, _, _) :: rest => firstReasons rest

/-- Steps 1 to 6 of R409, once MRAM has been read: an interrupted zeroisation is brought to its step 4, the copies are chosen
and run, and the recovery firmware runs in place of the hub firmware where some type has no copy that verifies. Where it does
not verify either, the part stays in SAFE_HOLD. A SCRAPPED part goes no further than its ROM (R404). -/
def State.romBoot (s : State) (f : Flash) : State :=
  let s := match s.sec.mram.zrec with
    | none => s
    | some (target, _) => { s with sec := { s.sec with mram := s.sec.mram.zeroKeys target } }
  if s.sec.mram.lifecycle = 4 then s else
    let husk := s.chooseCopy f 2
    let hub := s.chooseCopy f 1
    let die := s.chooseCopy f 3
    let rec_ := s.chooseCopy f 4
    let failed := husk.1.isNone || hub.1.isNone || die.1.isNone
    let why := firstReasons [husk, hub, die]
    let s := s.measureRom
    let s := s.runCopy 2 husk.1
    let main := if failed then rec_.1 else hub.1
    let s := s.runCopy 1 main
    let s := s.runCopy 3 die.1
    let s := s.measureOwner
    { s with glob := { s.glob with safeHold := main.isNone },
             sec := { s.sec with booted := main.isSome, huskReady := husk.1.isSome, reasonA := why.1, reasonB := why.2,
                                 reasonR := (if failed then rec_.2.1 else 0),
                                 bootCopy := (match main with
                                   | none => 0
                                   | some x => if failed then 2 else if x.copyB then 1 else 0) } }

/-- The part with nothing volatile left: MRAM, the mask and what manufacture fixed stay, and so do the boot flash, host
memory, the levels that the board holds on PERST_N and SAFE_IN, and the commands that wait outside (R402, R436). -/
def State.bare (s : State) : State :=
  { State.reset with
    pending := s.pending, powered := s.powered, flash := s.flash, hostMem := s.hostMem, free := s.free,
    glob := { grade44 := s.glob.grade44, enabled0 := s.glob.enabled0, enabled1 := s.glob.enabled1,
              vtrim0 := s.glob.vtrim0, vtrim1 := s.glob.vtrim1 },
    sec := { mram := s.sec.mram, vendorHash := s.sec.vendorHash },
    lnk := { perst := s.lnk.perst }, safe := { safeIn := s.safe.safeIn } }

/-- A start, after power-good or a part reset: everything volatile is at its reset value and the ROM boots from the flash
(R409, R433, R436). The hub PLL has locked. -/
def State.reboot (s : State) : State :=
  let s := s.bare
  ({ s with pwr := { s.pwr with clkHub := true } }).romBoot s.flash

end Sys2Proof.Machine
end

