-- ==== Sys2Proof/Machine/Bus.lean ====
section
/-! DEFINITION. The field buses: CAN FD controllers (R345 to R351, R356, R357), Ethernet ports (R464, R465, R478), and what LATCH and
OUTPUT entries and axis groups exchange with them (R221, R272). -/
namespace Sys2Proof.Machine

/-- A CAN FD controller. -/
def State.can (s : State) (c : Nat) : Can := tblGet {} s.cans c
/-- Changing a CAN FD controller. -/
def State.setCan (s : State) (c : Nat) (x : Can) : State := { s with cans := tblSet {} s.cans c x }
/-- What the image declares of a CAN FD controller. -/
def State.canCfg (s : State) (c : Nat) : Option CanCfg := s.image.bind fun i => i.cans.find? fun x => x.c == c
/-- An Ethernet port. -/
def State.eth (s : State) (p : Nat) : Eth := tblGet {} s.eths p
/-- Changing an Ethernet port. -/
def State.setEth (s : State) (p : Nat) (x : Eth) : State := { s with eths := tblSet {} s.eths p x }
/-- What the image declares of an Ethernet port. -/
def State.ethCfg (s : State) (p : Nat) : Option EthCfg := s.image.bind fun i => i.eths.find? fun x => x.p == p

/-! ## Receiving on CAN FD -/

/-- The address in BAR0 of CAN_Cc_ERR (R484). -/
def canErrAddr (c : Nat) : Nat := 0xA00014 + c * 0x1000

/-- CAN_Cc_ERR after a protocol error (R357): the record is overwritten, the refusal bits stay. -/
def canErr (old : Word) (lec : Nat) : Word := (recWrite old (lec % 8)) ||| (old &&& 0x300)

/-- The state that the error counters give a controller on the bus (ISO 11898-1). -/
def Can.judge (x : Can) : Can :=
  if x.state = .init ∨ x.state = .busOff then x
  else if x.tec ≥ 256 then { x with state := .busOff, onBus := none }
  else if x.tec ≥ 128 ∨ x.rec_ ≥ 128 then { x with state := .passive }
  else { x with state := .active }

/-- Whether a controller takes part in the bus. -/
def Can.onLine (x : Can) : Bool := x.state == .active || x.state == .passive

/-- A receive error counter after an error-free frame (ISO 11898-1). -/
def recAfterGood (n : Nat) : Nat := if n > 127 then 119 else n - 1

/-- The lowest-numbered filter that a frame matches (R347). -/
def canFilter (fs : List CanFilter) (f : CanFrame) : Option (Nat × CanFilter) :=
  ((List.range fs.length).filterMap fun i => (fs[i]?).map fun x => (i, x)).find? fun e =>
    e.2.ide == f.ide && (f.id &&& e.2.mask) == (e.2.id &&& e.2.mask)

/-- The 128 bytes of a receive entry (R348). -/
def canEntry (f : CanFrame) (filter : Nat) (time : Int) : List Byte :=
  leBytes (f.id.toNat + bitAt f.ide 29 + bitAt f.fdf 30 + bitAt f.brs 31) 4 ++ leBytes (bitAt f.rtr 0 + bitAt f.esi 1) 1 ++
    leBytes f.data.length 1 ++ leBytes filter 2 ++ timeBytes time ++ List.replicate 12 0 ++ bytesAt f.data 0 64 ++ List.replicate 32 0

/-- CAN_FRAME_RECEIVE (R347, R348): an error-free frame goes where the lowest filter it matches sends it; a frame that finds its
queue full is dropped and counted. -/
def execCanFrameReceive (t c : Nat) (f : CanFrame) (s : State) : Out :=
  let s := s.advance t
  .next (match s.canCfg c with
    | none => s
    | some cfg =>
      let x := s.can c
      if !s.powered || !x.onLine then s else
        let x := ({ x with rec_ := recAfterGood x.rec_ }).judge
        let s := s.setCan c x
        match canFilter cfg.filters f with
        | none => s
        | some (i, flt) =>
          match flt.target with
          | .discard => s
          | .sync => if f.rtr then s else List.foldl (fun s d => s.sourceEvent d f.sof) s (s.domsOf 4 (10 + c))
          | .holding h =>
            if f.rtr then s else
              let y := tblGet {} x.holds h
              s.setCan c { x with holds := tblSet {} x.holds h { data := f.data, tick := f.sof, count := y.count + 1 } }
          | .queue q =>
            let y := tblGet {} x.queues q
            if (y.pi - y.ack).toNat ≥ y.len then s.setCan c { x with rxdropCnt := satInc x.rxdropCnt }
            else
              let k := y.base + y.pos
              let time := (s.dom cfg.stampDom).timeVal f.sof
              s.setCan c { x with store := memWrite x.store (128 * k) (canEntry f i time), queues := tblSet {} x.queues q { y with pi := y.pi + 1, pos := (y.pos + 1) % y.len } })

/-- CAN_RECEIVE_ERROR (R345, R357): the receive error counter moves and LEC is recorded. -/
def execCanReceiveError (c lec : Nat) (s : State) : Out :=
  let x := s.can c
  .next (if s.powered && x.onLine then (s.recorded (canErrAddr c)).setCan c ({ x with rec_ := min 255 (x.rec_ + 1), err := canErr x.err lec }).judge else s)

/-- CAN_ACK_WRITE (R348): entries return to the part; a write that moves backwards or past PI is refused. -/
def execCanAckWrite (c q : Nat) (value : Word) (s : State) : Out :=
  let x := s.can c
  let y := tblGet {} x.queues q
  let v : BitVec 16 := BitVec.ofNat 16 value.toNat
  .next (if !s.powered || decide (c ≥ 4 ∨ q ≥ 8) then s
    else if (v - y.ack).toNat ≤ (y.pi - y.ack).toNat then s.setCan c { x with queues := tblSet {} x.queues q { y with ack := v } }
    else s.setCan c { x with err := x.err ||| 0x100 })

/-! ## Sending on CAN FD -/

/-- The pending frames of a controller in its order of presentation (R349): servo frames with the safe-state message, class 1
frames, host frames, the lowest identifier first within each. -/
def State.canPending (s : State) (c : Nat) : List (Nat × Nat × CanPick) :=
  let x := s.can c
  let cfg := (s.canCfg c).getD { c := c }
  let id := fun (l : List BusTx) i => ((l.find? fun b => b.index == i).map fun b => b.id.toNat).getD 0
  let msg := ((s.image.map fun i => i.safety.messages).getD []).find? fun m => m.onCan && m.port == c
  let servo := x.servo.map fun e => (0, id cfg.servo e.1, CanPick.servo e.1)
  let message := if (s.safe.messages.find? fun e => e.1 == 16 + c).isSome then [(0, (msg.map fun m => m.id.toNat).getD 0, CanPick.message)] else []
  let class1 := x.class1.map fun e => (1, id cfg.class1 e.1, CanPick.class1 e.1)
  let host := (x.txs.filter fun e => e.2.req).map fun e => (2, e.2.hdr.toNat % 2 ^ 29, CanPick.host e.1)
  servo ++ message ++ class1 ++ host

/-- CAN_FRAME_PRESENT (R349, R350): the bus is idle and the first pending frame is presented; nothing is sent in bus-off. -/
def execCanFramePresent (t c : Nat) (s : State) : Out :=
  let s := s.advance t
  let x := s.can c
  .next (if !s.powered || !x.onLine || x.onBus.isSome then s else
    let best := (s.canPending c).foldl (fun (b : Option (Nat × Nat × CanPick)) e => match b with
      | none => some e
      | some a => if e.1 < a.1 ∨ (e.1 = a.1 ∧ e.2.1 < a.2.1) then some e else b) none
    match best with
    | none => s
    | some (_, _, pick) => s.setCan c { x with onBus := some pick })

/-- The pending frames of a class after frame `i` has left the bus: one that has replaced it there meanwhile is pending still. -/
def leaveBus (m : Tbl BusFrame) (i : Nat) : Tbl BusFrame :=
  let f := tblGet {} m i
  if f.behind then tblInsert (tblErase m i) i { f with behind := false } else tblErase m i

/-- Frame `i` after a failed attempt, with the attempts it has failed; those of a frame that it has replaced are not its own. -/
def failBus (m : Tbl BusFrame) (i : Nat) : Tbl BusFrame × Nat :=
  let f := tblGet {} m i
  let g := if f.behind then { f with behind := false } else { f with tries := f.tries + 1 }
  (tblInsert (tblErase m i) i g, g.tries)

/-- A frame that has left the bus: it is no longer pending, a host buffer keeps its result (R357). -/
def State.canDone (s : State) (c : Nat) (pick : CanPick) (result : BitVec 2) : State :=
  let x := s.can c
  match pick with
  | .servo i => s.setCan c { x with servo := leaveBus x.servo i }
  | .class1 i => s.setCan c { x with class1 := leaveBus x.class1 i }
  | .message => { s.setCan c { x with msgTries := 0 } with safe := { s.safe with messages := tblErase s.safe.messages (16 + c) } }
  | .host b =>
    let y := tblGet {} x.txs b
    s.setCan c { x with txs := tblSet {} x.txs b { y with req := false, result := result, cancel := false } }

/-- The failed attempts of a frame, with one more. -/
def Can.failed (x : Can) (pick : CanPick) : Can × Nat :=
  match pick with
  | .servo i => let (m, n) := failBus x.servo i; ({ x with servo := m }, n)
  | .class1 i => let (m, n) := failBus x.class1 i; ({ x with class1 := m }, n)
  | .message => ({ x with msgTries := x.msgTries + 1 }, x.msgTries + 1)
  | .host b => (x, (tblGet {} x.txs b).tries.toNat)

/-- An attempt of a host buffer counted (R357). -/
def Can.attempt (x : Can) (pick : CanPick) : Can :=
  match pick with
  | .host b =>
    let y := tblGet {} x.txs b
    { x with txs := tblSet {} x.txs b { y with tries := y.tries + 1 } }
  | _ => x

/-- Whether a host buffer on the bus has been cancelled meanwhile (R351). -/
def Can.cancelled (x : Can) (pick : CanPick) : Bool :=
  match pick with
  | .host b => (tblGet {} x.txs b).cancel
  | _ => false

/-- A failed attempt: the frame is presented again, or abandoned and counted after RETRY of them (R349); a cancellation that
waited takes effect (R351). -/
def State.canFailed (s : State) (c : Nat) (pick : CanPick) (retry : Nat) : State :=
  let (x, n) := (s.can c).failed pick
  let s := s.setCan c x
  if x.cancelled pick then s.canDone c pick 3
  else if n ≥ retry then
    let s := s.setCan c { x with abandonCnt := satInc x.abandonCnt }
    s.canDone c pick 2
  else s

/-- CAN_TX_RESULT (R345, R346, R349): the frame on the bus is sent, has lost arbitration, or has met an error; the transmit error
counter moves as ISO 11898-1 says, and bus-off starts recovery at once under AUTO_RECOVER (R350). -/
def execCanTxResult (t c : Nat) (result : CanTxResult) (s : State) : Out :=
  let s := s.advance t
  .next (match s.canCfg c, (s.can c).onBus with
    | some cfg, some pick =>
      if !s.powered then s else
        let x := ({ s.can c with onBus := none }).attempt pick
        match result with
        | .sent tdcv =>
          let x := ({ x with tec := x.tec - 1, tdcv := (match tdcv with | some v => BitVec.ofNat 7 (min v 127) | none => x.tdcv) }).judge
          (s.setCan c x).canDone c pick 1
        | .lostArbitration => (s.setCan c x).canFailed c pick cfg.retry
        | .error lec =>
          let x := ({ x with tec := x.tec + 8, err := canErr x.err lec }).judge
          let s := ((s.recorded (canErrAddr c)).setCan c x).canFailed c pick cfg.retry
          let y := s.can c
          if y.state = .busOff ∧ cfg.autoRecover then s.setCan c { y with recovering := true } else s
    | _, _ => s)

/-- CAN_RECOVER (R350): a write of RECOVER starts bus-off recovery. -/
def execCanRecover (c : Nat) (s : State) : Out :=
  let x := s.can c
  .next (if s.powered && x.state == .busOff then s.setCan c { x with recovering := true } else s)

/-- CAN_RECOVERY_COMPLETE (R350). -/
def execCanRecoveryComplete (t c : Nat) (s : State) : Out :=
  let s := s.advance t
  let x := s.can c
  .next (if s.powered && x.recovering then s.setCan c { x with state := .active, recovering := false, tec := 0, rec_ := 0 } else s)

/-- CAN_TX_REQ (R349, R357): REQ = 1 makes a host buffer pending; while it is, the write changes nothing. -/
def execCanTxReq (t c b : Nat) (value : Word) (s : State) : Out :=
  let s := s.advance t
  let x := s.can c
  let y := tblGet {} x.txs b
  .next (if !s.powered || decide (c ≥ 4 ∨ b ≥ 8) || y.req || !value.getLsbD 31 then s
    else s.setCan c { x with txs := tblSet {} x.txs b { y with req := true, dlc := BitVec.ofNat 4 (bitsOf value.toNat 16 4), result := 0, tries := 0 } })

/-- CAN_TX_CANCEL (R351): REQ = 0 cancels a pending buffer whose frame is not on the bus; otherwise the attempt completes first. -/
def execCanTxCancel (c b : Nat) (value : Word) (s : State) : Out :=
  let x := s.can c
  let y := tblGet {} x.txs b
  .next (if !s.powered || decide (c ≥ 4 ∨ b ≥ 8) || value.getLsbD 31 then s
    else if !y.req then s.setCan c { x with txs := tblSet {} x.txs b { y with dlc := BitVec.ofNat 4 (bitsOf value.toNat 16 4) } }
    else if x.onBus = some (.host b) then s.setCan c { x with txs := tblSet {} x.txs b { y with cancel := true } }
    else s.canDone c (.host b) 3)

/-- CAN_TX_BUFFER_WRITE (R357): the header (index 0) or data word (1 to 16) of a host buffer is stored, or discarded with
TX_REFUSED while REQ is 1. -/
def execCanTxBufferWrite (c b i : Nat) (value : Word) (s : State) : Out :=
  let x := s.can c
  let y := tblGet {} x.txs b
  .next (if !s.powered || decide (c ≥ 4 ∨ b ≥ 8 ∨ i > 16) then s
    else if y.req then s.setCan c { x with err := x.err ||| 0x200 }
    else s.setCan c { x with txs := tblSet {} x.txs b (if i = 0 then { y with hdr := value } else { y with words := tblSet 0 y.words (i - 1) value }) })

/-! ## Frames of axis groups and of OUTPUT entries -/

/-- A servo frame made pending on a controller; one that still waits is replaced and counted (R349). -/
def State.putCanServo (s : State) (c i : Nat) (f : BusFrame) : State :=
  let x := s.can c
  let late := x.servo.any fun e => e.1 == i
  let f := { f with behind := late && x.onBus == some (.servo i) }
  s.setCan c { x with servo := tblInsert (tblErase x.servo i) i f, lateCnt := (if late then satInc x.lateCnt else x.lateCnt) }

/-- A servo frame sent on an Ethernet port; while the link is down it waits, and one that waits is replaced and counted (R465). -/
def State.putEthServo (s : State) (p i : Nat) (f : BusFrame) : State :=
  let x := s.eth p
  if x.link then s.setEth p { x with sent := tblInsert (tblErase x.sent i) i f }
  else
    let late := x.servo.any fun e => e.1 == i
    s.setEth p { x with servo := tblInsert (tblErase x.servo i) i f, lateCnt := (if late then satInc x.lateCnt else x.lateCnt) }

/-- The servo frames of an axis group written at its output phase (R349, R465): the output fields of its loops, or the image's
safe values after a fault (R234), with the HELD bit of a held period (R224) and the INVALID bit of a partition in safe state
(R374) or of a group that its safe state has faulted (R380). -/
def State.servoFrames (s : State) (g : Nat) (fields : List (Nat × Nat × Word)) (held : Bool) : State :=
  let frame := fun (kind : Nat) (b : BusTx) =>
    let own := (fields.filter fun f => f.1 == kind).map Prod.snd
    let vals := if (s.group g).safeOut then own.map (fun f => (f.1, ((b.safe.find? fun e => e.1 == f.1).map Prod.snd).getD 0)) else own
    ({ fields := vals, heldBit := held && b.heldBit.isSome, invalid := s.partSafe b.part || (s.group g).invalid } : BusFrame)
  let cans := (s.image.map Image.cans).getD []
  let eths := (s.image.map Image.eths).getD []
  let s := List.foldl (fun s (e : EthCfg) => List.foldl (fun s b => if b.source = g then s.putEthServo e.p b.index (frame 2 b) else s) s e.servo) s eths
  List.foldl (fun s (c : CanCfg) => List.foldl (fun s b => if b.source = g then s.putCanServo c.c b.index (frame 3 b) else s) s c.servo) s cans

/-- The class 1 frames of an output set handed to the controllers (R272, R349, R465). -/
def State.outputFrames (s : State) (set_ : Nat) : State :=
  let frame := fun (s : State) (b : BusTx) => ({ data := s.spRead b.spa b.len, invalid := s.partSafe b.part } : BusFrame)
  let cans := (s.image.map Image.cans).getD []
  let eths := (s.image.map Image.eths).getD []
  let s := List.foldl (fun s (e : EthCfg) => List.foldl (fun s b =>
    if b.source = set_ then
      let x := s.eth e.p
      if x.link then s.setEth e.p { x with sent := tblInsert (tblErase x.sent (256 + b.index)) (256 + b.index) (frame s b) }
      else s.setEth e.p { x with class1 := tblInsert (tblErase x.class1 b.index) b.index (frame s b) }
    else s) s e.class1) s eths
  List.foldl (fun s (c : CanCfg) => List.foldl (fun s b =>
    if b.source = set_ then
      let x := s.can c.c
      s.setCan c.c { x with class1 := tblInsert (tblErase x.class1 b.index) b.index { frame s b with behind := x.onBus == some (.class1 b.index) } }
    else s) s c.class1) s cans

/-- OUTPUT (R272): an OUTPUT entry hands over its frames and completes. -/
def execOutput (t d e : Nat) (s : State) : Out :=
  let s := s.advance t
  .next (s.fireStart d e 4 fun s en => (s.outputFrames en.target).finishNow d e stOk)

/-- The bytes of a holding register, 64 of a CAN FD controller and 256 of an Ethernet port. -/
def State.holdBytes (s : State) (r : Bool × Nat × Nat) : List Byte :=
  if r.1 then bytesAt (tblGet {} (s.can r.2.1).holds r.2.2).data 0 64 else bytesAt (tblGet {} (s.eth r.2.1).holds r.2.2).data 0 256

/-- LATCH (R272): the holding registers of a latch set are copied to its scratchpad buffer, one after another. -/
def execLatch (t d e : Nat) (s : State) : Out :=
  let s := s.advance t
  .next (s.fireStart d e 3 fun s en =>
    match s.image.bind fun i => i.latches.find? fun l => l.index == en.target with
    | none => s.finishNow d e stBadParam
    | some l => (s.spWrite l.addr (l.regs.flatMap s.holdBytes)).finishNow d e stOk)

/-! ## Ethernet -/

/-- Whether a receive filter takes a frame (R465). -/
def ethMatches (f : EthFrame) (x : EthFilter) : Bool :=
  x.dst == f.dst && x.etherType == f.etherType && (x.vlan.isNone || x.vlan == f.vlan) && (x.udpPort.isNone || x.udpPort == f.udpPort)

/-- ETH_FRAME_RECEIVE (R465): once its FCS has passed, a frame goes where the lowest filter it matches sends it; one that
matches none or fails the FCS is dropped and counted. The correction that a PTP frame brings its instance moves the domains that
follow it (R264, R267). -/
def execEthFrameReceive (t p : Nat) (f : EthFrame) (s : State) : Out :=
  let s := s.advance t
  .next (match s.ethCfg p with
    | none => s
    | some cfg =>
      let x := s.eth p
      if !s.powered || !x.link then s
      else if !f.fcsOk then s.setEth p { x with fcsCnt := satInc x.fcsCnt }
      else match cfg.filters.find? (ethMatches f) with
        | none => s.setEth p { x with rxdropCnt := satInc x.rxdropCnt }
        | some flt =>
          let x := { x with rxCnt := satInc x.rxCnt }
          match flt.target with
          | .discard => s.setEth p x
          | .holding h =>
            let y := tblGet {} x.holds h
            s.setEth p { x with holds := tblSet {} x.holds h { data := f.data, tick := s.time.cnt, count := y.count + 1 } }
          | .sync => List.foldl (fun s d => s.sourceEvent d t) (s.setEth p x) (s.domsOf 4 (4 + p))
          | .core2 =>
            let s := s.setEth p { x with core2 := x.core2 + 1 }
            match f.ptpError with
            | none => s
            | some (inst, err) =>
              List.foldl (fun s d =>
                let y := s.dom d
                if (y.state = .run ∨ y.state = .holdover) ∧ y.source = 0 ∧ y.disc = 3 ∧ y.discSel = inst
                then (s.setDom d { y with state := .run }).correct d err else s) s (List.range 8))

/-- ETH_LINK_CHANGE (R478): a link that comes up sends what has waited for it. -/
def execEthLinkChange (p : Nat) (up : Bool) (s : State) : Out :=
  let x := s.eth p
  .next (if !s.powered || (s.ethCfg p).isNone then s
    else if !up then s.setEth p { x with link := false }
    else
      let sent := List.foldl (fun t (e : Nat × BusFrame) => tblInsert (tblErase t e.1) e.1 e.2) x.sent (x.servo ++ x.class1.map fun e => (256 + e.1, e.2))
      let msg := (s.safe.messages.find? fun e => e.1 == p).map Prod.snd
      let s := s.setEth p { x with link := true, servo := [], class1 := [], sent := sent, message := msg.getD x.message }
      { s with safe := { s.safe with messages := tblErase s.safe.messages p } })

/-! ## Registers and clears -/

/-- CAN_Cc_STATUS (R357). -/
def Can.status (x : Can) : Word :=
  let st := match x.state with
    | .active => 0
    | .passive => 1
    | .busOff => 2
    | .init => 3
  w32 (bitAt x.recovering 26 + st * 2 ^ 24 + min x.tec 255 * 2 ^ 8 + min x.rec_ 255)

/-- CAN_Cc_TXb_CMD (R357). -/
def CanTx.cmd (y : CanTx) : Word := w32 (bitAt y.req 31 + y.dlc.toNat * 2 ^ 16 + y.result.toNat * 2 ^ 8 + y.tries.toNat)

/-- Registers of a CAN FD controller written. -/
def Blocks.onCan (c : Nat) (f : Can → Can → Can) (w x : Blocks) : Blocks := { x with cans := tblUpd {} x.cans c (f (tblGet {} w.cans c)) }
/-- Registers of every Ethernet port written. -/
def Blocks.onEths (f : Eth → Eth → Eth) (w x : Blocks) : Blocks :=
  { x with eths := (List.range 6).foldl (fun m p => tblUpd {} m p (f (tblGet {} w.eths p))) x.eths }
/-- CAN_CLEAR_LATE. -/
def execCanClearLate (c : Nat) (s : State) : Out :=
  .next (s.hostWrite (Blocks.onCan c fun w x => { x with lateCnt := sinceMark w.lateCnt x.lateCnt }))
/-- CAN_CLEAR_RXDROP. -/
def execCanClearRxdrop (c : Nat) (s : State) : Out :=
  .next (s.hostWrite (Blocks.onCan c fun w x => { x with rxdropCnt := sinceMark w.rxdropCnt x.rxdropCnt }))
/-- CAN_CLEAR_ABANDON. -/
def execCanClearAbandon (c : Nat) (s : State) : Out :=
  .next (s.hostWrite (Blocks.onCan c fun w x => { x with abandonCnt := sinceMark w.abandonCnt x.abandonCnt }))
/-- ETH_CLEAR_LATE (R478). -/
def execEthClearLate (s : State) : Out := .next (s.hostWrite (Blocks.onEths fun w x => { x with lateCnt := sinceMark w.lateCnt x.lateCnt }))
/-- ETH_CLEAR_FCS (R478). -/
def execEthClearFcs (s : State) : Out := .next (s.hostWrite (Blocks.onEths fun w x => { x with fcsCnt := sinceMark w.fcsCnt x.fcsCnt }))
/-- ETH_CLEAR_RXDROP (R478). -/
def execEthClearRxdrop (s : State) : Out := .next (s.hostWrite (Blocks.onEths fun w x => { x with rxdropCnt := sinceMark w.rxdropCnt x.rxdropCnt }))
/-- ETH_CLEAR_RX (R478). -/
def execEthClearRx (s : State) : Out := .next (s.hostWrite (Blocks.onEths fun w x => { x with rxCnt := sinceMark w.rxCnt x.rxCnt }))

end Sys2Proof.Machine
end

