-- ==== Sys2Proof/Machine/Codec.lean ====
section
/-! DEFINITION. The arithmetic of the pre-processing engine (R336) and its decoder: packed tensors (R343) and baseline JPEG
(R340 to R342). -/
namespace Sys2Proof.Machine

/-! ## Pre-processing (R336) -/

/-- One output channel of a pixel: colour conversion and then normalisation. -/
def ppeChannel (c : PpeCfg) (x : List Word) (i : Nat) : Word :=
  let m := fun j => c.matrix.getD (3 * i + j) 0
  let o := c.offs.getD i 0
  let v := (List.range x.length).foldl (fun acc j => f32Fma (m j) (x.getD j 0) acc) o
  f32Mul (f32Sub v (c.mean.getD i 0)) (c.scale.getD i 0)

/-- A value as a 16-bit output element. -/
def outElem (fp16_ : Bool) (v : Word) : BitVec 16 := if fp16_ then f32ToFp16 v else f32ToBf16 v

/-- Whether a 16-bit output element is finite. -/
def outFin (fp16_ : Bool) (v : BitVec 16) : Bool := ((if fp16_ then fp16 else bf16).decode v.toNat).isFin

/-- The output elements of a pixel, channels in order. -/
def ppePixel (c : PpeCfg) (x : List Word) : List (BitVec 16) := (List.range x.length).map fun i => outElem c.fp16 (ppeChannel c x i)

/-! ## Decoding -/

/-- How an input fails (R340): a declared size out of bounds, or another fault. -/
inductive DecodeFail where
  | bounds
  | data
  deriving DecidableEq, Repr

/-- A decoded input: its height, width and channels and its elements in HWC order. -/
structure Decoded where
  h     : Nat
  w     : Nat
  c     : Nat
  elems : List (BitVec 16)
  deriving DecidableEq, Repr

/-- A 16-bit big-endian field. -/
def be16 (b : List Byte) (a : Nat) : Nat := (b.getD a 0).toNat * 256 + (b.getD (a + 1) 0).toNat

/-! ### Packed tensors (R343) -/

/-- The elements of a masked group. -/
def maskedGroup (mask : Nat) (payload : List Byte) : Nat → Nat → Option (List (BitVec 16) × List Byte)
  | 0, _ => some ([], payload)
  | n + 1, i =>
    if bitOf mask i then
      match payload with
      | a :: b :: rest => (maskedGroup mask rest n (i + 1)).map fun r => (BitVec.ofNat 16 (a.toNat + 256 * b.toNat) :: r.1, r.2)
      | _ => none
    else (maskedGroup mask payload n (i + 1)).map fun r => (0 :: r.1, r.2)

/-- The elements that tokens spell, `left` of them; none on an undefined token or a payload exhausted or left over. The payload's length bounds
the number of tokens. -/
def unpack (fuel left : Nat) (payload : List Byte) : Option (List (BitVec 16)) :=
  match fuel with
  | 0 => if left = 0 ∧ payload = [] then some [] else none
  | fuel + 1 =>
    if left = 0 then (if payload = [] then some [] else none) else
      match payload with
      | [] => none
      | t :: rest =>
        let n := t.toNat
        let size := min 64 left
        if n < 0x80 then
          let elems := 64 * (n + 1)
          if elems ≥ left + 64 then none
          else (unpack fuel (left - elems) rest).map fun r => List.replicate (min elems left) 0 ++ r
        else if n = 0x80 then
          match maskedGroup (leField rest 0 8) (rest.drop 8) size 0 with
          | some (g, rest') => if rest.length < 8 then none else (unpack fuel (left - size) rest').map fun r => g ++ r
          | none => none
        else if n = 0x81 then
          match maskedGroup (2 ^ 64 - 1) rest size 0 with
          | some (g, rest') => (unpack fuel (left - size) rest').map fun r => g ++ r
          | none => none
        else none

/-- A packed tensor decoded for a slot of the given shape: the bounds of R340 first, then every other fault. -/
def decodeTensor (h w c : Nat) (fp16_ : Bool) (b : List Byte) : Except DecodeFail Decoded :=
  if b.length < 32 then .error .bounds else
    let th := leField b 4 2
    let tw := leField b 6 2
    let tc := leField b 8 2
    let plen := leField b 12 4
    let total := th * tw * tc
    let groups := (total + 63) / 64
    if th > h ∨ tw > w ∨ tc > c ∨ plen < (groups + 127) / 128 ∨ 32 + plen > b.length then .error .bounds
    else
      let elem := (b.getD 3 0).toNat
      if leField b 0 2 ≠ 0x5446 ∨ b.getD 2 0 ≠ 1 ∨ (elem ≠ 1 ∧ elem ≠ 2) ∨ total = 0 then .error .data
      else match unpack (plen + 1) total (bytesAt b 32 plen) with
        | none => .error .data
        | some es =>
          let conv := fun x => outElem fp16_ (if elem = 2 then fp16ToF32 x else bf16ToF32 x)
          .ok { h := th, w := tw, c := tc, elems := es.map conv }

/-! ### Baseline JPEG (R340 to R342) -/

/-- A component of the frame header: identifier, sampling factors, quantisation table, and from the scan header its DC and AC tables. -/
structure JComp where
  id : Nat
  h  : Nat
  v  : Nat
  q  : Nat
  dc : Nat := 0
  ac : Nat := 0
  deriving DecidableEq, Repr

/-- A Huffman table: (length, code, symbol). -/
abbrev HuffTable := List (Nat × Nat × Nat)

/-- What the header segments declare. -/
structure JHead where
  h        : Nat := 0
  w        : Nat := 0
  sof      : Bool := false
  comps    : List JComp := []
  quant    : Tbl (List Nat) := []
  huff     : Tbl HuffTable := []
  interval : Nat := 0
  scan     : Nat := 0
  deriving DecidableEq, Repr

/-- The codes of a Huffman table from its 16 counts and its symbols (ISO/IEC 10918-1). -/
def huffCodes (counts : List Nat) (syms : List Byte) : Nat → Nat → Nat → HuffTable
  | 0, _, _ => []
  | k + 1, code, used =>
    let len := 16 - k
    let n := counts.getD (len - 1) 0
    ((List.range n).map fun i => (len, code + i, (syms.getD (used + i) 0).toNat)) ++ huffCodes counts syms k ((code + n) * 2) (used + n)

/-- A DQT segment's tables: 8-bit precision, identifiers 0 to 3; the bytes left bound the recursion. -/
def readDqt (fuel : Nat) (b : List Byte) (t : Tbl (List Nat)) : Option (Tbl (List Nat)) :=
  match fuel with
  | 0 => none
  | fuel + 1 =>
    match b with
    | [] => some t
    | pq :: rest =>
      if pq.toNat ≥ 4 ∨ rest.length < 64 then none
      else readDqt fuel (rest.drop 64) (tblSet [] t pq.toNat ((rest.take 64).map BitVec.toNat))

/-- A DHT segment's tables: DC 0 to 3 at keys 0 to 3, AC at keys 16 to 19. -/
def readDht (fuel : Nat) (b : List Byte) (t : Tbl HuffTable) : Option (Tbl HuffTable) :=
  match fuel with
  | 0 => none
  | fuel + 1 =>
    match b with
    | [] => some t
    | tc :: rest =>
      let key := tc.toNat
      let counts := (rest.take 16).map BitVec.toNat
      let n := counts.foldl (· + ·) 0
      if (key % 16 ≥ 4 ∨ key ≥ 32) ∨ rest.length < 16 + n then none
      else readDht fuel (rest.drop (16 + n)) (tblSet [] t key (huffCodes counts (bytesAt rest 16 n) 16 0 0))

/-- The components of a frame header. -/
def readComps (b : List Byte) (n : Nat) : List JComp :=
  (List.range n).map fun i =>
    let hv := (b.getD (6 + 3 * i + 1) 0).toNat
    { id := (b.getD (6 + 3 * i) 0).toNat, h := hv / 16, v := hv % 16, q := (b.getD (6 + 3 * i + 2) 0).toNat }

/-- A scan header's tables given to the components, in its order; none where it names others. -/
def readScan (b : List Byte) (comps : List JComp) : Option (List JComp) :=
  if (b.getD 0 0).toNat ≠ comps.length then none else
    let put := fun i (c : JComp) =>
      let t := (b.getD (2 + 2 * i) 0).toNat
      if (b.getD (1 + 2 * i) 0).toNat = c.id then some { c with dc := t / 16, ac := t % 16 } else none
    let l := (List.range comps.length).filterMap fun i => (comps[i]?).bind (put i)
    if l.length = comps.length then some l else none

/-- One header segment with marker `m` and payload `b` read into the header. -/
def readSegment (m : Nat) (b : List Byte) (x : JHead) : Option JHead :=
  if m = 0xDB then (readDqt (b.length + 1) b x.quant).map fun q => { x with quant := q }
  else if m = 0xC4 then (readDht (b.length + 1) b x.huff).map fun t => { x with huff := t }
  else if m = 0xDD then some { x with interval := be16 b 0 }
  else if m = 0xC0 then
    if x.sof ∨ b.getD 0 0 ≠ 8 then none
    else some { x with sof := true, h := be16 b 1, w := be16 b 3, comps := readComps b (b.getD 5 0).toNat }
  else if 0xE0 ≤ m ∧ m ≤ 0xEF ∨ m = 0xFE then some x
  else none

/-- The header segments from offset `at_` to the end of SOS (R340). A segment that runs past the input, or no SOS within the
first 65,536 bytes, is out of bounds. -/
def readHead (b : List Byte) (fuel at_ : Nat) (x : JHead) : Except DecodeFail JHead :=
  match fuel with
  | 0 => .error .bounds
  | fuel + 1 =>
    if at_ + 4 > b.length ∨ at_ ≥ 65536 then .error .bounds
    else if b.getD at_ 0 ≠ 0xFF then .error .data
    else
      let m := (b.getD (at_ + 1) 0).toNat
      if m = 0xFF then readHead b fuel (at_ + 1) x
      else if m = 0xD9 then .error .bounds
      else
        let len := be16 b (at_ + 2)
        if at_ + 2 + len > b.length then .error .bounds
        else if len < 2 then .error .data
        else
          let body := bytesAt b (at_ + 4) (len - 2)
          if m = 0xDA then
            match readScan body x.comps with
            | some cs => .ok { x with comps := cs, scan := at_ + 2 + len }
            | none => .error .data
          else match readSegment m body x with
            | some x => readHead b fuel (at_ + 2 + len) x
            | none => .error .data

/-- The entropy-coded segments of a scan: the bytes before each restart marker, that marker's number, and the last segment,
which EOI ends; none without EOI or with another marker. -/
def splitScan : List Byte → List Byte → Option (List (List Byte × Nat) × List Byte × List Byte)
  | [], _ => none
  | [_], _ => none
  | 0xFF :: m :: rest, acc =>
    if m = 0 then splitScan rest (0xFF :: acc)
    else if m = 0xD9 then some ([], acc.reverse, rest)
    else if 0xD0 ≤ m.toNat ∧ m.toNat ≤ 0xD7 then (splitScan rest []).map fun r => ((acc.reverse, m.toNat - 0xD0) :: r.1, r.2)
    else none
  | b :: rest, acc => splitScan rest (b :: acc)

/-- The bits of bytes, the most significant first. -/
def bitsMsb (b : List Byte) : List Bool := b.flatMap fun x => (List.range 8).map fun i => x.getLsbD (7 - i)

/-- A number from `n` bits. -/
def takeBits : Nat → List Bool → Nat → Option (Nat × List Bool)
  | 0, bits, acc => some (acc, bits)
  | _ + 1, [], _ => none
  | n + 1, b :: rest, acc => takeBits n rest (2 * acc + if b then 1 else 0)

/-- A Huffman symbol: codes of up to 16 bits. -/
def huffSym (t : HuffTable) : Nat → Nat → Nat → List Bool → Option (Nat × List Bool)
  | 0, _, _, _ => none
  | _ + 1, _, _, [] => none
  | k + 1, len, code, b :: rest =>
    let code := 2 * code + if b then 1 else 0
    match t.find? fun e => e.1 == len + 1 && e.2.1 == code with
    | some e => some (e.2.2, rest)
    | none => huffSym t k (len + 1) code rest

/-- A signed value of `n` bits (EXTEND of ISO/IEC 10918-1). -/
def extend (v n : Nat) : Int := if n = 0 then 0 else if v < 2 ^ (n - 1) then (v : Int) - (2 ^ n - 1) else v

/-- The AC coefficients of a block from index `k` on, in zigzag order; `fuel` bounds their number. -/
def acCoefs (t : HuffTable) : Nat → Nat → List Bool → Option (List (Nat × Int) × List Bool)
  | 0, _, bits => some ([], bits)
  | fuel + 1, k, bits =>
    if k > 63 then some ([], bits) else
      match huffSym t 16 0 0 bits with
      | none => none
      | some (rs, bits) =>
        let run := rs / 16
        let size := rs % 16
        if size = 0 then
          if run = 15 then (if k + 16 > 64 then none else acCoefs t fuel (k + 16) bits)
          else if run = 0 then some ([], bits) else none
        else
          let k := k + run
          if k > 63 then none else
            match takeBits size bits 0 with
            | none => none
            | some (v, bits) => (acCoefs t fuel (k + 1) bits).map fun r => ((k, extend v size) :: r.1, r.2)

/-- The zigzag order: the place in the block of each coefficient. -/
def zigzag : List Nat :=
  [0, 1, 8, 16, 9, 2, 3, 10, 17, 24, 32, 25, 18, 11, 4, 5, 12, 19, 26, 33, 40, 48, 41, 34, 27, 20, 13, 6, 7, 14, 21, 28] ++
  [35, 42, 49, 56, 57, 50, 43, 36, 29, 22, 15, 23, 30, 37, 44, 51, 58, 59, 52, 45, 38, 31, 39, 46, 53, 60, 61, 54, 47, 55, 62, 63]

/-- cos(a π / 16) / 2 in FP32 for a from 0 to 8. -/
def halfCos (a : Nat) : Word := [0x3F000000, 0x3EFB14BE, 0x3EEC835E, 0x3ED4DB31, 0x3EB504F3, 0x3E8E39DA, 0x3E43EF15, 0x3DC7C5C2].getD a 0

/-- The coefficient of the inverse DCT for output `n` and input `k` (R342). -/
def idctCoef (n k : Nat) : Word :=
  if k = 0 then halfCos 4 else
    let a := (2 * n + 1) * k % 32
    if a ≤ 8 then halfCos a else if a ≤ 16 then f32Neg (halfCos (16 - a)) else if a ≤ 24 then f32Neg (halfCos (a - 16)) else halfCos (32 - a)

/-- One output of a one-dimensional inverse DCT: a chain over k ascending from +0. -/
def idct1 (x : Nat → Word) (n : Nat) : Word := (List.range 8).foldl (fun acc k => f32Fma (x k) (idctCoef n k) acc) 0

/-- The 64 samples of a block from its dequantised coefficients (R342): rows, then columns, 128 added, rounded and clamped. -/
def idctBlock (c : List Int) : List Nat :=
  let rows := (List.range 64).map fun p => idct1 (fun k => i32ToF32 (c.getD (p / 8 * 8 + k) 0)) (p % 8)
  (List.range 64).map fun p =>
    let v := f32Add (idct1 (fun k => rows.getD (k * 8 + p % 8) 0) (p / 8)) 0x43000000
    match (f32Val v).toInt 0 with
    | some i => (max 0 (min 255 i)).toNat
    | none => 0

/-- One block: its samples, the next DC prediction and the bits left. -/
def readBlock (x : JHead) (c : JComp) (pred : Int) (bits : List Bool) : Option (List Nat × Int × List Bool) :=
  match huffSym (tblGet [] x.huff c.dc) 16 0 0 bits with
  | none => none
  | some (n, bits) =>
    if n > 11 then none else
      match takeBits n bits 0 with
      | none => none
      | some (v, bits) =>
        let dc := pred + extend v n
        match acCoefs (tblGet [] x.huff (16 + c.ac)) 64 1 bits with
        | none => none
        | some (acs, bits) =>
          let q := tblGet [] x.quant c.q
          if q = [] then none else
          let put := fun (l : List Int) (e : Nat × Int) => l.set (zigzag.getD e.1 0) (e.2 * (q.getD e.1 0 : Nat))
          some (idctBlock ((((0, dc) :: acs)).foldl put (List.replicate 64 0)), dc, bits)

/-- The blocks of one component in an MCU. -/
def readBlocks (x : JHead) (c : JComp) : Nat → Int → List Bool → Option (List (List Nat) × Int × List Bool)
  | 0, pred, bits => some ([], pred, bits)
  | n + 1, pred, bits =>
    match readBlock x c pred bits with
    | none => none
    | some (b, pred, bits) => (readBlocks x c n pred bits).map fun r => (b :: r.1, r.2)

/-- One MCU: the blocks of each component, the predictions and the bits left. -/
def readMcu (x : JHead) : List JComp → List Int → List Bool → Option (List (List (List Nat)) × List Int × List Bool)
  | [], _, bits => some ([], [], bits)
  | c :: cs, preds, bits =>
    match readBlocks x c (c.h * c.v) (preds.headD 0) bits with
    | none => none
    | some (bs, p, bits) => (readMcu x cs preds.tail bits).map fun r => (bs :: r.1, p :: r.2.1, r.2.2)

/-- The MCUs of one segment. -/
def readMcus (x : JHead) : Nat → List Int → List Bool → Option (List (List (List (List Nat))))
  | 0, _, bits => if bits.length < 8 then some [] else none
  | n + 1, preds, bits =>
    match readMcu x x.comps preds bits with
    | none => none
    | some (m, preds, bits) => (readMcus x n preds bits).map fun r => m :: r

/-- The MCUs of a scan, segment by segment: `k` counts the restart markers, which come in sequence. -/
def readScanData (x : JHead) (last : List Byte) : List (List Byte × Nat) → Nat → Nat → Option (List (List (List (List Nat))))
  | [], left, _ => if x.interval ≠ 0 ∧ left > x.interval then none else readMcus x left (x.comps.map fun _ => 0) (bitsMsb last)
  | (seg, mk) :: rest, left, k =>
    if x.interval = 0 ∨ mk ≠ k % 8 ∨ left ≤ x.interval then none else
      match readMcus x x.interval (x.comps.map fun _ => 0) (bitsMsb seg) with
      | none => none
      | some ms => (readScanData x last rest (left - x.interval) (k + 1)).map fun r => ms ++ r

/-- The sampling that the decoder accepts (R341), with a single component taken as one block to an MCU. -/
def jpegComps (cs : List JComp) : Option (List JComp) :=
  match cs.map fun c => (c.h, c.v) with
  | [_] => some (cs.map fun c => { c with h := 1, v := 1 })
  | [(1, 1), (1, 1), (1, 1)] => some cs
  | [(2, 1), (1, 1), (1, 1)] => some cs
  | [(2, 2), (1, 1), (1, 1)] => some cs
  | _ => none

/-- The sample of a component at a pixel, chroma repeated (R342). -/
def jpegSample (mcus : List (List (List (List Nat)))) (perRow hmax vmax : Nat) (i : Nat) (c : JComp) (y x : Nat) : Nat :=
  let sy := y * c.v / vmax
  let sx := x * c.h / hmax
  let mcu := mcus.getD (sy / (8 * c.v) * perRow + sx / (8 * c.h)) []
  let block := (mcu.getD i []).getD (sy % (8 * c.v) / 8 * c.h + sx % (8 * c.h) / 8) []
  block.getD (sy % 8 * 8 + sx % 8) 0

/-- The position of EOI after the scan header, or the end of the input. -/
def findEoi : List Byte → Nat → Nat
  | 0xFF :: 0xD9 :: _, n => n
  | _ :: rest, n => findEoi rest (n + 1)
  | [], n => n

/-- B of R341: the blocks of an image with the sampling factors that its frame header declares. -/
def leastBlocks (w h : Nat) (cs : List JComp) : Nat :=
  let hmax := (cs.map JComp.h).foldl max 1
  let vmax := (cs.map JComp.v).foldl max 1
  (w + 8 * hmax - 1) / (8 * hmax) * ((h + 8 * vmax - 1) / (8 * vmax)) * (cs.map fun q => q.h * q.v).foldl (· + ·) 0

/-- A baseline JPEG image decoded for a slot of the given shape: the header and the bounds of R340 first, then the scan. -/
def decodeJpeg (h w c : Nat) (ppe : PpeCfg) (b : List Byte) : Except DecodeFail Decoded :=
  if be16 b 0 ≠ 0xFFD8 then .error .data else
    match readHead b b.length 2 {} with
    | .error e => .error e
    | .ok x =>
      if !x.sof then .error .data
      else if x.h > h ∨ x.w > w ∨ x.comps.length > c then .error .bounds
      else match jpegComps x.comps with
        | none => .error .data
        | some comps =>
          let declared := x.comps
          let x := { x with comps := comps }
          let hmax := (comps.map JComp.h).foldl max 1
          let vmax := (comps.map JComp.v).foldl max 1
          let perRow := (x.w + 8 * hmax - 1) / (8 * hmax)
          let mcus := perRow * ((x.h + 8 * vmax - 1) / (8 * vmax))
          let blocks := leastBlocks x.w x.h declared
          if findEoi (b.drop x.scan) 0 < (2 * blocks + 7) / 8 then .error .bounds
          else if x.h = 0 ∨ x.w = 0 then .error .data
          else match splitScan (b.drop x.scan) [] with
            | none => .error .data
            | some (segs, last, rest) =>
              if rest ≠ [] then .error .data else
                match readScanData x last segs mcus 0 with
                | none => .error .data
                | some ms =>
                  let px := (List.range (x.h * x.w)).flatMap fun p =>
                    ppePixel ppe ((List.range comps.length).map fun i =>
                      i32ToF32 ((jpegSample ms perRow hmax vmax i (comps.getD i ⟨0, 1, 1, 0, 0, 0⟩) (p / x.w) (p % x.w) : Nat) : Int))
                  if px.all (outFin ppe.fp16) then .ok { h := x.h, w := x.w, c := comps.length, elems := px } else .error .data

/-- The elements of a slot of the given shape that a decoded input fills from the top left, the rest +0 (R339). -/
def slotElems (h w c : Nat) (d : Decoded) : List (BitVec 16) :=
  (List.range (h * w * c)).map fun p =>
    let ch := p % c
    let x := p / c % w
    let y := p / c / w
    if y < d.h ∧ x < d.w ∧ ch < d.c then d.elems.getD ((y * d.w + x) * d.c + ch) 0 else 0

end Sys2Proof.Machine
end

