-- ==== Sys2Proof/Machine/Capture.lean ====
section
/-! DEFINITION. Camera capture and pre-processing: line and frame packets, bands, camera batches, decode tasks and the counter
clears of both blocks (R326 to R344, R352 to R355), with the LINE domains they drive (R256, R258, R263). -/
namespace Sys2Proof.Machine

/-- A camera stream. -/
def State.cam (s : State) (i : Nat) : Cam := tblGet {} s.cap.cams i
/-- Changing a camera stream. -/
def State.setCam (s : State) (i : Nat) (x : Cam) : State := { s with cap := { s.cap with cams := tblSet {} s.cap.cams i x } }
/-- What the image declares of a stream. -/
def State.camCfg (s : State) (i : Nat) : Option CamCfg := s.image.bind fun im => im.cams.find? fun x => x.s == i
/-- A batch of the image. -/
def State.batch (s : State) (b : Nat) : Option BatchCfg := s.image.bind fun im => im.batches.find? fun x => x.b == b

/-- Lines of a band (R338). -/
def bandHeight (c : CamCfg) : Nat := if c.band = 0 then 16 else if c.band = 1 then 32 else 64
/-- Channels of a stream's data type (R327). -/
def chansOf (dt : Nat) : Nat := if dt = 0x1E ∨ dt = 0x24 then 3 else 1
/-- Marks of a frame (R329). -/
def markCount (c : CamCfg) : Nat := if c.mark = 0 then 0 else (c.height + 2 ^ c.mark - 1) / 2 ^ c.mark
/-- The batches that take a stream. -/
def State.batchesOf (s : State) (i : Nat) : List Nat :=
  (((s.image.map Image.batches).getD []).filter fun b => b.slots.contains (some i)).map BatchCfg.b

/-! ## Faults (R330) -/

/-- A frame fault of a stream: recorded, a stream error where the kind is one, and the frame in progress is corrupt. -/
def State.camFault (s : State) (i kind : Nat) : State :=
  let port := ((s.camCfg i).map CamCfg.port).getD 0
  let x := s.cam i
  let bad := fun f : CamFrame => if f.ended then f else { f with corrupt := true }
  let x := { x with frames := x.frames.map bad, err := x.err || [1, 4, 5, 6].contains kind }
  let s := s.setCam i x
  { s.recorded 0x800004 with cap := { s.cap with err := recWrite s.cap.err (i % 32 * 2 ^ 16 + port % 8 * 2 ^ 8 + kind % 8) } }

/-- A band complete in the frame in progress: it waits for the PPE; a band that comes before the previous one of its stream has
been taken is an overrun. -/
def State.pushBand (s : State) (i n : Nat) : State :=
  let late := (s.cam i).frames.any fun f => f.waiting != []
  let s := if late then s.camFault i 6 else s
  let x := s.cam i
  let add := fun f : CamFrame => if f.ended then f else { f with waiting := f.waiting ++ [n], inBand := 0 }
  s.setCam i { x with frames := x.frames.map add }

/-- A frame that has ended and whose last band has been converted is complete (R328): it stands in its buffer, counted; poisoned data in the
buffer make it ECC_UNCORRECTABLE (R122, R335). -/
def State.completeFrame (s : State) (i : Nat) : State :=
  let x := s.cam i
  match x.frames, s.camCfg i with
  | f :: rest, some c =>
    match f.buf with
    | none => s
    | some b =>
      if !f.ended || f.waiting != [] then s else
        let poison := s.spPoisoned (c.bufAddr + b * c.bufSize) c.bufSize
        let s := if poison then { s.recorded 0x800004 with cap := { s.cap with err := recWrite s.cap.err (i % 32 * 2 ^ 16 + c.port % 8 * 2 ^ 8 + 7) } } else s
        let old := tblGet {} x.bufs b
        let marks := f.marks ++ List.replicate (markCount c - f.marks.length) 0
        let new : CamBuf := { old with held := some f.seq, stamp := f.stamp, marks := marks, corrupt := f.corrupt || poison, poison := poison, batches := [] }
        let s := s.setCam i { x with frames := rest, bufs := tblSet {} x.bufs b new, last := f.seq }
        { s with cap := { s.cap with frameCnt := satInc s.cap.frameCnt,
                                     corruptCnt := (if f.corrupt || poison then satInc s.cap.corruptCnt else s.cap.corruptCnt) } }
  | _, _ => s

/-- The frame in progress ends: missing lines are filled, in bands, and it is complete at once where no band waits (R330,
R338). -/
def State.endFrame (s : State) (i : Nat) (c : CamCfg) : State :=
  match (s.cam i).frames.find? fun f => !f.ended with
  | none => s
  | some f =>
    let put := f.rows + (f.waiting.foldl (· + ·) 0)
    let left := c.height - put
    let bh := bandHeight c
    let s := if left = 0 then s else s.pushBand i (min left bh)
    let more := (List.range ((left - min left bh + bh - 1) / bh)).map fun k => min bh (left - min left bh - k * bh)
    let x := s.cam i
    let fin := fun f : CamFrame => if f.ended then f else { f with waiting := f.waiting ++ more, ended := true }
    (s.setCam i { x with frames := x.frames.map fin }).completeFrame i

/-! ## Packets -/

/-- A LINE domain's line start (R256, R258): φ moves on by one in RUN, and in the cycle of a loss (R283), and the estimate follows the
time between line starts. -/
def State.lineTick (s : State) (d : Nat) : State :=
  let x := s.dom d
  let counts := x.state == .run || s.lostNow d
  let s := if counts then s.setDom d { x with phi := x.phi + 1, baseTick := s.time.cnt, eventTick := s.time.cnt, events := x.events + 1 }
    else s.setDom d { x with eventTick := s.time.cnt, events := x.events + 1 }
  if counts && decide (x.events > 0) then s.observe d 1 (s.time.cnt - x.eventTick) else s

/-- A LINE domain's frame start (R256, R261, R263): a restart with φ unchanged; it ends a HOLDOVER. -/
def State.lineRestart (s : State) (d : Nat) : State :=
  let x := s.dom d
  let ph := x.phase s.time.cnt
  if x.state = .run ∨ x.state = .holdover then
    (s.setDom d { x with state := .run, phi := ph, baseTick := s.time.cnt }).restart d ph
  else s

/-- What every packet header brings: a corrected one is counted, an uncorrectable one is a fault of the frame in progress and
nothing else of the packet counts. -/
def State.header (s : State) (i : Nat) (l : LineIn) : State × Bool :=
  let s := if l.eccCorrected then { s with cap := { s.cap with eccCe := satInc s.cap.eccCe } } else s
  if l.eccUncorrectable then ((if (s.cam i).open_ then s.camFault i 1 else s), false) else (s, true)

/-- LINE_START (R256, R328 to R330, R338): the stream's LINE domains move on; the frame in progress takes the line, its mark, its
faults, and its band. -/
def execLineStart (t i : Nat) (l : LineIn) (s : State) : Out :=
  let s := s.advance t
  .next (match s.camCfg i with
    | none => s
    | some c =>
      if !s.powered then s else
        let (s, ok) := s.header i l
        if !ok then s else
          let s := List.foldl State.lineTick s (s.domsOf 2 i)
          if !(s.cam i).open_ then s else
            let s := if l.crcBad then s.camFault i 2 else s
            let s := if l.pixels ≠ c.width then s.camFault i 3 else s
            match (s.cam i).frames.find? fun f => !f.ended with
            | none => s
            | some f =>
              let x := s.cam i
              let inside := decide (f.lines < c.height)
              let marks := if c.mark ≠ 0 ∧ inside ∧ f.lines % 2 ^ c.mark = 0 then f.marks ++ [(s.dom c.stampDom).timeVal s.time.cnt] else f.marks
              let f' := { f with lines := f.lines + 1, marks := marks, inBand := (if inside then f.inBand + 1 else f.inBand) }
              let put := fun g : CamFrame => if g.ended then g else f'
              let s := s.setCam i { x with frames := x.frames.map put }
              if f'.inBand = bandHeight c then s.pushBand i f'.inBand else s)

/-- The buffer in which a new frame starts (R331): the one started longest ago that no batch locks, that no frame is filling, and
whose complete frame, if it holds one, has been delivered. -/
def State.freeBuf (s : State) (i : Nat) (c : CamCfg) : Option Nat :=
  let x := s.cam i
  let bs := s.batchesOf i
  let ok := fun b =>
    let y := tblGet {} x.bufs b
    y.locks == [] && !(x.frames.any fun f => f.buf == some b) && (y.held.isNone || bs.all y.batches.contains)
  ((List.range c.nbuf).filter ok).foldl (fun best b => match best with
    | none => some b
    | some a => if (tblGet {} x.bufs b).order < (tblGet {} x.bufs a).order then some b else some a) none

/-- FRAME_START (R256, R329 to R331): the LINE domains restart; the frame takes its FRAME_SEQ and stamp and starts in a buffer, or
is counted as not captured. -/
def execFrameStart (t i : Nat) (l : LineIn) (s : State) : Out :=
  let s := s.advance t
  .next (match s.camCfg i with
    | none => s
    | some c =>
      if !s.powered then s else
        let (s, ok) := s.header i l
        if !ok then s else
          let s := if (s.cam i).open_ then (s.camFault i 5).endFrame i c else s
          let s := List.foldl State.lineRestart s (s.domsOf 2 i)
          let free := s.freeBuf i c
          let x := s.cam i
          let stamp := (s.dom c.stampDom).timeVal s.time.cnt
          let err := x.err && decide ((s.domsOf 2 i).any fun d => (s.dom d).state == .run)
          match free with
          | none =>
            let s := s.setCam i { x with next := x.next + 1, open_ := true, err := err }
            { s with cap := { s.cap with staleCnt := satInc s.cap.staleCnt } }
          | some b =>
            let bufs := tblSet {} x.bufs b { order := x.starts + 1 }
            s.setCam i { x with next := x.next + 1, open_ := true, err := err, starts := x.starts + 1, bufs := bufs,
                                frames := x.frames ++ [{ seq := x.next, buf := some b, stamp := stamp }] })

/-- FRAME_END (R328, R330): the frame in progress ends; a line count other than HEIGHT, or an end without a start, is a fault. An
overrun of the frame leaves its own kind recorded (R344). -/
def execFrameEnd (t i : Nat) (l : LineIn) (s : State) : Out :=
  let s := s.advance t
  .next (match s.camCfg i with
    | none => s
    | some c =>
      if !s.powered then s else
        let (s, ok) := s.header i l
        if !ok then s
        else if !(s.cam i).open_ then s.camFault i 5
        else
          let s := s.setCam i { s.cam i with open_ := false }
          match (s.cam i).frames.find? fun f => !f.ended with
          | none => s
          | some f =>
            let overrun := (s.cap.err.toNat % 8 == 6) && (bitsOf s.cap.err.toNat 16 5 == i % 32) && f.corrupt
            let s := if f.lines ≠ c.height ∧ !overrun then s.camFault i 4 else s
            s.endFrame i c)

/-- BAND_CONVERTED (R330, R336 to R338): the oldest waiting band of a stream is converted into its frame buffer; lines that have not arrived, and
missing components, read +0; a NaN or an infinity in an output makes the frame corrupt. -/
def execBandConverted (t i : Nat) (pixels : List (BitVec 16)) (s : State) : Out :=
  let s := s.advance t
  .next (match s.camCfg i, (s.cam i).frames.find? fun f => f.waiting != [] with
    | some c, some f =>
      match f.waiting, f.buf with
      | n :: rest, some b =>
        if !s.powered then s else
          let ch := chansOf c.dt
          let px := (List.range (n * c.width)).flatMap fun p =>
            ppePixel c.ppe ((List.range ch).map fun j => i32ToF32 ((if f.rows + p / c.width < f.lines then (pixels.getD (p * ch + j) 0).toNat else 0) : Nat))
          let bytes := px.flatMap fun v => leBytes v.toNat 2
          let s := s.spWrite (c.bufAddr + b * c.bufSize + f.rows * c.width * ch * 2) bytes
          let bad := !px.all (outFin c.ppe.fp16)
          let x := s.cam i
          let put := fun g : CamFrame => if g.seq = f.seq then { g with waiting := rest, rows := g.rows + n, corrupt := g.corrupt || bad } else g
          let s := s.setCam i { x with frames := x.frames.map put }
          ({ s with ppe := { s.ppe with bandCnt := satInc s.ppe.bandCnt } }).completeFrame i
      | _, _ => s
    | _, _ => s)

/-- CSI_PORT_CHANGE (R353): a camera port starts or stops receiving. -/
def execCsiPortChange (p : Nat) (up : Bool) (s : State) : Out :=
  .next (if s.powered && p < 8 then { s with cap := { s.cap with portUp := (if up then maskSet s.cap.portUp p else maskClear s.cap.portUp p) } } else s)

/-! ## Camera batches (R331 to R335) -/

/-- What a slot record carries (R333). -/
structure SlotRec where
  status  : Status
  stream  : Nat
  seq     : Nat
  time    : Int := 0
  age     : Nat := 0
  w       : Nat := 0
  h       : Nat := 0
  buf     : Nat := 0xFF
  skipped : Nat := 0
  marks   : List Int := []
  deriving DecidableEq, Repr

/-- The 32 bytes of a slot record. -/
def SlotRec.bytes (r : SlotRec) (slot marks : Nat) : List Byte :=
  leBytes r.status.toNat 2 ++ leBytes slot 1 ++ leBytes r.stream 1 ++ leBytes r.seq 4 ++ timeBytes r.time ++ leBytes r.age 4 ++ leBytes r.w 2 ++
    leBytes r.h 2 ++ leBytes r.buf 1 ++ leBytes (min r.skipped 255) 1 ++ leBytes marks 2

/-- A batch buffer written (R333): the header, the slot records and the mark areas. `marks` gives each slot's area with its length in marks. -/
def State.writeBatch (s : State) (b : BatchCfg) (recs : List SlotRec) (areas : List Nat) : State :=
  let seq := tblGet 0 s.cap.batchSeq b.b
  let valid := (List.range recs.length).foldl (fun v k => match recs[k]? with
    | some r => if r.status = stOk then v + 2 ^ k else v
    | none => v) 0
  let head := leBytes valid 4 ++ leBytes seq.toNat 4 ++ leBytes recs.length 1 ++ List.replicate 7 0 ++ leBytes (s.stamp b.domain).toNat 8 ++ List.replicate 40 0
  let rows := (List.range recs.length).flatMap fun k => match recs[k]? with
    | some r => r.bytes k (if areas.getD k 0 = 0 then 0 else b.marks.getD k 0)
    | none => []
  let s := s.spWrite b.addr (head ++ rows ++ List.replicate (recs.length % 2 * 32) 0)
  let s := List.foldl (fun s k =>
    let n := areas.getD k 0
    if n = 0 then s else
      let ms := (recs[k]?.map SlotRec.marks).getD []
      let bytes := (List.range n).flatMap fun j => timeBytes (ms.getD j 0)
      s.spWrite (b.addr + 64 * b.marks.getD k 0) (bytes ++ List.replicate ((12 * n + 63) / 64 * 64 - 12 * n) 0)) s (List.range recs.length)
  { s with cap := { s.cap with batchSeq := tblSet 0 s.cap.batchSeq b.b (seq + 1) } }

/-- A camera slot filled (R332): its record, and the stream with the frame marked as delivered and its buffer locked. -/
def State.fillSlot (s : State) (b : BatchCfg) (id : WorkId) (i : Nat) : State × SlotRec :=
  let x := s.cam i
  let c := (s.camCfg i).getD { s := i, port := 0, vc := 0, dt := 0, width := 0, height := 0 }
  let cand := x.bufs.filter fun e => e.2.held.isSome && !e.2.batches.contains b.b
  let best := cand.foldl (fun (m : Option (Nat × CamBuf)) e => match m with
    | none => some e
    | some a => if a.2.order < e.2.order then some e else some a) none
  match best with
  | none =>
    ({ s with cap := { s.cap with staleCnt := satInc s.cap.staleCnt } },
      { status := stFrameStale, stream := i, seq := 0, age := 0xFFFFFFFF })
  | some (k, f) =>
    let raw := ((s.dom c.stampDom).timeVal s.time.cnt - f.stamp) / 65536
    let age := min raw.toNat 0xFFFFFFFF
    let st := if f.poison then stEcc else if f.corrupt then stDataError else if age > c.maxAge then stFrameStale else stOk
    let ok := st == stOk
    let mark := fun n (y : CamBuf) =>
      let y := if y.held.isSome ∧ y.order ≤ f.order ∧ !y.batches.contains b.b then { y with batches := y.batches ++ [b.b] } else y
      if n = k ∧ ok then { y with locks := y.locks ++ [id] } else y
    let s := s.setCam i { x with bufs := tblMap {} mark x.bufs }
    let s := if st = stFrameStale then { s with cap := { s.cap with staleCnt := satInc s.cap.staleCnt } } else s
    (s, { status := st, stream := i, seq := (f.held.getD 0).toNat, time := f.stamp, age := age, w := (if ok then c.width else 0),
          h := (if ok then c.height else 0), buf := (if ok then k else 0xFF), skipped := cand.length - 1, marks := f.marks })

/-- A camera batch delivered as its consumer fires (R331 to R334): every slot in ascending order, then the whole buffer. -/
def State.deliverBatch (s : State) (id : WorkId) (b : BatchCfg) : State :=
  let (s, recs) := List.foldl (fun (a : State × List SlotRec) slot => match slot with
    | some i =>
      let (s, r) := a.1.fillSlot b id i
      (s, a.2 ++ [r])
    | none => ({ a.1 with cap := { a.1.cap with staleCnt := satInc a.1.cap.staleCnt } },
        a.2 ++ [{ status := stFrameStale, stream := 0xFF, seq := 0, age := 0xFFFFFFFF }])) (s, []) b.slots
  let areas := b.slots.map fun o => (o.bind s.camCfg).elim 0 markCount
  s.writeBatch b recs areas

/-- The buffers that a piece of work has locked are unlocked (R331). -/
def State.unlockBufs (s : State) (id : WorkId) : State :=
  let free := fun (_ : Nat) (y : CamBuf) => { y with locks := y.locks.filter fun w => w != id }
  let one := fun (_ : Nat) (x : Cam) => { x with bufs := tblMap {} free x.bufs }
  { s with cap := { s.cap with cams := tblMap {} one s.cap.cams } }

/-! ## Decode tasks (R339, R340) -/

/-- A decode task starts (R339): argument 1 gives SLOTS and the format. -/
def State.startDecode (s : State) (id : WorkId) (batch arg1 : Nat) : State :=
  { s with ppe := { s.ppe with decodes := s.ppe.decodes ++ [{ id := id, batch := batch, tensor := bitOf arg1 8, slots := arg1 % 256 }] } }

/-- What an input comes to: its status, its size, and its slot's elements. -/
def decodeInput (b : BatchCfg) (tensor : Bool) (h : HostRead) : Status × Nat × Nat × List (BitVec 16) :=
  match h with
  | .failed => (stEcc, 0, 0, [])
  | .data bytes =>
    match (if tensor then decodeTensor b.height b.width b.chans b.fp16 bytes else decodeJpeg b.height b.width b.chans b.ppe bytes) with
    | .ok d => (stOk, d.h, d.w, slotElems b.height b.width b.chans d)
    | .error .bounds => (stDecodeBounds, 0, 0, [])
    | .error .data => (stDataError, 0, 0, [])

/-- DECODE_INPUT_COMPLETE (R337, R339, R340): the next input of the decode task fetched first is done and its slot written; after the last one the
batch buffer is written and the command completes with VALID and the count of valid slots. -/
def execDecodeInputComplete (t c : Nat) (tag : Word) (input : HostRead) (s : State) : Out :=
  let s := s.advance t
  .next (match s.ppe.decodes with
    | [] => s
    | d :: rest =>
      match s.batch d.batch with
      | none => s
      | some b =>
        if !s.powered || d.id != .cmd c tag then s else
          let k := d.done.length
          let (st, h, w, elems) := decodeInput b d.tensor input
          let size := b.height * b.width * b.chans * 2
          let base := b.tensor + k * size
          let poison := s.spPoisoned base size
          let st := if st = stOk ∧ poison then stEcc else st
          let s := s.spWrite base (if st = stOk then elems.flatMap fun v => leBytes v.toNat 2 else List.replicate size 0)
          let s := if st = stOk then s else s.recorded 0x900004
          let s := { s with ppe := { s.ppe with
            decodeCnt := (if st = stOk then satInc s.ppe.decodeCnt else s.ppe.decodeCnt),
            boundsCnt := (if st = stDecodeBounds then satInc s.ppe.boundsCnt else s.ppe.boundsCnt),
            dataerr := (if st = stDataError then satInc s.ppe.dataerr else s.ppe.dataerr),
            err := (if st = stOk then s.ppe.err else recWrite s.ppe.err (k % 32 * 2 ^ 16 + st.toNat)) } }
          let d' := { d with done := d.done ++ [(st, h, w)], unread := d.unread || input == .failed }
          if d'.done.length < d.slots then { s with ppe := { s.ppe with decodes := d' :: rest } }
          else
            let s := { s with ppe := { s.ppe with decodes := rest } }
            let recs := (List.range d'.done.length).map fun j =>
              let e := d'.done.getD j (stDataError, 0, 0)
              ({ status := e.1, stream := 0xFF, seq := j, h := e.2.1, w := e.2.2, buf := (if e.1 = stOk then j else 0xFF) } : SlotRec)
            let s := s.writeBatch b recs []
            let okCount := countIf (fun r : SlotRec => r.status == stOk) recs
            let valid := (List.range recs.length).foldl (fun v j => match recs[j]? with
              | some r => if r.status = stOk then v + 2 ^ j else v
              | none => v) 0
            let final := if d'.unread then stEcc else if okCount = recs.length then stOk else stDataError
            match s.cmd.running.find? fun r => r.cmd.ctx == c && r.cmd.tag == tag with
            | none => s
            | some r =>
              let s := { s with cmd := { s.cmd with running := s.cmd.running.erase r },
                                cmp := { s.cmp with works := s.cmp.works.filter fun w => w.id != d.id } }
              s.complete r.cmd final [w32 valid, w32 okCount])

/-! ## Clears -/

/-- CAP_CLEAR_ECC. -/
def execCapClearEcc (s : State) : Out :=
  .next (s.hostWrite fun w x => { x with cap := { x.cap with eccCe := sinceMark w.cap.eccCe x.cap.eccCe } })
/-- CAP_CLEAR_CORRUPT. -/
def execCapClearCorrupt (s : State) : Out :=
  .next (s.hostWrite fun w x => { x with cap := { x.cap with corruptCnt := sinceMark w.cap.corruptCnt x.cap.corruptCnt } })
/-- CAP_CLEAR_STALE. -/
def execCapClearStale (s : State) : Out :=
  .next (s.hostWrite fun w x => { x with cap := { x.cap with staleCnt := sinceMark w.cap.staleCnt x.cap.staleCnt } })
/-- CAP_CLEAR_FRAME. -/
def execCapClearFrame (s : State) : Out :=
  .next (s.hostWrite fun w x => { x with cap := { x.cap with frameCnt := sinceMark w.cap.frameCnt x.cap.frameCnt } })
/-- PPE_CLEAR_DATAERR. -/
def execPpeClearDataerr (s : State) : Out :=
  .next (s.hostWrite fun w x => { x with ppe := { x.ppe with dataerr := sinceMark w.ppe.dataerr x.ppe.dataerr } })
/-- PPE_CLEAR_BOUNDS. -/
def execPpeClearBounds (s : State) : Out :=
  .next (s.hostWrite fun w x => { x with ppe := { x.ppe with boundsCnt := sinceMark w.ppe.boundsCnt x.ppe.boundsCnt } })
/-- PPE_CLEAR_DECODE. -/
def execPpeClearDecode (s : State) : Out :=
  .next (s.hostWrite fun w x => { x with ppe := { x.ppe with decodeCnt := sinceMark w.ppe.decodeCnt x.ppe.decodeCnt } })
/-- PPE_CLEAR_BAND. -/
def execPpeClearBand (s : State) : Out :=
  .next (s.hostWrite fun w x => { x with ppe := { x.ppe with bandCnt := sinceMark w.ppe.bandCnt x.ppe.bandCnt } })

end Sys2Proof.Machine
end

