-- ==== Sys2Proof/Machine/Scratch.lean ====
section
/-! DEFINITION. The rows of the scratchpad port, the transfer engine and the address generator (R100 to R126, R153, R154). -/
namespace Sys2Proof.Machine

/-! ## The port-slot pattern -/

/-- The client that owns a lane in a phase of a port mode (R108); none in an undefined mode. -/
def slotOwner (mode lane phase : Nat) : Option SpClient :=
  match mode, lane with
  | 0, 0 => some .af
  | 0, 1 => some .sf
  | 0, 2 => some (if phase < 8 then .rw else .dx)
  | 0, 3 => some (if phase < 8 then .vp else .narrow)
  | 1, 0 => some .af
  | 1, 1 => some .sf
  | 1, 2 => some .sf
  | 1, 3 => some (if phase < 6 then .rw else if phase < 8 then .dx else .narrow)
  | 2, 0 => some .af
  | 2, 1 => some .af
  | 2, 2 => some .sf
  | 2, 3 => some (if phase < 4 then .rw else if phase < 8 then .dx else .narrow)
  | 3, 0 => some .mv
  | 3, 1 => some .sf
  | 3, 2 => some (if phase < 8 then .af else .rw)
  | 3, 3 => some (if phase < 4 then .dx else if phase < 8 then .vp else .narrow)
  | 4, 0 => some .vp
  | 4, 1 => some .vp
  | 4, 2 => some (if phase < 8 then .gx else .xw)
  | 4, 3 => some (if phase < 8 then .dx else .narrow)
  | _, _ => none

/-- The KIND of a refusal: 0 narrow read, 1 narrow write, 2 wide read, 3 wide write (R125). -/
def accKind (a : SpAcc) : Nat := (if a.client = .narrow then 0 else 2) + (if a.write.isSome then 1 else 0)

/-- Whether the window of a slot is that of a client: the sequencer's for the feeds and the results of the feet, the MVU's, the VPU's, the
address generator's, the transfer engine's, and any for a narrow client (R104). -/
def clientSlot (c : SpClient) (slot : Nat) : Bool := match c with
  | .af | .rw => slot == 64 || slot == 68
  | .sf => slot == 64
  | .mv => slot == 68
  | .vp => slot == 65
  | .gx | .xw => slot == 66
  | .dx => slot == 67
  | .narrow => decide (slot < 69)

/-- Whether a wide client's access moves a whole segment: all of them but the pieces that the expansion gathers (R107, R119). -/
def spWhole (a : SpAcc) : Bool := a.client != .narrow && a.client != .gx

/-- The banks that an access at a slice offset uses, by number (R103): the eight of its group for a segment, one otherwise. -/
def spBanks (a : SpAcc) (o : Nat) : List Nat := if spWhole a then (List.range 8).map (8 * (o / 2048 % 4) + ·) else [o / 256 % 32]

/-- The narrow allocation of a client of a logical region (R111): bank slots by phase and bank. -/
def State.narrowSlots (s : State) (lreg client : Nat) : List (Nat × Nat) :=
  (((s.image.map Image.narrow).getD []).filter fun n => n.lreg == lreg && n.client == client).flatMap NarrowClaim.slots

/-- Whether the slot of an access serves it (R103, R107, R108, R111): its lane in the present phase belongs to the client and reaches the
bank group of its address; a wide access is one aligned segment, a piece lies in one line, a narrow access lies in one 64-byte block and
its bank of the slot is allotted to its client. -/
def State.slotServes (s : State) (k : Nat) (a : SpAcc) (o : Nat) : Bool :=
  let phase := s.cycleOf k % 16
  slotOwner (s.port k).portMode a.lane phase == some a.client && clientSlot a.client a.slot &&
    decide ((a.lane + phase) % 4 = o / 2048 % 4) && decide (a.length ≥ 1) &&
    (if a.client = .narrow then decide (o % 64 + a.length ≤ 64) && ((s.lregOf k).any fun l => (s.narrowSlots l a.slot).contains (phase, o / 256 % 32))
      else if a.client = .gx then decide (o % 256 + a.length ≤ 256)
      else decide (o % 2048 = 0 ∧ a.length = 2048))

/-- Whether no bank of an access has served another in this cycle (R106). -/
def State.banksFree (s : State) (k : Nat) (a : SpAcc) (o : Nat) : Bool :=
  let x := s.port k
  x.usedCyc != s.cycleOf k || (spBanks a o).all fun b => !maskBit x.usedBanks b

/-- The banks of an access marked as used in this cycle. -/
def State.useBanks (s : State) (k : Nat) (a : SpAcc) (o : Nat) : State :=
  let x := s.port k
  let used : BitVec 32 := if x.usedCyc = s.cycleOf k then x.usedBanks else 0
  s.setPort k { x with usedCyc := s.cycleOf k, usedBanks := (spBanks a o).foldl maskSet used }

/-- The code of a client that a WALK descriptor can feed (R116). -/
def walkCode : SpClient → Option Nat
  | .af => some 0
  | .sf => some 1
  | .mv => some 2
  | .rw => some 3
  | .vp => some 4
  | _ => none

/-- The walk of a wide client, where it has one. -/
def State.walkOf (s : State) (k : Nat) (c : SpClient) : Option Walk := (walkCode c).bind fun i =>
  ((s.port k).walks.find? fun e => e.1 == i).map Prod.snd

/-- The segment of a walk that a slot of a bank group takes (R110): the next one that lies in the group; a read no more than 8 segments ahead of
the oldest one not yet delivered. -/
def Walk.next (x : Walk) (read : Bool) (group : Nat) : Option Nat :=
  (if read then x.todo.take 8 else x.todo).find? fun g => g % 4 == group && !x.got.any fun e => e.1 == g

/-- Whether a client's walk lets it make an access (R110). -/
def State.walkServes (s : State) (k : Nat) (a : SpAcc) (spa : Nat) : Bool := match s.walkOf k a.client with
  | none => true
  | some x => x.next a.write.isNone (spa / 2048 % 4) == some (spa / 2048)

/-- The segments at the front of a walk that have been read, or written, are handed on. -/
def Walk.deliver : Nat → Walk → Walk
  | 0, x => x
  | n + 1, x => match x.todo with
    | [] => x
    | g :: rest =>
      if x.got.any fun e => e.1 == g then Walk.deliver n { todo := rest, got := x.got.filter fun e => e.1 != g, done := x.done + 1 } else x

/-- A segment of a walk has been read into the staging store, or written. -/
def State.walkOn (s : State) (k : Nat) (a : SpAcc) (spa : Nat) (bytes : List Byte) : State := match s.walkOf k a.client, walkCode a.client with
  | some x, some i =>
    let y := Walk.deliver x.todo.length { x with got := x.got ++ [(spa / 2048, bytes)] }
    let q := s.port k
    s.setPort k { q with walks := tblInsert (tblErase q.walks i) i y }
  | _, _ => s

/-- A double-bit error (R122): its line is poisoned and recorded; `bank` is one of those accessed, or else the first of them. -/
def State.doubleError (s : State) (k : Nat) (a : SpAcc) (o bank : Nat) : State :=
  let bs := spBanks a o
  let b := if bs.contains bank then bank else bs.headD 0
  let line := o / 8192 * 8192 + 256 * b
  let s := s.eccRecord k line
  let at_ := (k * sliceLen + line) / 256
  { s with cmp := { s.cmp with spPoison := at_ :: s.cmp.spPoison.erase at_ } }

/-- A refused access of a unit (R95, R105): a tile core that made it halts; otherwise the unit's task ends, and with it its passes. -/
def State.refuseAccess (s : State) (k slot kind offset : Nat) (work : Option WorkId) (cls : Nat) : State :=
  if slot < 64 then (s.refuse k slot kind offset work 2).haltCore k slot .refused
  else match work with
    | some id => ((s.refuse k slot kind offset work cls).dropPasses id).settle
    | none => s.refuse k slot kind offset work cls

/-- SP_ACCESS (R105 to R107, R110, R122): in its slot of the port pattern a client reads or writes; an access outside its window is refused,
recorded and not performed; a single-bit error is corrected and counted; a double-bit error poisons its line and is recorded, and
the work that consumes poisoned data completes with ECC_UNCORRECTABLE. A slot that no running task holds makes no access. -/
def execSpAccess (t d r : Nat) (a : SpAcc) (s : State) : Out :=
  let s := s.advance t
  let k := rkey d r
  let w := s.winOf k a.slot
  let spa := w.base + a.offset
  let o := spa % sliceLen
  .next (if !s.powered || !s.available k || w.work.isNone || w.stopped then s
    else if !s.inWin w a.offset a.length then s.refuseAccess k a.slot (accKind a) a.offset w.work a.cls
    else if !s.slotServes k a o || !s.banksFree k a o || !s.walkServes k a spa then s
    else
      let s := s.useBanks k a o
      let s := match a.ecc with
        | .clean => s
        | .corrected n => s.setPort k { s.port k with eccCe := satAdd (s.port k).eccCe n }
        | .double bank => s.doubleError k a o bank
      match a.write with
      | some bs => (s.spWrite spa (bytesAt bs 0 a.length)).walkOn k a spa []
      | none =>
        let s := s.walkOn k a spa (s.spRead spa a.length)
        if s.spPoisoned spa a.length then (s.addStatus w.work stEcc).faultUnit k else s)

/-- Whether work of a region has begun under the port mode in force. -/
def State.modeInUse (s : State) (k : Nat) : Bool := (s.modeUsers k).any fun u => u.2 && u.1 == (s.port k).portMode

/-- PORT_MODE_APPLY (R109): the pending port mode takes effect at a phase 0 of the region's frame of 16 cycles, once nothing has begun
under the mode in force. -/
def execPortModeApply (t d r : Nat) (s : State) : Out :=
  let s := s.advance t
  let k := rkey d r
  let x := s.port k
  .next (if s.powered && s.available k && x.portPending && s.cycleOf k % 16 == 0 && !s.modeInUse k
    then (s.setPort k { x with portMode := x.portNext, portPending := false, portNext := 0 }).settle else s)

/-! ## Transfers -/

/-- A transfer descriptor read from its 64 bytes (R114). -/
def xferOf (rd : Nat → Byte) (o : Nat) : XferDesc :=
  let f := rdLe rd
  { kind := f o 1, signal := bitOf (f (o + 1) 1) 0, zero := bitOf (f (o + 1) 1) 1, syncId := f (o + 2) 2, rowBytes := f (o + 4) 4 % 2 ^ 23,
    rows := f (o + 8) 2, remotePkg := f (o + 10) 1 % 8, spOffset := f (o + 12) 4, spStride := f (o + 16) 4, farStride := f (o + 20) 4,
    farAddr := f (o + 24) 8 }

/-- The checks of R114 on a descriptor; `packages` is the number of packages of the system. -/
def xferBad (packages : Nat) (x : XferDesc) : Bool :=
  decide (x.kind > 5 ∨ x.rowBytes = 0 ∨ x.rowBytes > sliceLen ∨ x.rows = 0 ∨ x.remotePkg ≥ packages)

/-- A transfer put behind those that a region's engine has been given (R113). -/
def State.queueXfer (s : State) (k : Nat) (x : Xfer) : State :=
  let q := s.port k
  s.setPort k { q with xfers := q.xfers ++ [x] }

/-- The first transfer of a region's engine leaves it. -/
def State.popXfer (s : State) (k : Nat) : State :=
  let w := s.winOf k 67
  let s := s.setWin k 67 { w with work := none, stopped := false }
  let q := s.port k
  s.setPort k { q with xfers := q.xfers.drop 1, xferRun := false }

/-- A transfer of a piece of work whose descriptor lies at an offset (R104, R113, R115): a task's in its own windows, one of a step in the
window of the region's sequencer or MVU and the LPDDR of the partition (log entry 205). -/
def State.xferFor (s : State) (k : Nat) (w : Work) (off : Nat) : Xfer :=
  let c := s.partCfg w.part
  match w.task with
  | some t => { src := .at_ off, base := t.winBase, bound := t.winBound, lp := c.lpBase + t.lpBase, lpLen := t.lpLen, part := w.part,
                cls := w.cls, work := some w.id }
  | none =>
    let v := if (s.winOf k 64).work = some w.id then s.winOf k 64 else s.winOf k 68
    let own := v.work == some w.id
    { src := .at_ off, base := v.base, bound := (if own then v.bound else 0), lp := c.lpBase, lpLen := c.lpLen, part := w.part, cls := w.cls,
      work := some w.id }

/-- A transfer that fails (R115): the status is recorded in RGN_XFER_ERR, its counter is not signalled, and the fault is reported. Its work
completes with the status; a flush makes the sequence that it serves corrupt (R145). -/
def State.failXfer (s : State) (k : Nat) (x : Xfer) (st : Status) : State :=
  let q := s.port k
  let s := ((s.recorded (rgnAddr k + 0x42C)).setPort k { q with xferErr := recWrite q.xferErr st.toNat }).popXfer k
  let s := match x.owner, x.work with
    | some i, some id => s.addPos id i st
    | _, _ => s.addStatus x.work st
  if st = stEcc || x.cls ≤ 1 then s.faultUnit k else s

/-- The engine of a region takes its first waiting descriptor (R113, R114): one that is not aligned or that R114 refuses gives its work
BAD_PARAM. -/
def State.startXfer (s : State) (k : Nat) : State :=
  match (s.port k).xfers with
  | [] => s
  | x :: rest =>
    let run := fun d : XferDesc =>
      let s := s.setWin k 67 { base := x.base, bound := x.bound, part := x.part, work := x.work }
      s.setPort k { s.port k with xfers := { x with desc := d } :: rest, xferRun := true, xferKind := d.kind }
    match x.src with
    | .made d => run d
    | .at_ off =>
      let d := xferOf (fun o => s.spByte (x.base + o)) off
      if off % 64 ≠ 0 then (s.popXfer k).addStatus x.work stBadParam
      else if !s.inRange x.base x.bound off 64 then (s.popXfer k).refuseAccess k 67 0 off x.work x.cls
      else if s.spPoisoned (x.base + off) 64 then s.failXfer k x stEcc
      else if xferBad (s.glob.pkgCount.toNat + 1) d then (s.popXfer k).addStatus x.work stBadParam
      else run d

/-- XFER_START (R113, R114): the engine takes its next descriptor, one at a time in the order in which they were started; the row may bring
one that a step or a task's program starts. -/
def execXferStart (t d : Nat) (r : XferReq) (s : State) : Out :=
  let s := s.advance t
  let k := rkey d r.region
  .next (if !s.powered || !s.available k then s else
    let s := match r.src.bind fun e => (s.work e.1).map fun w => s.xferFor k w e.2 with
      | some x => s.queueXfer k x
      | none => s
    if (s.port k).xferRun then s else s.startXfer k)

/-- How a row of a transfer fails: refused at the near end, refused at the far end, or on poisoned data (R115). -/
inductive RowFail where
  | near (offset : Nat)
  | far (offset : Nat)
  | ecc
  deriving DecidableEq, Repr

/-- Whether the window is the source of a transfer. -/
def pushes (kind : Nat) : Bool := kind == 0 || kind == 2 || kind == 4

/-- Row `i` of a transfer (R113 to R115): both ends are checked, the source is read and the destination written. `far` holds what
a remote package has sent. -/
def State.xferRow (s : State) (x : Xfer) (far : List Byte) (i : Nat) : Except RowFail State :=
  let d := x.desc
  let off := d.spOffset + i * d.spStride
  let fo := d.farAddr + i * d.farStride
  if !s.inRange x.base x.bound off d.rowBytes then .error (.near off)
  else if (d.kind ≤ 1) && !(decide (fo + d.rowBytes ≤ 32 * sliceLen) && s.spaOf x.part fo d.rowBytes && s.spaBound fo d.rowBytes) then .error (.far fo)
  else if (d.kind = 2 ∨ d.kind = 3) && decide (fo + d.rowBytes > x.lpLen) then .error (.far fo)
  else
    let bad := if d.zero then false
      else if pushes d.kind then s.spPoisoned (x.base + off) d.rowBytes
      else if d.kind = 1 then s.spPoisoned fo d.rowBytes
      else if d.kind = 3 then s.lpPoisoned (x.lp + fo) d.rowBytes
      else false
    if bad then .error .ecc
    else
      let src := if d.zero then List.replicate d.rowBytes 0
        else if pushes d.kind then s.spRead (x.base + off) d.rowBytes
        else if d.kind = 1 then s.spRead fo d.rowBytes
        else if d.kind = 3 then s.lpRead (x.lp + fo) d.rowBytes
        else bytesAt far (i * d.rowBytes) d.rowBytes
      .ok (if d.kind = 0 then s.spWrite fo src
        else if d.kind = 2 then s.lpWrite (x.lp + fo) src
        else if d.kind = 4 then s
        else s.spWrite (x.base + off) src)

/-- Rows of a transfer from row `i` on, up to the first that fails; rows already written stay written (R115). -/
def State.xferRows (s : State) (x : Xfer) (far : List Byte) (i : Nat) : Nat → State × Option RowFail
  | 0 => (s, none)
  | n + 1 => match s.xferRow x far i with
    | .error e => (s, some e)
    | .ok s' => s'.xferRows x far (i + 1) n

/-- What a read of a remote package brought. -/
def farBytes : HostRead → List Byte
  | .data b => b
  | .failed => []

/-- A transfer has ended at its last row (R115, R144): it is counted, a flush lets its layer's staging area be written again, and the counter
of a SIGNAL descriptor is signalled. -/
def State.endXfer (s : State) (k : Nat) (x : Xfer) : State :=
  let s := s.popXfer k
  let s := s.setPort k { s.port k with xferDone := (s.port k).xferDone + 1 }
  let s := match x.src with
    | .made _ =>
      let s := { s with srv := { s.srv with flushCnt := satInc s.srv.flushCnt } }
      List.foldl (fun s e => s.spWrite e.1 e.2) s x.later
    | .at_ _ => s
  if x.desc.signal then
    let (s, st) := s.signalVid x.part x.desc.syncId x.cls
    s.addStatus x.work st
  else s

/-- XFER_COMPLETE (R115): the rows of the running transfer are written, it is counted, and its counter is signalled; at the
first row that fails it ends as XFER_FAIL describes, and so it does where no port reaches the remote package (R463). -/
def execXferComplete (t d r : Nat) (h : HostRead) (s : State) : Out :=
  let s := s.advance t
  let k := rkey d r
  .next (if !s.powered || !(s.port k).xferRun then s else
    match (s.port k).xfers with
    | [] => s
    | x :: _ =>
      if (x.desc.kind = 4 ∨ x.desc.kind = 5) ∧ s.remoteDown x.desc.remotePkg ∨ x.desc.kind = 5 ∧ !x.desc.zero ∧ h = .failed then
        s.failXfer k x stEcc
      else
        match s.xferRows x (farBytes h) 0 x.desc.rows with
        | (s, some (.near off)) => (s.popXfer k).refuseAccess k 67 (if pushes x.desc.kind then 2 else 3) off x.work x.cls
        | (s, some (.far off)) => (s.boundRecord k 67 4 off).failXfer k x stNotAuth
        | (s, some .ecc) => s.failXfer k x stEcc
        | (s, none) => s.endXfer k x)

/-- XFER_FAIL (R115): a remote refusal, an uncorrectable error or a faulty link ends the running transfer after some rows, whose bytes a
remote package has sent. -/
def execXferFail (t d r : Nat) (status : BitVec 16) (rows : XferDone) (s : State) : Out :=
  let s := s.advance t
  let k := rkey d r
  .next (if !s.powered || !(s.port k).xferRun || (status != stNotAuth && status != stEcc) then s else
    match (s.port k).xfers with
    | [] => s
    | x :: _ => (s.xferRows x (farBytes rows.far) 0 (min rows.rows x.desc.rows)).1.failXfer k x status)

/-! ## The address generator -/

/-- Element size in bytes (R116). -/
def elemSize (e : Nat) : Nat := if e = 0 then 1 else if e = 3 then 4 else 2

/-- OH or OW of R117; none where the numerator is negative. -/
def outDim (n p0 p1 dil k stride : Nat) : Option Nat :=
  if n + p0 + p1 < dil * (k - 1) + 1 then none else some ((n + p0 + p1 - dil * (k - 1) - 1) / stride + 1)

/-- Whether output index `o` of one axis has no tap inside an input of `n`. -/
def padOnly (n p stride k dil o : Nat) : Bool :=
  (List.range k).all fun i => decide (o * stride + i * dil < p ∨ o * stride + i * dil - p ≥ n)

/-- Whether some window of a POOL descriptor's band consists only of pad taps (R120). -/
def allPadWindow (a : AgenDesc) : Bool :=
  ((List.range a.oyCnt).any fun i => padOnly a.h a.pt a.sh a.kh a.dh (a.oy0 + i)) ||
    ((List.range a.ow).any fun x => padOnly a.w a.pl a.sw a.kw a.dw x)

/-- The checks of R116, R117 and R120 on an address-generator descriptor. -/
def agenBad (a : AgenDesc) : Bool :=
  let e := elemSize a.elem
  decide (a.op = 0 ∨ a.op > 4) || decide (a.elem > 3) || (decide (a.op ≠ 1) && decide (a.elem ≠ 1 ∧ a.elem ≠ 2)) ||
    [a.n, a.h, a.w, a.c, a.kh, a.kw, a.sh, a.sw, a.dh, a.dw, a.oyCnt].any (· == 0) ||
    decide (a.rowPitch < a.w * a.c * e) || (decide (a.n > 1) && decide (a.imgPitch < a.h * a.rowPitch)) ||
    decide (outDim a.h a.pt a.pb a.dh a.kh a.sh ≠ some a.oh) || decide (outDim a.w a.pl a.pr a.dw a.kw a.sw ≠ some a.ow) ||
    decide (a.oy0 + a.oyCnt > a.oh) || (decide (a.op = 3) && (decide (a.poolKind > 2) || allPadWindow a))

/-- How an address-generator descriptor fails: a refused access with its KIND and offset, or poisoned data. -/
inductive AgenFail where
  | refused (kind offset : Nat)
  | ecc
  deriving DecidableEq, Repr

/-- Bytes read in the generator's window. -/
def State.agenRead (s : State) (w : Window) (kind off n : Nat) : Except AgenFail (List Byte) :=
  if !s.inWin w off n then .error (.refused kind off)
  else if s.spPoisoned (w.base + off) n then .error .ecc
  else .ok (s.spRead (w.base + off) n)

/-- Bytes written in the generator's window. -/
def State.agenWrite (s : State) (w : Window) (off : Nat) (bs : List Byte) : Except AgenFail State :=
  if s.inWin w off bs.length then .ok (s.spWrite (w.base + off) bs) else .error (.refused 3 off)

/-- The results of several reads in order, or the first failure. -/
def allOk {α ε : Type} : List (Except ε α) → Except ε (List α)
  | [] => .ok []
  | .error e :: _ => .error e
  | .ok a :: rest => match allOk rest with
    | .ok l => .ok (a :: l)
    | .error e => .error e

/-- The offset of the tap (ky, kx) of output (n, oy, ox), or none for a pad tap (R117). -/
def tapAt (a : AgenDesc) (n oy ox ky kx : Nat) : Option Nat :=
  let y := oy * a.sh + ky * a.dh
  let x := ox * a.sw + kx * a.dw
  if y < a.pt ∨ x < a.pl ∨ y - a.pt ≥ a.h ∨ x - a.pl ≥ a.w then none
  else some (a.src + n * a.imgPitch + (y - a.pt) * a.rowPitch + (x - a.pl) * a.c * elemSize a.elem)

/-- An address-generator descriptor read from its 64 bytes (R116). -/
def agenOf (rd : Nat → Byte) (o : Nat) : AgenDesc :=
  let f := fun a n => rdLe rd (o + a) n
  { op := f 0 1, elem := f 1 1, client := f 2 1, signal := bitOf (f 3 1) 0, padSel := bitOf (f 3 1) 1, poolKind := bitsOf (f 3 1) 2 2,
    src := f 4 4, dst := f 8 4, n := f 12 2, h := f 14 2, w := f 16 2, c := f 18 2, kh := f 20 1, kw := f 21 1, sh := f 22 1, sw := f 23 1,
    dh := f 24 1, dw := f 25 1, pt := f 26 1, pb := f 27 1, pl := f 28 1, pr := f 29 1, rowPitch := f 32 4, imgPitch := f 36 4,
    dstPitch := f 40 4, oy0 := f 44 2, oyCnt := f 46 2, oh := f 48 2, ow := f 50 2, padValue := rd16 rd (o + 52), syncId := f 54 2 }

/-- The segments that a WALK descriptor reads or writes, in order, the tensor's rows one after another, as segments of SPAs (R110, R116). -/
def walkSegs (base : Nat) (a : AgenDesc) : List Nat :=
  let rows := (List.range a.n).flatMap fun n => (List.range a.oyCnt).map fun y => base + a.src + n * a.imgPitch + (a.oy0 + y) * a.rowPitch
  (rows.flatMap fun r => linesOf 2048 r (a.w * a.c * elemSize a.elem)).foldl (fun l g => if l.getLast? = some g then l else l ++ [g]) []

/-- Every kernel tap in order of ky, then kx. -/
def taps (a : AgenDesc) : List (Nat × Nat) := (List.range a.kh).flatMap fun ky => (List.range a.kw).map fun kx => (ky, kx)

/-- The pieces of a run of bytes: its parts in one 256-byte line each (R119), as offsets and lengths. -/
def pieces (base off n : Nat) : List (Nat × Nat) :=
  (linesOf 256 (base + off) n).map fun l =>
    let lo := max (base + off) (256 * l)
    (lo - base, min (base + off + n) (256 * l + 256) - lo)

/-- A run of a kernel row read piece by piece. -/
def State.readRun (s : State) (w : Window) (off n : Nat) : Except AgenFail (List Byte) :=
  match allOk ((pieces w.base off n).map fun p => s.agenRead w 2 p.1 p.2) with
  | .error e => .error e
  | .ok parts => .ok parts.flatten

/-- Taps grouped into runs (R119): in a kernel row whose taps stand side by side the ones that are no pad taps are one run, otherwise each is
its own. `joined` says which; the offset of a run is that of its first tap. -/
def tapRuns (joined : Bool) : List (Option Nat) → List (Option (Nat × Nat))
  | [] => []
  | none :: rest => none :: tapRuns joined rest
  | some o :: rest => match tapRuns joined rest with
    | some (p, n) :: more => if joined then some (o, n + 1) :: more else some (o, 1) :: some (p, n) :: more
    | more => some (o, 1) :: more

/-- One expanded row (R118, R119): the taps' channels in reduction-index order, pads as +0 or PAD_VALUE, 0 to the end of the row. -/
def State.expandRow (s : State) (w : Window) (a : AgenDesc) (n oy ox : Nat) : Except AgenFail (List Byte) :=
  let pad := (List.range a.c).flatMap fun _ => leBytes (if a.padSel then a.padValue.toNat else 0) 2
  let runs := (List.range a.kh).flatMap fun ky => tapRuns (a.dw == 1) ((List.range a.kw).map fun kx => tapAt a n oy ox ky kx)
  match allOk (runs.map fun e => match e with
    | none => .ok pad
    | some (o, taps) => s.readRun w o (taps * a.c * 2)) with
  | .error e => .error e
  | .ok parts =>
    let row := parts.flatten
    .ok (row ++ List.replicate (a.dstPitch - row.length) 0)

/-- A 16-bit element as FP32, and back (R41). -/
def elemTo32 (elem : Nat) (b : List Byte) : Word := if elem = 1 then bf16ToF32 (BitVec.ofNat 16 (leNat b)) else fp16ToF32 (BitVec.ofNat 16 (leNat b))
/-- FP32 to a 16-bit element. -/
def elemOf32 (elem : Nat) (x : Word) : List Byte := leBytes (if elem = 1 then f32ToBf16 x else f32ToFp16 x).toNat 2

/-- The larger of two FP32 values, +0 larger than -0; a NaN gives the canonical NaN (R120). -/
def maxTap (a b : Word) : Word :=
  if f32Nan a || f32Nan b then w32 fp32.nan
  else if f32Lt a b then b
  else if f32Lt b a then a
  else if a = 0x80000000 then b else a

/-- A pooled value from the taps of one window in order (R120); none for a window of pad taps only. -/
def poolValue (kind total : Nat) (vs : List Word) : Option Word :=
  match vs with
  | [] => if kind = 1 then some (f32Div 0 (i32ToF32 total)) else none
  | v :: rest =>
    if kind = 0 then some (rest.foldl maxTap (if f32Nan v then w32 fp32.nan else v))
    else
      let sum := rest.foldl f32Add v
      some (f32Div sum (i32ToF32 (if kind = 1 then total else vs.length)))

/-- One output position of POOL: its channels' bytes and how many results are not finite (R44, R120). -/
def State.poolCell (s : State) (w : Window) (a : AgenDesc) (n oy ox : Nat) : Except AgenFail (List Byte × Nat) :=
  match allOk (((taps a).filterMap fun k => tapAt a n oy ox k.1 k.2).map fun o => s.agenRead w 2 o (a.c * 2)) with
  | .error e => .error e
  | .ok cells =>
    let outs := (List.range a.c).map fun ch =>
      elemOf32 a.elem ((poolValue a.poolKind (a.kh * a.kw) (cells.map fun c => elemTo32 a.elem (bytesAt c (2 * ch) 2))).getD 0)
    .ok (outs.flatten, countIf (fun b => !f32Fin (elemTo32 a.elem b)) outs)

/-- Writes of computed rows in order, up to the first failure: each row's offset and bytes. A row of +0 that an index at or above the table
gives is counted with its place (R154). -/
def State.agenRows (w : Window) : List (State → Nat × Except AgenFail (List Byte × Nat)) → State → Nat → State × Nat × Option AgenFail
  | [], s, c => (s, c, none)
  | f :: rest, s, c => match f s with
    | (_, .error e) => (s, c, some e)
    | (off, .ok (bs, n)) => match s.agenWrite w off bs with
      | .error e => (s, c, some e)
      | .ok s' => State.agenRows w rest s' (c + n)

/-- The output positions of a band in order: image, row, column (R118). -/
def bandCells (a : AgenDesc) : List (Nat × Nat × Nat) :=
  (List.range a.n).flatMap fun n => (List.range a.oyCnt).flatMap fun i => (List.range a.ow).map fun ox => (n, a.oy0 + i, ox)

/-- The rows that EXPAND writes (R118). -/
def expandRows (w : Window) (a : AgenDesc) : List (State → Nat × Except AgenFail (List Byte × Nat)) :=
  (bandCells a).map fun c s =>
    (a.dst + ((c.1 * a.oyCnt + c.2.1 - a.oy0) * a.ow + c.2.2) * a.dstPitch,
     match s.expandRow w a c.1 c.2.1 c.2.2 with
     | .error e => .error e
     | .ok bs => .ok (bs, 0))

/-- The cells that POOL writes (R120). -/
def poolRows (w : Window) (a : AgenDesc) : List (State → Nat × Except AgenFail (List Byte × Nat)) :=
  (bandCells a).map fun c s =>
    (a.dst + (c.1 * a.oyCnt + c.2.1 - a.oy0) * a.dstPitch + c.2.2 * a.c * 2, s.poolCell w a c.1 c.2.1 c.2.2)

/-- A status that a row of a GATHER gives (R122, R154): in a template step to the position whose index it is, otherwise to the task. -/
def State.gatherStatus (s : State) (id : Option WorkId) (i : Nat) (st : Status) : State := match id with
  | some (.step part) => s.addPos (.step part) i st
  | _ => s.addStatus id st

/-- Row `i` of a GATHER (R153, R154): an index at or above H gives +0 and DATA_ERROR; a row of poisoned data is not written. -/
def State.gatherRow (s : State) (k : Nat) (w : Window) (a : AgenDesc) (i : Nat) : Except AgenFail State :=
  let lost := fun (s : State) => (s.gatherStatus w.work i stEcc).faultUnit k
  match s.agenRead w 0 (a.imgPitch + 4 * i) 4 with
  | .error (.refused kind off) => .error (.refused kind off)
  | .error .ecc => .ok (lost s)
  | .ok ix =>
    if leNat ix ≥ a.h then
      match s.agenWrite w (a.dst + i * a.dstPitch) (List.replicate (a.c * 2) 0) with
      | .error e => .error e
      | .ok s => .ok (s.gatherStatus w.work i stDataError)
    else match s.agenRead w 0 (a.src + leNat ix * a.rowPitch) (a.c * 2) with
      | .error (.refused kind off) => .error (.refused kind off)
      | .error .ecc => .ok (lost s)
      | .ok row => s.agenWrite w (a.dst + i * a.dstPitch) row

/-- The rows of a GATHER from row `i` on, up to the first that is refused. -/
def State.gatherRows (s : State) (k : Nat) (w : Window) (a : AgenDesc) (i : Nat) : Nat → State × Option AgenFail
  | 0 => (s, none)
  | n + 1 => match s.gatherRow k w a i with
    | .error e => (s, some e)
    | .ok s' => s'.gatherRows k w a (i + 1) n

/-- What a descriptor of the address generator does, with how many pooled results are not finite and how it fails (R118, R120, R153): an
expansion or a pooling that meets poisoned data uses none of its results (R122). -/
def State.runAgen (s : State) (k : Nat) (w : Window) (a : AgenDesc) : State × Nat × Option AgenFail :=
  if a.op = 4 then
    let r := s.gatherRows k w a 0 a.oyCnt
    (r.1, 0, r.2)
  else
    match State.agenRows w (if a.op = 2 then expandRows w a else if a.op = 3 then poolRows w a else []) s 0 with
    | (_, _, some .ecc) => (s, 0, some .ecc)
    | x => x

/-- A descriptor of the region's address generator has run to its end: it is counted, a walk is over, pooled results are counted under R44, and
the counter of a SIGNAL descriptor is signalled. -/
def State.endAgen (s : State) (k : Nat) (w : Window) (a : AgenDesc) (cls n : Nat) : State :=
  let s := if a.op = 3 then s.addNonfinite k n else s
  let q := s.port k
  let s := s.setPort k { q with agenDone := q.agenDone + 1, walks := (if a.op = 1 then tblErase q.walks a.client else q.walks) }
  if a.signal then
    let (s, st) := s.signalVid w.part a.syncId cls
    s.addStatus w.work st
  else s

/-- AGEN_COMPLETE (R116 to R120, R153, R154): the descriptor at an offset of its window that the region's address generator has run: its
expanded, pooled or gathered rows are written, it is counted, and its counter is signalled. -/
def execAgenComplete (t d r offset : Nat) (s : State) : Out :=
  let s := s.advance t
  let k := rkey d r
  let w := s.winOf k 66
  let cls := ((w.work.bind s.work).map Work.cls).getD 2
  let a := agenOf (fun o => s.spByte (w.base + o)) offset
  .next (if !s.powered || !s.available k || w.work.isNone || w.stopped then s
    else
      let s := s.setPort k { s.port k with agenOp := a.op % 8, agenRun := false }
      if !s.inWin w offset 64 then s.refuseAccess k 66 0 offset w.work cls
      else if s.spPoisoned (w.base + offset) 64 then (s.addStatus w.work stEcc).faultUnit k
      else if offset % 64 ≠ 0 ∨ agenBad a then s.addStatus w.work stBadParam
      else match s.runAgen k w a with
        | (s, _, some (.refused kind off)) => s.refuseAccess k 66 kind off w.work cls
        | (s, _, some .ecc) => (s.addStatus w.work stEcc).faultUnit k
        | (s, n, none) => s.endAgen k w a cls n)

end Sys2Proof.Machine
end

