-- ==== Sys2Proof/Machine/Attention.lean ====
section
/-! DEFINITION. Attention over fixed spans (R147 to R149, R151, R152): the exponential, the two products of a span, and the merge. -/
namespace Sys2Proof.Machine

/-! ## The exponential (R147) -/

/-- The series of e^t for t in units of 2^-160, from term `k` on, each term truncated. -/
def expSeries (t : Nat) : Nat → Nat → Nat → Nat
  | 0, _, _ => 0
  | fuel + 1, k, term => term + expSeries t fuel (k + 1) (term * t / 2 ^ 160 / (k + 1))

/-- A value in units of 2^-160 squared `n` times. -/
def squares : Nat → Nat → Nat
  | 0, v => v
  | n + 1, v => squares n (v * v / 2 ^ 160)

/-- e^(m × 2^e) from below, in units of 2^-160, for an exponent below 104: the argument is divided by 2^12 first. -/
def expMag (m : Nat) (e : Int) : Nat :=
  squares 12 (expSeries (if e ≥ -148 then m * 2 ^ (e + 148).toNat else m / 2 ^ (-148 - e).toNat) 40 0 (2 ^ 160))

/-- The encoding of the largest FP32 value at or below m × 2^e; an infinity beyond the range. -/
def floor32 (m : Nat) (e : Int) : Nat :=
  if m = 0 then 0 else
    let top : Int := e + Nat.log2 m
    let q : Int := max (top - 23) (-149)
    if top > 127 then 0x7F800000
    else (q + 149).toNat * 2 ^ 23 + (if e ≥ q then m * 2 ^ (e - q).toNat else m / 2 ^ (q - e).toNat)

/-- The encoding of the largest FP32 value at or below e^x for ±`m` × 2^`e`, not zero. -/
def expBelow (neg : Bool) (m : Nat) (e : Int) : Nat :=
  let far := if e ≥ 0 then decide (m * 2 ^ e.toNat ≥ 104) else decide (m ≥ 104 * 2 ^ (-e).toNat)
  if neg then
    if far then 0 else
      let v := expMag m e
      floor32 (2 ^ 240 * 2 ^ 240 / (v + v / 2 ^ 130 + 1)) (-320)
  else if far then 0x7F800000 else floor32 (expMag m e) (-160)

/-- The VPU exponential (R147): one of the FP32 values within one unit in the last place of e^x, always the same for one input; which
one is a free value. It gives +0 for -∞. -/
def expF (x : Word) : Word := match f32Val x with
  | .nan => w32 fp32.nan
  | .inf true => 0
  | .inf false => 0x7F800000
  | .fin neg m e =>
    if m = 0 then w32 (0x3F7FFFFF + Config.expChoice x % 3)
    else
      let b := expBelow neg m e
      if b ≥ 0x7F800000 then 0x7F800000 else w32 (b + Config.expChoice x % 2)

/-! ## One span (R147, R149) -/

/-- One column of a product of two activation operands with unit scales and an anchor of its own (R51 to R57, R62). -/
def attnCol (anchor : Int) (pairs : List (FVal × FVal)) : Word :=
  foot anchor (-7) false (.fin false 1 0) (gridColumn anchor (fun _ => unitScale (-7)) (.fin false 1 0) 128 pairs)

/-- What attention reads: the query, the stored keys and values of a position, which keys the query position admits, and the two
formats (true: FP16). -/
structure AttnIn where
  query  : List (BitVec 16)
  key    : Nat → List (BitVec 16)
  val    : Nat → List (BitVec 16)
  admits : Nat → Bool
  dim    : Nat
  act16  : Bool
  kv16   : Bool

/-- A stored or computed 16-bit element. -/
def elemVal (is16 : Bool) (x : BitVec 16) : FVal := (if is16 then fp16 else bf16).decode x.toNat

/-- FP32 converted to a 16-bit format (R41). -/
def toElem (is16 : Bool) (w : Word) : BitVec 16 := if is16 then f32ToFp16 w else f32ToBf16 w

/-- The scores of the admitted keys of `n` positions from `a` on: the product of the query with the stored keys, in groups of 128
columns whose anchors take the admitted keys alone (R62, R137). -/
def AttnIn.scores (x : AttnIn) (a n : Nat) : List (Option Word) :=
  let query := x.query.map (elemVal x.act16)
  (List.range ((n + 127) / 128)).flatMap fun g =>
    let js := (List.range (min 128 (n - 128 * g))).map (a + 128 * g + ·)
    let keys := js.map fun j => if x.admits j then some ((x.key j).map (elemVal x.kv16)) else none
    let anchor := dynAnchor query (keys.flatMap fun k => k.getD [])
    keys.map fun k => k.map fun ks => attnCol anchor (query.zip ks)

/-- The largest admitted score, a masked one counting as -∞; a NaN among them gives a NaN. -/
def topScore (scores : List (Option Word)) : Word :=
  scores.foldl (fun m v => match v with
    | none => m
    | some w => maxTap m w) 0xFF800000

/-- The second product of a span: its weights p with the values, and with a column of ones as the last. -/
def AttnIn.weigh (x : AttnIn) (a : Nat) (scores : List (Option Word)) (top : Word) : List Word :=
  let zero : FVal := .fin false 0 0
  let ps := scores.map fun v => match v with
    | none => zero
    | some w => elemVal x.kv16 (toElem x.kv16 (expF (f32Sub w top)))
  let rows := (List.range scores.length).map fun i =>
    if (scores.getD i none).isSome then some ((x.val (a + i)).map (elemVal x.kv16) ++ [.fin false 1 0]) else none
  let anchor := fun g => dynAnchor ps (rows.flatMap fun r => ((r.getD []).drop (128 * g)).take 128)
  (List.range (x.dim + 1)).map fun d =>
    attnCol (anchor (d / 128)) (ps.zip (rows.map fun r => match r with
      | none => zero
      | some vs => vs.getD d zero))

/-! ## The merge (R148) -/

/-- The running maximum, denominator and numerators, and how many column results so far are not finite (R44). -/
structure AttnAcc where
  m   : Word := 0xFF800000
  l   : Word := 0
  o   : List Word
  bad : Nat := 0
  deriving DecidableEq, Repr

/-- One span's partial result merged. -/
def AttnAcc.merge (x : AttnAcc) (top : Word) (part : List Word) : AttnAcc :=
  let mn := maxTap x.m top
  let a := if x.m = 0xFF800000 then 0 else expF (f32Sub x.m mn)
  let b := expF (f32Sub top mn)
  let n := x.o.length
  { x with m := mn, l := f32Fma x.l a (f32Mul (part.getD n 0) b),
           o := (List.range n).map fun d => f32Fma (x.o.getD d 0) a (f32Mul (part.getD d 0) b) }

/-- Column results counted under R44. -/
def AttnAcc.count (x : AttnAcc) (cols : List Word) : AttnAcc := { x with bad := x.bad + countIf (fun w => !f32Fin w) cols }

/-- Attention over pieces in the order given; `early` leaves out a piece that would weigh below 2^-32 of the merged result (R152). -/
def AttnIn.pieces (x : AttnIn) (early : Bool) : List (Nat × Nat) → AttnAcc → AttnAcc
  | [], acc => acc
  | (a, n) :: rest, acc =>
    let sc := x.scores a n
    let top := topScore sc
    let acc := acc.count (sc.filterMap id)
    if !sc.any Option.isSome || (early && f32Lt (f32Sub top acc.m) 0xC1B17218) then x.pieces early rest acc
    else
      let part := x.weigh a sc top
      x.pieces early rest ((acc.count part).merge top part)

/-- The attention output of one query position and head, in the activation format, and how many results on the way to it and of its own
R44 counts. -/
def AttnIn.run (x : AttnIn) (early : Bool) (ps : List (Nat × Nat)) : List (BitVec 16) × Nat :=
  let acc := x.pieces early ps { o := List.replicate x.dim 0 }
  let out := acc.o.map fun v => toElem x.act16 (f32Div v acc.l)
  (out, acc.bad + countIf (fun v => !(elemVal x.act16 v).isFin) out)

/-- The spans that a query at position `p` needs, in ascending order: those with an admitted key. -/
def AttnIn.spans (x : AttnIn) (p : Nat) : List (Nat × Nat) :=
  ((List.range (p / 256 + 1)).map fun s => (256 * s, 256)).filter fun e => (List.range 256).any fun i => x.admits (e.1 + i)

/-- Whether pieces in ascending order are the given spans, each whole or, with work stealing, in two halves (R152). -/
def refines (steal : Bool) : List (Nat × Nat) → List (Nat × Nat) → Bool
  | [], [] => true
  | (a, n) :: rest, (b, k) :: spans =>
    if a == b && n == k then refines steal rest spans
    else match rest with
      | (c, j) :: rest' => steal && a == b && n == 128 && j == 128 && c == b + 128 && refines steal rest' spans
      | [] => false
  | _, _ => false

/-- The pieces in the order in which they are merged: the fixed spans in ascending order, or, where features may vary, the order that the
run took, if it is one that R152 allows. -/
def mergeOrder (vary steal : Bool) (fixed plan : List (Nat × Nat)) : List (Nat × Nat) :=
  if vary && refines steal (plan.mergeSort fun a b => decide (a.1 ≤ b.1)) fixed then plan else fixed

end Sys2Proof.Machine
end

