-- ==== Sys2Proof/Machine/Serve.lean ====
section
/-! DEFINITION. Sequence serving (R127 to R164): the active-sequence table, the key-value cache, the step builder and the rows
that start and end a step. -/
namespace Sys2Proof.Machine

/-! ## The table -/

/-- An entry of the active-sequence table. -/
def State.seq (s : State) (i : Nat) : SeqEntry := tblGet {} s.srv.ents i
/-- Changing an entry. -/
def State.setSeq (s : State) (i : Nat) (x : SeqEntry) : State := { s with srv := { s.srv with ents := tblSet {} s.srv.ents i x } }
/-- A partition's step builder. -/
def State.builder (s : State) (p : Nat) : Builder := tblGet {} s.srv.builders p
/-- Changing a step builder. -/
def State.setBuilder (s : State) (p : Nat) (x : Builder) : State :=
  { s with srv := { s.srv with builders := tblSet {} s.srv.builders p x } }

/-- The entries of a partition that are not FREE, in ascending index. -/
def State.seqsOf (s : State) (part : Nat) : List Nat :=
  (s.srv.ents.filter fun e => e.2.state != .free && e.2.part == part).map Prod.fst

/-- A serving model of the image. -/
def State.model (s : State) (m : Nat) : Option ModelCfg := s.image.bind fun i => i.models.find? fun x => x.index == m

/-- The lowest index from `n` on that a table does not list. -/
def lowestUnlisted {α : Type} : Nat → Tbl α → Nat
  | n, [] => n
  | n, (k, _) :: rest => if k = n then lowestUnlisted (n + 1) rest else if n < k then n else lowestUnlisted n rest

/-! ## The key-value cache -/

/-- Positions of a region: MAX_LEN rounded up to whole pages (R140). -/
def kvPositions (maxLen : Nat) : Nat := 64 * ((maxLen + 63) / 64)

/-- Bytes of one position of one head: D elements of two bytes (R140). -/
def kvRow (m : ModelCfg) : Nat := m.dim * 2

/-- Bytes of a key-value region (R140). -/
def kvSize (m : ModelCfg) (maxLen : Nat) : Nat := 2 * m.layers * m.heads * kvPositions maxLen * kvRow m

/-- The place of position `j` of a head in a region laid out for `p` positions (R140): layer, 0 for keys or 1 for values, head. -/
def kvOffset (m : ModelCfg) (p layer kind head j : Nat) : Nat := (((layer * 2 + kind) * m.heads + head) * p + j) * kvRow m

/-- The heads of a model: layer, kind, head. -/
def kvHeads (m : ModelCfg) : List (Nat × Nat × Nat) :=
  (List.range m.layers).flatMap fun l => (List.range 2).flatMap fun k => (List.range m.heads).map fun h => (l, k, h)

/-- The LPDDR address of position `j` of a head of an entry. -/
def State.kvAddr (s : State) (x : SeqEntry) (m : ModelCfg) (l k h j : Nat) : Nat :=
  (s.partCfg x.part).lpBase + x.kvBase + kvOffset m (kvPositions x.maxLen) l k h j

/-! ### Staging slots (R142) -/

/-- Bytes of one layer of a staging slot: a page of every head. -/
def stageLayer (m : ModelCfg) : Nat := 2 * m.heads * 64 * kvRow m

/-- How many of some regions are the region `lreg`. -/
def inRegion (lreg : Nat) (regs : List Nat) : Nat := countIf (fun r => r == lreg) regs

/-- The bytes that one staging slot of a partition takes in a region: the most that a model of the partition needs there (log entry 208). -/
def stagePart (models : List ModelCfg) (part lreg : Nat) : Nat :=
  (models.filter fun m => m.part == part).foldl (fun n m => max n (inRegion lreg m.layerRegs * stageLayer m)) 0

/-- The SPA at which a layer begins in the staging slot of an entry: the layers that a region runs stand there in order. -/
def State.stageBase (s : State) (x : SeqEntry) (m : ModelCfg) (l : Nat) : Option Nat :=
  match x.slot, m.layerRegs[l]? with
  | some slot, some lreg => ((s.partCfg x.part).stageAt.find? fun e => e.1 == lreg).map fun e =>
      e.2 + slot * stagePart ((s.image.map Image.models).getD []) x.part lreg + inRegion lreg (m.layerRegs.take l) * stageLayer m
  | _, _ => none

/-- The place of position `j` of a head in the part of a staging slot that holds its layer. -/
def stageOffset (m : ModelCfg) (k h j : Nat) : Nat := ((k * m.heads + h) * 64 + j % 64) * kvRow m

/-- Bytes of a head's page in a staging slot from position `j` on. -/
def State.stageRead (s : State) (x : SeqEntry) (m : ModelCfg) (l k h j n : Nat) : List Byte := match s.stageBase x m l with
  | some b => s.spRead (b + stageOffset m k h j) n
  | none => List.replicate n 0

/-- Bytes written there. -/
def State.stageWrite (s : State) (x : SeqEntry) (m : ModelCfg) (l k h j : Nat) (bs : List Byte) : State := match s.stageBase x m l with
  | some b => s.spWrite (b + stageOffset m k h j) bs
  | none => s

/-- Whether some layer of an entry's staging slot holds poisoned data (R122). -/
def State.stagePoisoned (s : State) (x : SeqEntry) (m : ModelCfg) : Bool := (List.range m.layers).any fun l => match s.stageBase x m l with
  | some b => s.spPoisoned b (stageLayer m)
  | none => false

/-- Whether a page of an entry's region holds poisoned data (R457). -/
def State.pagePoisoned (s : State) (x : SeqEntry) (m : ModelCfg) (page : Nat) : Bool :=
  (kvHeads m).any fun e => s.lpPoisoned (s.kvAddr x m e.1 e.2.1 e.2.2 (64 * page)) (64 * kvRow m)

/-- The staging slot's page of every head written to page `page` of the region (R146). -/
def State.stageToRegion (s : State) (x : SeqEntry) (m : ModelCfg) (page : Nat) : State :=
  List.foldl (fun s e => s.lpWrite (s.kvAddr x m e.1 e.2.1 e.2.2 (64 * page)) (s.stageRead x m e.1 e.2.1 e.2.2 0 (64 * kvRow m))) s (kvHeads m)

/-- The reverse: a parked page read back into the slot (R146). -/
def State.regionToStage (s : State) (x : SeqEntry) (m : ModelCfg) (page : Nat) : State :=
  List.foldl (fun s e => s.stageWrite x m e.1 e.2.1 e.2.2 0 (s.lpRead (s.kvAddr x m e.1 e.2.1 e.2.2 (64 * page)) (64 * kvRow m))) s (kvHeads m)

/-- A copy between a staging slot and a region that fails (R115, R157): the fault is reported against the partition. -/
def State.copyFault (s : State) (m : ModelCfg) : State := match m.layerRegs.head?.bind s.physOf with
  | some k => s.faultUnit k
  | none => s

/-! ### Storing (R141, R143, R144) -/

/-- Whether position `j` of a step of `n` positions from `len` on is written straight to the region (R143): its page is
filled by a chunk. A token position never is. -/
def directPos (chunk : Bool) (len n j : Nat) : Bool := chunk && decide (len ≤ j / 64 * 64 ∧ j / 64 * 64 + 64 ≤ len + n)

/-- An FP32 column result in KV_FMT (R141). -/
def kvElem (m : ModelCfg) (w : Word) : List Byte := leBytes (if m.kvFp16 then f32ToFp16 w else f32ToBf16 w).toNat 2

/-- The bytes of head `h` of one position's results for a layer's keys or values. -/
def kvBytes (m : ModelCfg) (res : List Word) (h : Nat) : List Byte := (List.range m.dim).flatMap fun d => kvElem m (res.getD (h * m.dim + d) 0)

/-- The keys or values of position `j` of an entry stored (R141, R143); what follows the page that this step completes in the staging slot waits
for the layer's flush (R144). -/
def State.storeKv (s : State) (id : WorkId) (i : Nat) (m : ModelCfg) (chunk : Bool) (n l k j : Nat) (res : List Word) : State :=
  let x := tblGet {} s.srv.ents i
  List.foldl (fun s h =>
    let bs := kvBytes m res h
    if directPos chunk x.length n j then s.lpWrite (s.kvAddr x m l k h j) bs
    else if x.length % 64 ≠ 0 ∧ j / 64 > x.length / 64 then match s.stageBase x m l with
      | some b =>
        let wait := (i, l, b + stageOffset m k h j, bs)
        s.updWork id fun w => { w with tail := w.tail ++ [wait] }
      | none => s
    else s.stageWrite x m l k h j bs) s (List.range m.heads)

/-- The descriptor of a flush (R144): page `page` of every head of a layer, from the part of the staging slot that holds the layer. -/
def flushDesc (m : ModelCfg) (x : SeqEntry) (l page : Nat) : XferDesc :=
  { kind := 2, rowBytes := 64 * kvRow m, rows := 2 * m.heads, spStride := 64 * kvRow m, farStride := kvPositions x.maxLen * kvRow m,
    farAddr := x.kvBase + kvOffset m (kvPositions x.maxLen) l 0 0 (64 * page) }

/-- A layer's flush given to the transfer engine of its region (R144): `owner` is the position of the step that completes the page. -/
def State.flushLayer (s : State) (id : WorkId) (owner i : Nat) (m : ModelCfg) (l page : Nat) : State :=
  let x := tblGet {} s.srv.ents i
  let c := s.partCfg x.part
  match m.layerRegs[l]?.bind s.physOf, s.stageBase x m l with
  | some k, some b =>
    let mine := fun e : Nat × Nat × Nat × List Byte => e.1 == i && e.2.1 == l
    let later := ((((s.work id).map Work.tail).getD []).filter mine).map fun e => e.2.2
    let s := s.updWork id fun w => { w with tail := w.tail.filter fun e => !mine e }
    s.queueXfer k { src := .made (flushDesc m x l page), base := b, bound := stageLayer m, lp := c.lpBase, lpLen := c.lpLen, part := x.part,
                    work := some id, owner := some owner, later := later }
  | _, _ => s

/-! ## Attention (R147 to R152) -/

/-- The elements of one stored position of a head of a sequence of `len` positions (R140, R143): the current page from the staging slot,
the pages below it from the region. -/
def State.kvRead (s : State) (x : SeqEntry) (m : ModelCfg) (len l k h j : Nat) : List (BitVec 16) :=
  let bytes := if len % 64 ≠ 0 ∧ j / 64 = len / 64 then s.stageRead x m l k h j (kvRow m) else s.lpRead (s.kvAddr x m l k h j) (kvRow m)
  (List.range m.dim).map fun d => BitVec.ofNat 16 (leNat (bytesAt bytes (2 * d) 2))

/-- Whether the same position holds poisoned data. -/
def State.kvPoisoned (s : State) (x : SeqEntry) (m : ModelCfg) (len l k h j : Nat) : Bool :=
  if len % 64 ≠ 0 ∧ j / 64 = len / 64 then match s.stageBase x m l with
    | some b => s.spPoisoned (b + stageOffset m k h j) (kvRow m)
    | none => false
  else s.lpPoisoned (s.kvAddr x m l k h j) (kvRow m)

/-- Whether a query at position `p` of a sequence admits key `j` (R149, R151): a dense sequence all keys up to its own position, a
sparse one those of its window and its global positions. -/
def admitsKey (desc : Option SparseDesc) (p j : Nat) : Bool :=
  decide (j ≤ p) && (match desc with
    | none => true
    | some d => decide (p - j < d.window) || d.globals.contains j)

/-- The sparse descriptor of a sequence; a dense one, 0xFF, has none (R127, R150). -/
def State.sparseOf (s : State) (x : SeqEntry) : Option SparseDesc := if x.sparse = 0xFF then none else s.image.bind fun i => i.sparse[x.sparse]?

/-- Whether the features of R152 apply to the step that a partition runs. -/
def State.stepVaries (s : State) (x : SeqEntry) (m : ModelCfg) : Bool :=
  !s.glob.det && ((m.templates[(s.builder x.part).tpl]?).map Template.features).getD false

/-- What one attention result of a sequence of `len` positions, those of the step among them, reads: layer, head, query position. -/
def State.attnIn (s : State) (x : SeqEntry) (m : ModelCfg) (len l h p : Nat) (fp16 : Bool) (query : List (BitVec 16)) : AttnIn :=
  { query := query, key := s.kvRead x m len l 0 h, val := s.kvRead x m len l 1 h,
    admits := admitsKey (s.sparseOf x) p, dim := m.dim, act16 := fp16, kv16 := m.kvFp16 }

/-- The elements of one attention result (R147 to R152), with how many results R44 counts. -/
def State.attnOut (s : State) (x : SeqEntry) (m : ModelCfg) (a : AttnIn) (p : Nat) (plan : List (Nat × Nat)) : List (BitVec 16) × Nat :=
  let vary := s.stepVaries x m
  a.run (vary && (s.sparseOf x).isSome) (mergeOrder vary (x.cls == 3) (a.spans p) plan)

/-- Whether attention reads a poisoned key or value (R122, R137, R457). -/
def State.attnPoisoned (s : State) (x : SeqEntry) (m : ModelCfg) (len l h p : Nat) : Bool :=
  (List.range (p + 1)).any fun j => admitsKey (s.sparseOf x) p j && (List.range 2).any fun k => s.kvPoisoned x m len l k h j

/-- The status with which the partial page of an entry fails to be written, one of those of a failed transfer (R115, R145). -/
def lostPark (lost : BoundaryLoss) (i : Nat) : Option Status :=
  (lost.parks.find? fun e => e.1 == i && (e.2 == stEcc || e.2 == stNotAuth)).map Prod.snd

/-- An entry's slot released, its partial page written to the region (R146); a page that holds poisoned data, or whose write fails, makes it
corrupt (R157). -/
def State.parkSeq (s : State) (lost : BoundaryLoss) (i : Nat) (st : SeqState) : State :=
  let x := s.seq i
  match s.model x.model with
  | none => s.setSeq i { x with state := st, slot := none }
  | some m =>
    let partPage := x.length % 64 != 0
    match (if !partPage then none else if s.stagePoisoned x m then some stEcc else lostPark lost i) with
    | some e => (if e = stEcc then s.copyFault m else s).setSeq i { x with state := .retiring, corrupt := true, status := e }
    | none =>
      let s := if partPage then s.stageToRegion x m (x.length / 64) else s
      s.setSeq i { x with state := st, slot := none, pageParked := x.pageParked || partPage }

/-- The staging slots of a partition that no entry holds, in ascending order. -/
def State.freeSlots (s : State) (part : Nat) : List Nat :=
  let held := (s.seqsOf part).filterMap fun i => (s.seq i).slot
  (List.range (s.partCfg part).stageSlots).filter fun k => !held.contains k

/-- An entry given a slot (R137, R146): its parked page is read back; one that holds poisoned data makes it corrupt (R157). -/
def State.giveSlot (s : State) (i slot : Nat) : State :=
  let x := s.seq i
  let y := { x with slot := some slot, pageParked := false, state := (if x.promptLeft > 0 then .prompt else .decode) }
  match x.pageParked, s.model x.model with
  | true, some m =>
    if s.pagePoisoned x m (x.length / 64) then (s.copyFault m).setSeq i { x with state := .retiring, corrupt := true, status := stEcc }
    else (s.regionToStage y m (x.length / 64)).setSeq i y
  | _, _ => s.setSeq i y

/-- An entry granted the lowest free slot of its partition. -/
def State.grantSlot (s : State) (i : Nat) : State := match s.freeSlots (s.seq i).part with
  | [] => s
  | k :: _ => s.giveSlot i k

/-! ## The key-value pool (R132) -/

/-- The regions allocated in a partition's pool. -/
def State.kvRegions (s : State) (part : Nat) : List (Nat × Nat) := (s.seqsOf part).map fun i => ((s.seq i).kvBase, (s.seq i).kvLen)

/-- An offset rounded up to 4 KB. -/
def align4K (n : Nat) : Nat := (n + 4095) / 4096 * 4096

/-- Whether a range of the pool is free. -/
def State.kvFree (s : State) (part base n : Nat) : Bool :=
  let c := s.partCfg part
  decide (c.kvBase ≤ base ∧ base + n ≤ c.kvBase + c.kvLen) && (s.kvRegions part).all fun r => decide (base + n ≤ r.1 ∨ r.1 + r.2 ≤ base)

/-- The places at which a first fit can begin. -/
def State.kvStarts (s : State) (part : Nat) : List Nat :=
  align4K (s.partCfg part).kvBase :: (s.kvRegions part).map fun r => align4K (r.1 + r.2)

/-- First fit from the lowest address, aligned to 4 KB. -/
def State.kvFit (s : State) (part n : Nat) : Option Nat :=
  (s.kvStarts part).foldl (fun best b => if s.kvFree part b n then (match best with | none => some b | some a => some (min a b)) else best) none

/-- The largest free range of a pool, in units of 4 KB (R163). -/
def State.kvLargest (s : State) (part : Nat) : Nat :=
  let c := s.partCfg part
  (s.kvStarts part).foldl (fun best b =>
    let stop := (s.kvRegions part).foldl (fun e r => if r.1 + r.2 > b ∧ r.1 < e then max b r.1 else e) (c.kvBase + c.kvLen)
    max best ((stop - b) / 4096)) 0

/-! ## Output rings (R155, R156) -/

/-- Whether a ring has `k` free records. -/
def SeqEntry.room (x : SeqEntry) (k : Nat) : Bool := decide ((x.outPi - x.cons).toNat + k ≤ 2 ^ x.ringLog2 - 1)

/-- The free records that a step of `n` positions needs: two for a DECODE step or a chunk that ends the prompt. -/
def SeqEntry.needs (x : SeqEntry) (n : Nat) : Nat := if x.state = .decode ∨ n ≥ x.promptLeft then 2 else 0

/-- The positions a step wants of an entry: one token, or one chunk (R134, R138). -/
def SeqEntry.want (x : SeqEntry) : Nat := if x.state = .decode then 1 else min (64 * x.chunk) x.promptLeft

/-- Whether an entry mirrors one of the lead package: only the lead accepts commands for a pooled model (R161). -/
def State.mirrored (s : State) (x : SeqEntry) : Bool := ((s.model x.model).map ModelCfg.pooled).getD false && s.glob.pkgId != 0

/-- One output record written (R155). A package that is not the lead of a pooled model writes none (R161), nor does a sequence whose owner is
gone (R159); a write that fails puts the context into ERROR (R302). -/
def State.outRecord (s : State) (lost : BoundaryLoss) (i : Nat) (token : Word) (pos : Nat) (st : Status) : State :=
  let x := s.seq i
  if s.mirrored x || x.gone then s
  else if s.ctxDead x.ctx || lost.writes.contains x.ctx then s.ctxError x.ctx 3
  else
    let at_ := x.ring + 64 + 16 * (x.outPi.toNat % 2 ^ x.ringLog2)
    let step := (s.builder x.part).steps
    let bytes := leBytes token.toNat 4 ++ leBytes pos 4 ++ leBytes st.toNat 2 ++ leBytes i 2 ++ leBytes step.toNat 4
    (s.writeFunc (s.ctx x.ctx).func at_ bytes).setSeq i { x with outPi := x.outPi + 1 }

/-- The producer index written behind a sequence's records (R155): `old` is the one that its ring shows. -/
def State.outIndex (s : State) (i : Nat) (old : BitVec 16) : State :=
  let x := s.seq i
  if x.outPi = old then s else s.writeFunc (s.ctx x.ctx).func x.ring (leBytes x.outPi.toNat 4)

/-! ## Commands (R130, R131) -/

/-- Whether a partition accepts no new work: drained, or draining (R437). -/
def State.noWork (s : State) (part : Nat) : Bool := maskBit s.pwr.drained part || maskBit s.pwr.draining part

/-- OUT_RING: log2 of the ring's entries. -/
def admitLog2 (p : Packet) : Nat := u64 p 48 % 32
/-- CHUNK: 0 means 4. -/
def admitChunk (p : Packet) : Nat := if u8 p 18 = 0 then 4 else u8 p 18

/-- The checks of SEQ_ADMIT, in the order of R131. -/
def chkSeqAdmit (s : State) (c : Nat) (p : Packet) : Option Status :=
  let part := (s.ctx c).part
  match s.model (u8 p 17) with
  | none => some stBadParam
  | some m =>
    let maxLen := u32 p 24
    let size := kvSize m maxLen
    if (u8 p 16 ≠ 2 ∧ u8 p 16 ≠ 3) ∨ admitChunk p < 2 ∨ admitChunk p > 16 ∨
       (u8 p 19 ≠ 0xFF ∧ u8 p 19 ≥ ((s.image.map fun i => i.sparse.length).getD 0)) ∨
       maxLen = 0 ∨ maxLen > 131072 ∨ maxLen > m.maxLen ∨ u32 p 28 = 0 ∨ u32 p 32 = 0 ∨ u32 p 28 + u32 p 32 > maxLen ∨
       admitLog2 p < 6 ∨ admitLog2 p > 16 then some stBadParam
    else if m.part ≠ part ∨ u64 p 40 + 4 * u32 p 28 > (s.partCfg part).lpLen ∨ (m.pooled ∧ s.glob.pkgId ≠ 0) then some stNotAuth
    else if size > (s.partCfg part).kvLen then some stNoFit
    else if (s.seqsOf part).length ≥ (s.partCfg part).seqQuota ∨ (s.kvFit part size).isNone ∨ s.noWork part ∨
        lowestUnlisted 0 s.srv.ents ≥ 4096 then some stBusy
    else none

/-- The class of SEQ_ADMIT and STRM_OPEN: that of their CLASS parameter (R304). -/
def openClass (s : State) (c : Nat) (p : Packet) : Nat := if u8 p 16 = 2 ∨ u8 p 16 = 3 then u8 p 16 else (s.ctx c).cls

/-- SEQ_ADMIT, 0x0310 (R130 to R132): an entry in WAIT_SLOT with its key-value region. -/
def execSeqAdmit (c : Nat) (p : Packet) (_h : HostRead) (s : State) : Out :=
  .next (s.command c p 0x0310 (openClass s c p) (chkSeqAdmit s c p) fun s r =>
    let part := (s.ctx c).part
    match s.model (u8 p 17) with
    | none => s
    | some m =>
      let size := kvSize m (u32 p 24)
      let base := (s.kvFit part size).getD 0
      let i := lowestUnlisted 0 s.srv.ents
      let x : SeqEntry := {
        state := .waitSlot, cls := u8 p 16, ctx := c, part := part, keep := bitOf (u8 p 20) 0, model := u8 p 17, chunk := admitChunk p,
        sparse := u8 p 19, maxLen := u32 p 24, posStart := w32 (u32 p 56), promptLeft := u32 p 28, kvBase := base, kvLen := size,
        promptAddr := u64 p 40, newLeft := u32 p 32, seed := w32 (u32 p 36), ring := u64 p 48 / 4096 * 4096, ringLog2 := admitLog2 p,
        tag := p.tag }
      (s.setSeq i x).replyNow r [w32 i, w32 base, w32 (base / 2 ^ 32)])

/-- The entry a serving command names. -/
def seqArg (p : Packet) : Nat := u16 p 16

/-- The first two checks of R130 on the entry a command names, and that of R161. -/
def chkSeqNamed (s : State) (c : Nat) (p : Packet) : Option Status :=
  let x := s.seq (seqArg p)
  if x.state = .free then some stBadParam else if x.ctx ≠ c ∨ s.mirrored x then some stNotAuth else none

/-- The class of a command that names an entry: the entry's, or the context's where none is found (R304). -/
def seqClass (s : State) (c : Nat) (p : Packet) : Nat := if (chkSeqNamed s c p).isNone then (s.seq (seqArg p)).cls else (s.ctx c).cls

/-- The checks of SEQ_APPEND (R131, R437). -/
def chkSeqAppend (s : State) (c : Nat) (p : Packet) : Option Status :=
  let x := s.seq (seqArg p)
  match chkSeqNamed s c p with
  | some st => some st
  | none =>
    if x.state ≠ .idle ∨ u32 p 28 = 0 ∨ u32 p 32 = 0 ∨ x.length + u32 p 28 + u32 p 32 > x.maxLen then some stBadParam
    else if s.noWork x.part then some stBusy else none

/-- SEQ_APPEND, 0x0311. -/
def execSeqAppend (c : Nat) (p : Packet) (_h : HostRead) (s : State) : Out :=
  .next (s.command c p 0x0311 (seqClass s c p) (chkSeqAppend s c p) fun s r =>
    let x := s.seq (seqArg p)
    (s.setSeq (seqArg p) { x with state := .waitSlot, promptLeft := u32 p 28, newLeft := u32 p 32, promptAddr := u64 p 40, ended := false }).replyNow r)

/-- An entry moved to RETIRING with OK, at once or, while its partition runs a step, at the boundary that ends it (R129, R159). -/
def State.stopSeq (s : State) (i : Nat) : State :=
  let x := s.seq i
  if x.state = .retiring ∨ x.state = .free then s
  else if (s.builder x.part).running then s.setSeq i { x with stopReq := true }
  else s.setSeq i { x with state := .retiring, stopReq := true, status := stOk }

/-- SEQ_STOP, 0x0312. -/
def execSeqStop (c : Nat) (p : Packet) (s : State) : Out :=
  .next (s.command c p 0x0312 (seqClass s c p) (chkSeqNamed s c p) fun s r => (s.stopSeq (seqArg p)).replyNow r)

/-- The number of a sequence state (R129). -/
def SeqState.code : SeqState → Nat
  | .free => 0
  | .waitSlot => 1
  | .prompt => 2
  | .decode => 3
  | .parked => 4
  | .idle => 5
  | .retiring => 6

/-- FLAGS of an entry (R128). -/
def SeqEntry.flags (x : SeqEntry) : Nat :=
  bitAt x.keep 0 + bitAt x.stopReq 1 + bitAt x.corrupt 2 + bitAt x.rerun 3 + bitAt x.slot.isSome 4 + bitAt x.pageParked 5

/-- Bytes 0 to 3 and 8 to 23 of an entry (R128). -/
def SeqEntry.words (x : SeqEntry) : List Word :=
  [w32 (x.flags * 2 ^ 24 + x.ctx % 64 * 2 ^ 16 + x.cls * 256 + x.state.code), w32 (x.sparse * 2 ^ 24 + x.length % 2 ^ 18),
   w32 (x.maxLen % 2 ^ 18), x.posStart + w32 x.length, w32 (x.promptLeft % 2 ^ 18)]

/-- SEQ_QUERY, 0x0313: the entry as at the latest step boundary, its STATUS in AUX (R128, R300). -/
def execSeqQuery (c : Nat) (p : Packet) (s : State) : Out :=
  .next (s.command c p 0x0313 (seqClass s c p) (chkSeqNamed s c p) fun s r =>
    let x := tblGet {} s.srv.shown (seqArg p)
    s.complete r stOk (if x.state = .free then List.replicate 5 0 else x.words) x.status)

/-! ## The step builder (R134) -/

/-- Whether an entry receives steps: its context is ATTACHED (R290). -/
def State.seqRuns (s : State) (i : Nat) : Bool := decide ((s.ctx (s.seq i).ctx).state = .attached)

/-- An order of entries by a rank, the smaller first, then by ascending index: insertion. -/
def insertBy (rank : Nat → Nat) (i : Nat) : List Nat → List Nat
  | [] => [i]
  | j :: rest => if rank i < rank j ∨ (rank i = rank j ∧ i < j) then i :: j :: rest else j :: insertBy rank i rest

/-- Entries in descending HELD, then ascending index. -/
def State.byHeld (s : State) (is : List Nat) : List Nat := is.foldl (fun l i => insertBy (fun k => 15 - (s.seq k).held) i l) []

/-- What the builder has formed: the list, the positions still free for tokens and for chunks, and the entries held over. -/
structure ListAcc where
  list : List (Nat × Nat) := []
  tok  : Nat := 0
  chk  : Nat := 0
  held : List Nat := []
  deriving DecidableEq, Repr

/-- One entry taken into the work list, cut, or held over (R134). -/
def State.takeSeq (s : State) (big : Template) (a : ListAcc) (i : Nat) : ListAcc :=
  let x := s.seq i
  let dec := x.state == .decode
  let room := if dec then a.tok else a.chk
  let fits := fun n => n > 0 && s.seqRuns i && x.room (x.needs n) && decide (a.list.length < big.seqMax)
  let put := fun n => { a with list := a.list ++ [(i, n)], tok := (if dec then a.tok - n else a.tok), chk := (if dec then a.chk else a.chk - n) }
  if decide (x.want ≤ room) && fits x.want then put x.want
  else if !dec && decide (room ≥ 64) && decide (64 * (room / 64) < x.want) && fits (64 * (room / 64)) then put (64 * (room / 64))
  else { a with held := a.held ++ [i] }

/-- The work list of a partition for one model (R134). -/
def State.workList (s : State) (part mdl : Nat) (big : Template) : ListAcc :=
  let live := (s.seqsOf part).filter fun i => (s.seq i).state == .prompt || (s.seq i).state == .decode
  let c2 := live.any fun i => (s.seq i).cls == 2 && s.seqRuns i
  let other := live.filter fun i => (s.seq i).model != mdl
  let a := [(2, SeqState.decode), (2, .prompt), (3, .decode), (3, .prompt)].foldl (fun a g =>
    let group := s.byHeld (live.filter fun i => (s.seq i).model == mdl && (s.seq i).cls == g.1 && (s.seq i).state == g.2)
    if g.1 = 3 ∧ (s.builder part).credit3 ≤ 0 ∧ c2 then { a with held := a.held ++ group } else group.foldl (s.takeSeq big) a)
    ({ tok := big.tokMax, chk := big.chkMax } : ListAcc)
  { a with held := a.held ++ other }

/-- The first template whose every bound holds a list of `k` sequences (R133). -/
def pickTemplate (ts : List Template) (k tok chk : Nat) : Nat :=
  (ts.findIdx? fun t => decide (k ≤ t.seqMax ∧ tok ≤ t.tokMax ∧ chk ≤ t.chkMax)).getD 0

/-- The models of a partition's live entries in the order in which the builder tries them: those above the model stepped last, then the others,
each in ascending order (log entry 16). -/
def State.modelOrder (s : State) (part : Nat) : List Nat :=
  let live := ((s.seqsOf part).filter fun i => (s.seq i).state == .prompt || (s.seq i).state == .decode).map fun i => (s.seq i).model
  let all := (List.range 256).filter live.contains
  let last := (s.builder part).lastMdl
  all.filter (fun m => decide (m > last)) ++ all.filter fun m => decide (m ≤ last)

/-- A step's list formed for a model; the entries left out of it are held over and counted (R134, R135). -/
def State.formList (s : State) (part mdl : Nat) (m : ModelCfg) (a : ListAcc) : State :=
  let dec := fun e : Nat × Nat => (s.seq e.1).state == .decode
  let tok := ((a.list.filter dec).map Prod.snd).foldl (· + ·) 0
  let chk := ((a.list.filter fun e => !dec e).map Prod.snd).foldl (· + ·) 0
  let b := s.builder part
  let s := s.setBuilder part { b with list := a.list, model := mdl, tpl := pickTemplate m.templates a.list.length tok chk, lastMdl := mdl }
  let s := List.foldl (fun s e => s.setSeq e.1 { s.seq e.1 with held := 0 }) s a.list
  let s := List.foldl (fun s i => s.setSeq i { s.seq i with held := min ((s.seq i).held + 1) 15 }) s a.held
  { s with srv := { s.srv with holdCnt := satAdd s.srv.holdCnt a.held.length } }

/-- The work list formed at a boundary: that of the first model in the builder's order whose list is not empty. A package that does not lead a
pooled model forms none for it (R161). -/
def State.buildList (s : State) (part : Nat) : State :=
  let tries := (s.modelOrder part).filterMap fun mdl => match s.model mdl with
    | none => none
    | some m => match m.templates.getLast? with
      | none => none
      | some big =>
        let a := s.workList part mdl big
        if a.list = [] ∨ (m.pooled ∧ s.glob.pkgId ≠ 0) then none else some (mdl, m, a)
  match tries with
  | [] => s
  | (mdl, m, a) :: _ => s.formList part mdl m a

/-! ## Boundaries -/

/-- The entries that are RETIRING leave (R129, R157, R160): an end record for one that has none and whose owner remains, once
its ring has room; then the slot, the region and the entry are free. An entry that mirrors the lead's leaves with it (R161). -/
def State.retireSeq (lost : BoundaryLoss) (s : State) (i : Nat) : State :=
  let x := s.seq i
  if s.mirrored x || !(x.ended || x.gone || x.room 1) then s else
    let s := if x.ended || x.gone then s else (s.outRecord lost i 0xFFFFFFFF x.length x.status).outIndex i x.outPi
    let s := if Status.usable x.status then s else { s with srv := { s.srv with retireCnt := satInc s.srv.retireCnt } }
    { s with srv := { s.srv with ents := tblErase s.srv.ents i } }

/-- Parks and grants at a boundary (R137, R159, R437); entries that mirror the lead's move with them (R161). -/
def State.slotsAtBoundary (s : State) (lost : BoundaryLoss) (part : Nat) : State :=
  let is := (s.seqsOf part).filter fun i => !s.mirrored (s.seq i)
  let drain := s.noWork part
  let waiting := is.filter fun i => (s.seq i).state == .waitSlot || (s.seq i).state == .parked
  let park := fun i =>
    let x := s.seq i
    (x.state == .prompt || x.state == .decode) &&
      (drain || !x.room (x.needs x.want) || (decide (x.held ≥ 8) && waiting.any fun j => decide ((s.seq j).cls ≤ x.cls)))
  let s := List.foldl (fun s i => s.parkSeq lost i .parked) s (is.filter park)
  if drain then s else
    let order := s.byHeld (waiting.filter fun i => (s.seq i).cls == 2) ++ s.byHeld (waiting.filter fun i => (s.seq i).cls != 2)
    List.foldl State.grantSlot s order

/-- What a boundary does for a partition (R129, R134, R137, R159, R160): the entries that were RETIRING leave, stops and lost owners take effect,
slots move, the next list is formed, and the entries are shown as they now stand. -/
def State.seqBoundary (s : State) (lost : BoundaryLoss) (part : Nat) (leaving : List Nat) : State :=
  let s := List.foldl (State.retireSeq lost) s leaving
  let s := List.foldl (fun s i =>
    let x := s.seq i
    if (x.stopReq || x.gone) && x.state != .retiring then s.setSeq i { x with state := .retiring, status := stOk } else s) s (s.seqsOf part)
  let s := s.slotsAtBoundary lost part
  let s := if s.noWork part then s else s.buildList part
  let kept := s.srv.shown.filter fun e => e.2.part != part
  let shown := List.foldl (fun t i => tblSet {} t i (s.seq i)) kept (s.seqsOf part)
  { s with srv := { s.srv with shown := shown } }

/-- The entries of a partition that are RETIRING. -/
def State.retiring (s : State) (part : Nat) : List Nat := (s.seqsOf part).filter fun i => (s.seq i).state == .retiring

/-- A class 2 and class 3 slice of a partition is open that has opened since the boundary of its latest step (R133, R278). -/
def State.sliceOpen (s : State) (part : Nat) : Bool := s.sched.slices.any fun x =>
  x.part == part && decide (s.time.cnt < x.endT) && (match (s.builder part).boundT with
    | none => true
    | some b => decide (x.openT > b))

/-! ## The start of a step -/

/-- A position of a step: the sequence that owns it, its place in the sequence, which of the step's positions of that sequence it is, and
whether it belongs to a chunk. -/
structure StepPos where
  seq   : Nat
  at_   : Nat
  off   : Nat
  chunk : Bool
  deriving DecidableEq, Repr

/-- The positions of the step that a partition runs, in the order of its list. -/
def State.stepPositions (s : State) (part : Nat) : List StepPos := (s.builder part).list.flatMap fun e =>
  (List.range e.2).map fun k => ⟨e.1, (s.seq e.1).length + k, k, (s.seq e.1).state == .prompt⟩

/-- The template that a partition's step runs. -/
def State.stepTemplate (s : State) (part : Nat) : Option Template := (s.model (s.builder part).model).bind fun m => m.templates[(s.builder part).tpl]?

/-- Where the prompt token of a position lies in LPDDR. -/
def State.tokenAddr (s : State) (p : StepPos) : Nat := (s.partCfg (s.seq p.seq).part).lpBase + (s.seq p.seq).promptAddr + 4 * p.off

/-- The token of a position: the prompt's (R131), or the one generated last (R139). -/
def State.tokenOf (s : State) (p : StepPos) : Nat := if p.chunk then leNat (s.lpRead (s.tokenAddr p) 4) else (s.seq p.seq).last.toNat

/-- What a position meets as its token is read (R157): a prompt token outside the partition's window, poisoned data, or a token at or above
the vocabulary size. -/
def State.tokenFault (s : State) (m : ModelCfg) (p : StepPos) : Status :=
  let x := s.seq p.seq
  if p.chunk ∧ x.promptAddr + 4 * (p.off + 1) > (s.partCfg x.part).lpLen then stNotAuth
  else if p.chunk ∧ s.lpPoisoned (s.tokenAddr p) 4 then stEcc
  else if s.tokenOf p ≥ m.vocab then stDataError
  else stOk

/-- Position `i` of a step prepared (R128, R131, R153): its token goes into the index list of the token gather, its positional index beside it;
a fault marks the position. -/
def State.placePos (s : State) (id : WorkId) (m : ModelCfg) (t : Template) (p : StepPos) (i : Nat) : State :=
  let st := s.tokenFault m p
  let s := match t.tokAt with
    | some a => if st.usable || st == stDataError then s.spWrite (a + 4 * i) (leBytes (s.tokenOf p) 4) else s
    | none => s
  let s := match t.posAt with
    | some a => s.spWrite (a + 4 * i) (leBytes ((s.seq p.seq).posStart + w32 p.at_).toNat 4)
    | none => s
  if st.usable then s else
    let s := s.addPos id i st
    if st = stEcc then s.copyFault m else s

/-- The VPU and the address generator of every region that a template uses work in the window of its passes there (log entry 205). -/
def State.stepWins (s : State) (id : WorkId) (part : Nat) (t : Template) : State :=
  List.foldl (fun s (sh : Share) => match s.physOf sh.lreg with
    | none => s
    | some k => List.foldl (fun s slot => if (s.winOf k slot).work.isSome then s else s.takeWin k slot sh.base sh.bound part id) s [65, 66])
    s (t.passes.flatMap PassCfg.shares)

/-- The positions of a step that one of its passes serves. -/
def servedPos (ps : List StepPos) (cfg : PassCfg) : List Nat :=
  (ps.zipIdx.filter fun e => cfg.serves == 0 || e.1.chunk == (cfg.serves == 2)).map Prod.snd

/-- A partition's step begins to run its template (R133): its tokens are placed and its passes start. -/
def State.beginStep (s : State) (part : Nat) (m : ModelCfg) (t : Template) : State :=
  let id := WorkId.step part
  let work : Work := { id := id, part := part }
  let s := { s with cmp := { s.cmp with works := s.cmp.works ++ [work] } }
  let ps := s.stepPositions part
  let s := List.foldl (fun s e => s.placePos id m t e.1 e.2) s ps.zipIdx
  (s.stepWins id part t).startPasses id 2 part (fun cfg => some (servedPos ps cfg)) t.passes

/-- STEP_START (R133): in a slice that has opened since the latest boundary the builder's list starts to run; where no list waits, the
partition stands at a boundary, whose work is done first. -/
def execStepStart (t part : Nat) (s : State) : Out :=
  let s := s.advance t
  .next (if !s.powered || (s.builder part).running || !s.sliceOpen part || s.noWork part || s.image.isNone then s else
    let s := if (s.builder part).list = [] then s.seqBoundary {} part (s.retiring part) else s
    let b := s.builder part
    let list := b.list.filter fun e => (s.seq e.1).state == .prompt || (s.seq e.1).state == .decode
    if list = [] then s.setBuilder part { b with list := [] } else
      let s := s.setBuilder part { b with list := list, running := true }
      match s.model b.model, s.stepTemplate part with
      | some m, some t => s.beginStep part m t
      | _, _ => s)

/-! ## The end of a step -/

/-- The status a sequence meets in a step, in the order of R157. -/
def worstFault (fs : List Status) : Option Status :=
  if fs.contains stEcc then some stEcc else if fs.contains stNotAuth then some stNotAuth else fs.head?

/-- A sequence corrupt in this step (R157): its records of the step are discarded and it retires. -/
def State.corruptSeq (s : State) (i : Nat) (st : Status) : State :=
  s.setSeq i { s.seq i with state := .retiring, corrupt := true, status := st }

/-- The output-stage inputs of a position. -/
def State.outInputs (s : State) (t : Template) (i : Nat) : List Word :=
  (List.range t.outLen).map fun k => w32 (leNat (s.spRead (t.outAt + 4 * (t.outLen * i + k)) 4))

/-- What the output-stage inputs of a position show (R157): poisoned data, or a NaN or an infinity. -/
def State.outFault (s : State) (t : Template) (i : Nat) : Status :=
  if s.spPoisoned (t.outAt + 4 * t.outLen * i) (4 * t.outLen) then stEcc
  else if (s.outInputs t i).any (fun w => !f32Fin w) then stDataError
  else stOk

/-- The faults of R157 that a sequence has met in a step: those of its `n` positions from position `first` of the step on, of the step as a
whole (R158), and of the output-stage inputs of its last position where that gives a token. -/
def State.seqFaults (s : State) (id : WorkId) (t : Template) (first n : Nat) (gives : Bool) : List Status :=
  (((List.range n).map fun k => s.posStatus id (first + k)) ++ [s.workStatus (some id)] ++
    (if gives then [s.outFault t (first + n - 1)] else [])).filter fun st => !st.usable

/-- A sequence that has finished leaves its slot: IDLE for a class 2 sequence with KEEP, its partial page parked, else RETIRING (R129, R146). -/
def State.finishSeq (s : State) (lost : BoundaryLoss) (i : Nat) : State :=
  let x := s.seq i
  if x.keep ∧ x.cls = 2 then s.parkSeq lost i .idle else s.setSeq i { x with state := .retiring }

/-- The records of a sequence in a step (R155, R156): the token, if it has given one, and the end record of one that has finished; then the
producer index. -/
def State.seqRecords (s : State) (lost : BoundaryLoss) (i : Nat) (tok : Option Word) (finished : Bool) : State :=
  let x := s.seq i
  let s := match tok with
    | some w => s.outRecord lost i w x.length x.status
    | none => s
  let s := if finished then
      let s := s.outRecord lost i 0xFFFFFFFF x.length x.status
      s.setSeq i { s.seq i with ended := true }
    else s
  s.outIndex i x.outPi

/-- A sequence's part of a step at the step's end (R138, R139, R155 to R157); `first` is its first position in the step. -/
def State.advanceSeq (s : State) (lost : BoundaryLoss) (id : WorkId) (m : ModelCfg) (t : Template) (e : Nat × Nat) (first : Nat) : State :=
  let i := e.1
  let n := e.2
  let x := s.seq i
  let chunk := x.state == .prompt
  let left := if chunk then x.promptLeft - n else 0
  match worstFault (s.seqFaults id t first n (left == 0)) with
  | some st =>
    let s := if left == 0 && s.outFault t (first + n - 1) == stEcc then s.copyFault m else s
    s.corruptSeq i st
  | none =>
    let again := (List.range n).any fun k => s.posStatus id (first + k) == stWideRerun
    let y := { x with length := x.length + n, promptLeft := left, promptAddr := (if chunk then x.promptAddr + 4 * n else x.promptAddr),
                      rerun := x.rerun || again, status := s.posStatus id (first + n - 1) }
    if left > 0 then s.setSeq i y
    else
      let tok := Config.outputStage ((s.image.map Image.ident).getD 0) x.model x.seed (x.posStart + w32 (x.length + n - 1)) (s.outInputs t (first + n - 1))
      let z := { y with state := .decode, newLeft := (if tok.isSome then y.newLeft - 1 else y.newLeft), last := tok.getD y.last }
      let finished := tok.isNone || z.newLeft == 0
      let s := s.setSeq i z
      let s := if finished then s.finishSeq lost i else s
      if (s.seq i).corrupt then s else s.seqRecords lost i tok finished

/-- The time charged to a list's class 3 positions. -/
def State.class3Positions (s : State) (list : List (Nat × Nat)) : Nat :=
  ((list.filter fun e => (s.seq e.1).cls == 3).map Prod.snd).foldl (· + ·) 0

/-- The time T_t of a template (R133, R152, R366): with its varying features only where they are allowed. -/
def templateTime (det : Bool) (t : Template) : Nat := if det || !t.features then t.time else t.timeVar

/-- credit3 after a step (R134), in 1/256 of the templates' time unit. -/
def State.newCredit (s : State) (part : Nat) (m : ModelCfg) (b : Builder) : Int :=
  let t := (m.templates[b.tpl]?).getD { seqMax := 0, tokMax := 0, chkMax := 0, time := 0 }
  let tmax := templateTime s.glob.det (m.templates.getLast?.getD t)
  let c3 := t.c3PerPos * s.class3Positions b.list
  min (b.credit3 + templateTime s.glob.det t * (s.partCfg part).share3 - 256 * c3) (4 * 256 * tmax)

/-- The detaches and resets that wait for a partition's boundary are replied to (R303). -/
def State.leavingReplies (s : State) (part : Nat) : State :=
  let due := s.cmd.leaving.filter fun e => e.1 == part
  let s := { s with cmd := { s.cmd with leaving := s.cmd.leaving.filter fun e => e.1 != part } }
  List.foldl (fun s e => s.complete e.2 stOk) s due

/-- Whether work has nothing left to end: no pass of it and no transfer is under way or waits (R133). -/
def State.workQuiet (s : State) (id : WorkId) : Bool :=
  !(s.passes.any fun e => e.2.key.work == id) && !(s.cmp.ports.any fun e => e.2.xfers.any fun x => x.work == some id)

/-- The sequences of a step advance in the order of its list. -/
def State.advanceAll (s : State) (lost : BoundaryLoss) (id : WorkId) (m : ModelCfg) (t : Template) : List (Nat × Nat) → Nat → State
  | [], _ => s
  | e :: rest, first => (s.advanceSeq lost id m t e first).advanceAll lost id m t rest (first + e.2)

/-- STEP_BOUNDARY (R133, R157 to R160): the last pass, flush and transfer of the running step are over; each of its sequences has advanced or is
corrupt, and the boundary's work is done. The row brings the writes that fail: partial pages with their status, and contexts. -/
def execStepBoundary (t part : Nat) (parks : List (Nat × BitVec 16)) (writes : List Nat) (s : State) : Out :=
  let s := s.advance t
  let lost : BoundaryLoss := ⟨parks, writes⟩
  .next (if !s.powered || !(s.builder part).running || !s.workQuiet (.step part) then s else
    let b := s.builder part
    let leaving := s.retiring part
    let s := match s.model b.model, s.stepTemplate part with
      | some m, some tpl =>
        let s := s.setBuilder part { b with steps := b.steps + 1, credit3 := s.newCredit part m b }
        let s := { s with srv := { s.srv with steps := satInc s.srv.steps } }
        s.advanceAll lost (.step part) m tpl b.list 0
      | _, _ => s
    let s := (s.setBuilder part { s.builder part with running := false, list := [], boundT := some s.time.cnt }).endWork (.step part)
    (s.settle.seqBoundary lost part leaving).leavingReplies part)

/-! ## Pooled models (R161) -/

/-- The state of a number (R129). -/
def seqStateOf (n : Nat) : SeqState := match n with
  | 1 => .waitSlot
  | 2 => .prompt
  | 3 => .decode
  | 4 => .parked
  | 5 => .idle
  | 6 => .retiring
  | _ => .free

/-- An entry of a pooled model read from the 64 bytes that the lead sends (R128), its region sized for the package's own heads. -/
def seqFromBytes (m : ModelCfg) (bs : List Byte) : SeqEntry :=
  let f := fun o n => leNat (bytesAt bs o n)
  let flags := f 3 1
  let len := f 8 4 % 2 ^ 18
  { state := seqStateOf (f 0 1), cls := f 1 1, ctx := f 2 1 % 64, part := m.part, keep := bitOf flags 0, stopReq := bitOf flags 1,
    corrupt := bitOf flags 2, rerun := bitOf flags 3, pageParked := bitOf flags 5, model := m.index, held := f 4 1 / 16, chunk := f 5 1,
    slot := (if bitOf flags 4 then some (f 6 2 % 2 ^ 12) else none), length := len, sparse := f 11 1, maxLen := f 12 4 % 2 ^ 18,
    posStart := w32 (f 16 4) - w32 len, promptLeft := f 20 4 % 2 ^ 18, kvBase := f 24 8, kvLen := kvSize m (f 12 4 % 2 ^ 18),
    promptAddr := f 32 8, newLeft := f 40 4, seed := w32 (f 44 4), ring := f 48 8 / 4096 * 4096, ringLog2 := f 48 1 % 32,
    status := BitVec.ofNat 16 (f 56 2), outPi := BitVec.ofNat 16 (f 58 2), tag := w32 (f 60 4) }

/-- A mirror entry brought to what the lead sends: a slot that the lead has taken back is parked, one that it has granted is given, with the
package's own partial page (R146, R161); the token generated last is the package's own. -/
def State.mirrorSeq (s : State) (i : Nat) (x : SeqEntry) (granted : Bool) : State :=
  let old := s.seq i
  let s := if old.slot.isSome && x.slot.isNone && x.state != .retiring then s.parkSeq {} i x.state else s
  let mine := s.seq i
  let y := { x with last := old.last, pageParked := mine.pageParked }
  match x.slot with
  | some k => if granted || old.slot.isNone then (s.setSeq i { y with slot := none }).giveSlot i k else s.setSeq i y
  | none => s.setSeq i y

/-- POOL_WORK_LIST_RECEIVE (R161): a package that does not lead takes over the lead's entries, its grants, its template and its work list. -/
def execPoolWorkListReceive (t model : Nat) (work : PoolWork) (grants : PoolGrants) (s : State) : Out :=
  let s := s.advance t
  .next (match s.model model with
    | none => s
    | some m =>
      if !s.powered || !m.pooled || s.glob.pkgId == 0 || (s.builder m.part).running then s else
        let listed := grants.entries.filter fun e => decide (e.1 < 4096)
        let gone := (s.seqsOf m.part).filter fun i => (s.seq i).model == model && !listed.any fun e => e.1 == i
        let s := List.foldl (fun s i => { s with srv := { s.srv with ents := tblErase s.srv.ents i } }) s gone
        let s := List.foldl (fun s e => s.mirrorSeq e.1 (seqFromBytes m e.2) (grants.granted.contains e.1)) s listed
        s.setBuilder m.part { s.builder m.part with list := work.list.filter (fun w => listed.any fun e => e.1 == w.1), model := model, tpl := work.tpl })

/-! ## Clears (R163) -/

/-- CMD_SRV_CLEAR.RETIRE. -/
def execCmdSrvClearRetire (s : State) : Out :=
  .next (s.hostWrite fun w x => { x with srv := { x.srv with retireCnt := sinceMark w.srv.retireCnt x.srv.retireCnt } })
/-- CMD_SRV_CLEAR.FLUSH. -/
def execCmdSrvClearFlush (s : State) : Out :=
  .next (s.hostWrite fun w x => { x with srv := { x.srv with flushCnt := sinceMark w.srv.flushCnt x.srv.flushCnt } })
/-- CMD_SRV_CLEAR.HOLD. -/
def execCmdSrvClearHold (s : State) : Out :=
  .next (s.hostWrite fun w x => { x with srv := { x.srv with holdCnt := sinceMark w.srv.holdCnt x.srv.holdCnt } })
/-- CMD_SRV_CLEAR.STEPS. -/
def execCmdSrvClearSteps (s : State) : Out :=
  .next (s.hostWrite fun w x => { x with srv := { x.srv with steps := sinceMark w.srv.steps x.srv.steps } })

end Sys2Proof.Machine
end

