-- ==== Sys2Proof/Machine/Pass.lean ====
section
/-! DEFINITION. How a compiled layer pass ends (R44, R57, R61 to R67, R71, R94, R137): the counts, the trip decision, the wide re-run, and what
is made of the results: they are written, stored as keys and values (R141), or computed as attention (R147). -/
namespace Sys2Proof.Machine

/-! ## The end of a pass in a region -/

/-- Whether an attention pass waits for a flush of its layer (R144). -/
def State.flushWaits (s : State) (p : RunPass) : Bool := match p.cfg.use, s.model (s.builder p.part).model with
  | .attn layer _, some m =>
    let poss := s.stepPositions p.part
    s.cmp.ports.any fun e => e.2.xfers.any fun x => x.work == some p.key.work && (match x.owner.bind fun i => poss[i]? with
      | some q => s.stageBase (s.seq q.seq) m layer == some x.base
      | none => false)
  | _, _ => false

/-- Whether the part of a pass that a region runs is at its end: every cluster has strobed its sets and the last result is available (R84), or the
MVU's time is over (R90). -/
def State.shareDone (s : State) (k : Nat) (p : RunPass) : Bool :=
  p.ready && (
    if p.isAttn then !s.flushWaits p
    else if p.cfg.onMvu then (match p.began with
      | none => false
      | some b => decide (s.cycleOf k + 1 ≥ b + p.mvuTime))
    else (List.range 4).all (fun c => decide (tblGet 0 p.strobed c ≥ p.waves c)) && decide (s.cycleOf k ≥ p.doneCyc))

/-- The part of a pass that a region has run, with its results by position. -/
structure ShareEnd where
  k    : Nat
  p    : RunPass
  cols : List (List ColOut)
  deriving DecidableEq, Repr

/-- The parts of a pass with their results. -/
def State.shareEnds (s : State) (key : PassKey) : List ShareEnd :=
  (s.passes.filter fun e => e.2.key == key).map fun e => ⟨e.1, e.2, (List.range e.2.vecs.length).map (e.2.results (s.passIn e.2))⟩

/-- The lead region of a pass: the lowest-numbered logical region that runs it (R61). -/
def leadShare (ends : List ShareEnd) : Option ShareEnd :=
  ends.foldl (fun m e => match m with
    | none => some e
    | some a => if e.p.sh.lreg < a.p.sh.lreg then some e else some a) none

/-- The columns of every region for the position at a place among the vectors of the pass. -/
def colsAt (ends : List ShareEnd) (pos : Nat) : List ColOut := ends.flatMap fun e => e.cols.getD pos []

/-- The places of a pass's positions among its vectors. -/
def ShareEnd.places (e : ShareEnd) : List Nat := List.range e.p.vecs.length

/-! ## Counts and the trip (R61, R64, R71) -/

/-- A pass's counts added in a region, with the read cycles of its MVU (R44, R52, R53, R71). -/
def State.addEnd (s : State) (e : ShareEnd) : State :=
  s.addRun e.k e.cols.flatten (if e.p.cfg.onMvu && !e.p.isAttn then e.p.mvuReads else 0)

/-- The parity faults that a pass has met in its regions (R94). -/
def State.parityFaults (s : State) (id : WorkId) (o : PassOuts) : State :=
  let s := List.foldl (fun s e => match s.physOf e.1 with
    | some k => if e.2 < 4 then s.parityFault k e.2 (some id) else s
    | none => s) s o.parity
  List.foldl (fun s l => match s.physOf l with
    | some k => s.mvuParityFault k (some id)
    | none => s) s o.mvuParity

/-- Whether a trip of a pass is discarded and re-run: FALLBACK marks its layer, and it is not class 0 (R64, R68). -/
def RunPass.marked (p : RunPass) : Bool := p.desc.fallback && decide (p.desc.mode ≤ 1) && p.cls != 0

/-- The places that are decided together, with their results: each position of a template step alone (R137), otherwise the whole pass. -/
def tripGroups (lead : ShareEnd) (ends : List ShareEnd) : List (List Nat × List ColOut) :=
  if lead.p.template then lead.places.map fun pos => ([pos], colsAt ends pos)
  else [(lead.places, lead.places.flatMap (colsAt ends))]

/-- Whether the position at a place still has a usable status. -/
def State.placeUsable (s : State) (p : RunPass) (pos : Nat) : Bool :=
  (s.workStatus (some p.key.work)).usable && (!p.template || (s.posStatus p.key.work (p.vecs.getD pos 0)).usable)

/-- The decision of R61 for each group: trips are recorded, and the places whose results are discarded are answered. What has failed already is
not re-run. -/
def State.decideTrips (s : State) (lead : ShareEnd) : List (List Nat × List ColOut) → State × List Nat
  | [] => (s, [])
  | g :: rest =>
    let trip := tripOf lead.p.desc g.2
    if trip.1 || trip.2 then
      let again := lead.p.marked && g.1.all (s.placeUsable lead.p)
      let r := (s.recordTrip lead.k lead.p.desc.layerId (lead.p.cls == 0) trip again).decideTrips lead rest
      (r.1, if again then g.1 ++ r.2 else r.2)
    else s.decideTrips lead rest

/-- The wide re-run of the part of a pass in a region (R62, R65): the same products from the BF16 copy in direct-multiply mode, for the positions at
some places, in the reduction blocks of the layer's own mode. -/
def RunPass.again (p : RunPass) (places : List Nat) : RunPass :=
  { p with wide := some (Machine.blockLen p.desc.mode), desc := { p.desc with mode := 5 }, vecs := places.map fun pos => p.vecs.getD pos 0,
           loaded := [], strobed := [], store := [], doneCyc := 0, began := none, ready := true }

/-! ## Results -/

/-- The FP32 results of a pass's regions written for the positions at some places, each at its own (R57, log entry 204). -/
def State.writeResults (s : State) (e : ShareEnd) (places : List Nat) : State :=
  match e.p.sh.out with
  | none => s
  | some o => List.foldl (fun s pos =>
      s.spWrite (e.p.sh.base + o + 4 * e.p.sh.count * e.p.vecs.getD pos 0) (wordBytes ((e.cols.getD pos []).map ColOut.value))) s places

/-- The parts of a pass in the order of their first results. -/
def byFirst (ends : List ShareEnd) : List ShareEnd := ends.mergeSort fun a b => decide (a.p.sh.first ≤ b.p.sh.first)

/-- How many positions of the running step a sequence has. -/
def State.stepCount (s : State) (part seq : Nat) : Nat := (((s.builder part).list.find? fun e => e.1 == seq).map Prod.snd).getD 0

/-- The keys or values of a layer stored for the positions at some places (R141, R143). -/
def State.storePass (s : State) (ends : List ShareEnd) (p : RunPass) (m : ModelCfg) (layer kind : Nat) (places : List Nat) : State :=
  let poss := s.stepPositions p.part
  List.foldl (fun s pos => match poss[p.vecs.getD pos 0]? with
    | none => s
    | some q =>
      let res := (byFirst ends).flatMap fun e => (e.cols.getD pos []).map ColOut.value
      s.storeKv p.key.work q.seq m q.chunk (s.stepCount p.part q.seq) layer kind q.at_ res) s places

/-- The flushes of a layer once its keys and values are stored (R144): one for every sequence whose step has written position 63 of the page in
its staging slot. -/
def State.flushStep (s : State) (p : RunPass) (m : ModelCfg) (layer : Nat) : State :=
  List.foldl (fun s e =>
    let q := e.1
    let x := s.seq q.seq
    if q.at_ % 64 = 63 ∧ !directPos q.chunk x.length (s.stepCount p.part q.seq) q.at_ ∧ (s.posStatus p.key.work e.2).usable
    then s.flushLayer p.key.work e.2 q.seq m layer (q.at_ / 64) else s) s (s.stepPositions p.part).zipIdx

/-- Whether a pass stores keys or values of a layer. -/
def RunPass.storesKv (p : RunPass) (layer : Nat) : Bool := match p.cfg.use with
  | .kv l _ => l == layer
  | _ => false

/-- One attention result of a pass: head `first` + `h` of its region for a position of the step (R147 to R152). A query or result outside the window
is refused (R105), and poisoned data marks the position (R122, R137). -/
def State.attnHead (s : State) (k : Nat) (p : RunPass) (m : ModelCfg) (layer : Nat) (fp16 : Bool) (o : PassOuts) (i : Nat) (q : StepPos) (h : Nat) : State :=
  let n := 2 * m.dim
  let qAt := p.sh.acts.getD i 0 + h * n
  let outAt := p.sh.out.getD 0 + (i * p.sh.count + h) * n
  let head := p.sh.first + h
  let x := s.seq q.seq
  let len := x.length + s.stepCount p.part q.seq
  if !s.inRange p.sh.base p.sh.bound qAt n then (s.boundRecord k p.slot 2 qAt).addPos p.key.work i stNotAuth
  else if !s.inRange p.sh.base p.sh.bound outAt n then (s.boundRecord k p.slot 3 outAt).addPos p.key.work i stNotAuth
  else if s.winPoisoned p (qAt, n) || s.attnPoisoned x m len layer head q.at_ then (s.addPos p.key.work i stEcc).faultUnit k
  else
    let bytes := s.spRead (p.sh.base + qAt) n
    let a := s.attnIn x m len layer head q.at_ fp16 ((List.range m.dim).map fun d => BitVec.ofNat 16 (leNat (bytesAt bytes (2 * d) 2)))
    let plan := ((o.plans.find? fun e => e.1 == i && e.2.1 == head).map fun e => e.2.2).getD []
    let r := s.attnOut x m a q.at_ plan
    (s.addNonfinite k r.2).spWrite (p.sh.base + outAt) (r.1.flatMap fun v => leBytes v.toNat 2)

/-- The attention of the positions of a step in a region. -/
def State.attnPass (s : State) (e : ShareEnd) (m : ModelCfg) (layer : Nat) (fp16 : Bool) (o : PassOuts) : State :=
  let poss := s.stepPositions e.p.part
  List.foldl (fun s pos =>
    let i := e.p.vecs.getD pos 0
    match poss[i]? with
    | none => s
    | some q => List.foldl (fun s h => if s.placeUsable e.p pos then s.attnHead e.k e.p m layer fp16 o i q h else s) s (List.range e.p.sh.count)) s e.places

/-- What a pass's results at some places are used for. -/
def State.useResults (s : State) (ends : List ShareEnd) (lead : ShareEnd) (o : PassOuts) (places : List Nat) : State :=
  let places := places.filter (s.placeUsable lead.p)
  match lead.p.cfg.use, s.model (s.builder lead.p.part).model with
  | .product, _ => List.foldl (fun s e => s.writeResults e places) s ends
  | .kv layer kind, some m => (List.foldl (fun s e => s.writeResults e places) s ends).storePass ends lead.p m layer kind places
  | .attn layer fp16, some m => List.foldl (fun s e => s.attnPass e m layer fp16 o) s ends
  | _, none => s

/-- Results of the compiled VPU work that follows a pass (R42, R44): they are counted and written in the window of the region's VPU (R105). -/
def State.vpuOut (s : State) (ends : List ShareEnd) (v : VpuOut) : State :=
  match ends.find? fun e => e.p.sh.lreg == v.lreg with
  | none => s
  | some e =>
    let id := e.p.key.work
    let bs := v.vals.flatMap (VpuFmt.bytes v.fmt)
    if !(s.workStatus (some id)).usable then s
    else if !s.inRange e.p.sh.base e.p.sh.bound v.offset bs.length then (s.refuse e.k 65 3 v.offset (some id) e.p.cls).dropPasses id
    else (s.addNonfinite e.k (countIf (VpuFmt.counted v.fmt) v.vals)).spWrite (e.p.sh.base + v.offset) bs

/-! ## The rows -/

/-- A pass leaves its regions. -/
def State.removePass (s : State) (key : PassKey) : State :=
  { s with cmp := { s.cmp with regions := tblMap {} (fun _ (x : Region) =>
    { x with passes := x.passes.filter fun p => p.key != key, mvus := x.mvus.filter fun p => p.key != key }) s.cmp.regions } }

/-- A pass is over, and what waits for it goes on: the flushes of a layer once no pass that stores its keys or values is left (R144), and the passes
that use its results. -/
def State.endPass (s : State) (p : RunPass) : State :=
  let s := s.removePass p.key
  let s := match p.cfg.use, s.model (s.builder p.part).model with
    | .kv layer _, some m =>
      if s.passes.any fun e => e.2.key.work == p.key.work && e.2.storesKv layer then s else s.flushStep p m layer
    | _, _ => s
  s.settle

/-- What becomes of a pass whose results at some places are discarded: each of its regions re-runs it for them (R64, R65). -/
def State.rerunPass (s : State) (ends : List ShareEnd) (places : List Nat) : State :=
  (List.foldl (fun s e => s.readyPass e.k (e.p.again places)) s ends).settle

/-- LAYER_PASS_END (R61, R64, R71, R94, R137): every region of a started pass is at its end; the parity faults it has met are recorded, the counts
added, and the lead region decides; discarded results are re-run, the others are used. -/
def execLayerPassEnd (t : Nat) (pass : PassEnd) (s : State) : Out :=
  let s := s.advance t
  let ends := s.shareEnds ⟨pass.work, pass.idx⟩
  .next (match leadShare ends with
    | none => s
    | some lead =>
      if !s.powered || !ends.all (fun e => s.shareDone e.k e.p && e.p.wide.isNone) then s else
        let s := List.foldl State.addEnd (s.parityFaults pass.work pass.outs) ends
        let (s, again) := if lead.p.isAttn then (s, []) else s.decideTrips lead (tripGroups lead ends)
        let s := s.useResults ends lead pass.outs (lead.places.filter fun pos => !again.contains pos)
        if again = [] then (List.foldl (fun s v => s.vpuOut ends v) s pass.outs.vpu).endPass lead.p else s.rerunPass ends again)

/-- The status of results that a re-run gives (R67): the task's, or that of each position re-run. -/
def State.rerunStatus (s : State) (p : RunPass) : State :=
  if p.template then List.foldl (fun s i => s.addPos p.key.work i stWideRerun) s p.vecs else s.addStatus (some p.key.work) stWideRerun

/-- WIDE_RERUN_COMPLETE (R64 to R67): the re-run of a discarded pass is at its end in every region; it adds its counts, is counted by the
lead region, never trips, and its results carry OK_WIDE_RERUN. -/
def execWideRerunComplete (t : Nat) (pass : PassEnd) (s : State) : Out :=
  let s := s.advance t
  let ends := s.shareEnds ⟨pass.work, pass.idx⟩
  .next (match leadShare ends with
    | none => s
    | some lead =>
      if !s.powered || !ends.all (fun e => s.shareDone e.k e.p && e.p.wide.isSome) then s else
        let s := List.foldl State.addEnd (s.parityFaults pass.work pass.outs) ends
        let x := s.region lead.k
        let s := (s.setRegion lead.k { x with rerunCnt := satInc x.rerunCnt }).rerunStatus lead.p
        let s := s.useResults ends lead pass.outs lead.places
        (List.foldl (fun s v => s.vpuOut ends v) s pass.outs.vpu).endPass lead.p)

end Sys2Proof.Machine
end

