-- ==== Sys2Proof/Machine/Linalg.lean ====
section
/-! DEFINITION. The FP64 work of the solver complex: assembly programs (R193 to R195), factorisations and triangular solves
(R197, R198), direct solves (R199), ADMM (R200) and the cycles each takes (R202). Every operation rounds once (R46); the order of
a reduction that the spec leaves open is `Config.sumTree`. -/
namespace Sys2Proof.Machine

/-- A sum of products along a tree, over the terms not yet used; what is left over is given back with it. -/
def SumTree.run (ts : List (DWord × DWord)) : SumTree → List Nat → DWord × List Nat
  | .chain idx, left =>
    let use := (idx.filter left.contains).dedup
    (use.foldl (fun acc i => match ts[i]? with
      | some (a, b) => f64Fma a b acc
      | none => acc) 0, left.filter fun i => !use.contains i)
  | .add l r, left =>
    let (a, left) := SumTree.run ts l left
    let (b, left) := SumTree.run ts r left
    (f64Add a b, left)

/-- A sum of products in the order of an operation and its sizes (R189): every term is used once. -/
def sumProd (use n m : Nat) (ts : List (DWord × DWord)) : DWord :=
  let (a, left) := SumTree.run ts (Config.sumTree use n m ts.length) (List.range ts.length)
  left.foldl (fun acc i => match ts[i]? with
    | some (x, y) => f64Fma x y acc
    | none => acc) a

/-- 1 in FP64. -/
def f64One : DWord := 0x3FF0000000000000
/-- A number with its sign turned. -/
def f64Neg (x : DWord) : DWord := x ^^^ 0x8000000000000000
/-- The magnitude of a number. -/
def f64Abs (x : DWord) : DWord := x &&& 0x7FFFFFFFFFFFFFFF
/-- Whether a number is a NaN. -/
def f64Nan (x : DWord) : Bool := (f64Val x).isNan
/-- Whether one number is at most another. -/
def f64Le (a b : DWord) : Bool := !f64Nan a && !f64Nan b && !f64Lt b a
/-- An integer in FP64. -/
def f64OfNat (n : Nat) : DWord := BitVec.ofNat 64 (fp64.ofInt n)
/-- 2 to a power from -1022 to 1023. -/
def f64Pow2 (e : Int) : DWord := BitVec.ofNat 64 ((e + 1023).toNat * 2 ^ 52)
/-- The infinity norm of a list: its largest magnitude, the canonical NaN where an element is one (R43). -/
def normInf (v : List DWord) : DWord :=
  if v.any f64Nan then 0x7FF8000000000000 else v.foldl (fun a x => if f64Lt a (f64Abs x) then f64Abs x else a) 0
/-- Whether every number of a list is finite. -/
def allFin (v : List DWord) : Bool := v.all f64Fin
/-- Element `i` of a vector. -/
def vget (v : List DWord) (i : Nat) : DWord := v.getD i 0

/-! ## Assembly (R193 to R195) -/

/-- The elements of a target object (R193). -/
def targetLen (d : ProbDesc) (tgt : Nat) : Nat :=
  match tgt with
  | 0 => if d.op = 3 then d.n * d.n else d.n * (d.n + 1) / 2
  | 1 => d.m * d.n
  | 3 | 4 => d.m
  | _ => d.n

/-- The fields of an assembly instruction (R194). -/
structure AsmInstr where
  opc    : Nat
  tgt    : Nat
  src    : Nat
  tidx   : Nat
  len    : Nat
  stride : Nat
  sidx   : Nat
  fidx   : Nat
  deriving DecidableEq, Repr

/-- An assembly instruction read from its 64 bits (R194). -/
def asmInstr (w : DWord) : AsmInstr :=
  let n := w.toNat
  { opc := bitsOf n 61 3, tgt := bitsOf n 58 3, src := bitsOf n 56 2, tidx := bitsOf n 41 15,
    len := (if bitsOf n 33 8 = 0 then 256 else bitsOf n 33 8), stride := bitsOf n 29 4, sidx := bitsOf n 15 14, fidx := bitsOf n 2 13 }

/-- The instructions that a program performs: those before END. -/
def asmBody (prog : List DWord) : List AsmInstr := (prog.map asmInstr).takeWhile fun i => i.opc != 0

/-- What programs read: parameters, the front measurement half, the solution store. -/
structure Sources where
  params : List DWord
  meas   : List Word
  prev   : List DWord
  deriving DecidableEq, Repr

/-- A source element (R194); what lies beyond PARAM_LEN, MEAS_LEN or n is a free value of its source and place (log entry 199). -/
def Sources.get (x : Sources) (src i : Nat) : DWord :=
  let beyond := BitVec.ofNat 64 (Config.freeNat 199 (16384 * src + i))
  match src with
  | 0 => x.params.getD i beyond
  | 1 => (x.meas[i]?.map f32ToF64).getD beyond
  | _ => x.prev.getD i beyond

/-- Whether a value ends the run that writes it into a target (R196): a NaN, and an infinity unless it is a bound (R197). -/
def asmWrong (tgt : Nat) (v : DWord) : Bool := if tgt = 3 ∨ tgt = 4 then f64Nan v else !f64Fin v

/-- One instruction on its target object, and whether a value that it writes ends the run (R194, R196). -/
def asmRun (x : Sources) (t : List DWord) (i : AsmInstr) : List DWord × Bool :=
  let f := if i.fidx = 0x1FFF then f64One else x.get 0 i.fidx
  (List.range i.len).foldl (fun (t, bad) k =>
    let v := x.get i.src (i.sidx + k * i.stride)
    let old := vget t (i.tidx + k)
    let new := if i.opc = 1 then f64Mul v f else if i.opc = 2 then f64Mul old f else f64Fma v f old
    (t.set (i.tidx + k) new, bad || asmWrong i.tgt new)) (t, false)

/-- A program under way: its target objects in the order of TGT, the cycles of the instructions so far, and those at the end of the first
instruction that wrote a value which ends the run. -/
structure Asm where
  objs : List (List DWord)
  cyc  : Nat := 0
  bad  : Option Nat := none
  deriving DecidableEq, Repr

/-- One instruction of a program (R195). -/
def asmStep (x : Sources) (a : Asm) (i : AsmInstr) : Asm :=
  let (t, bad) := asmRun x (a.objs.getD i.tgt []) i
  let cyc := a.cyc + (i.len + 3) / 4 + 2
  { objs := a.objs.set i.tgt t, cyc := cyc, bad := a.bad.or (if bad then some cyc else none) }

/-- What a program comes to, from objects of +0 (R195). -/
def assembly (d : ProbDesc) (x : Sources) (prog : List DWord) : Asm :=
  (asmBody prog).foldl (asmStep x) { objs := (List.range 6).map fun t => List.replicate (targetLen d t) 0 }

/-- An object after a program. -/
def Asm.obj (a : Asm) (tgt : Nat) : List DWord := a.objs.getD tgt []

/-- The parameter indices that a matrix program reads (R201). -/
def paramsRead (prog : List DWord) : List Nat :=
  (asmBody prog).flatMap fun i =>
    (if i.fidx = 0x1FFF then [] else [i.fidx]) ++
      (if i.src = 0 ∧ i.opc ≠ 2 then (List.range i.len).map fun k => i.sidx + k * i.stride else [])

/-- The cycles of a program (R195, R202). -/
def asmCycles (prog : List DWord) : Nat := ((asmBody prog).map fun i => (i.len + 3) / 4 + 2).foldl (· + ·) 16

/-- Element (i, j) of a symmetric matrix stored packed lower by rows (R193). -/
def packed (a : List DWord) (i j : Nat) : DWord := if j ≤ i then vget a (i * (i + 1) / 2 + j) else vget a (j * (j + 1) / 2 + i)

/-- Element (i, j) of the assembled matrix. -/
def matAt (d : ProbDesc) (a : List DWord) (i j : Nat) : DWord := if d.op = 3 then vget a (i * d.n + j) else packed a i j

/-- D_REF (R195): the largest magnitude of the diagonal, or of the whole matrix for LU. -/
def dRef (d : ProbDesc) (a : List DWord) : DWord :=
  if d.op = 3 then normInf a else normInf ((List.range d.n).map fun i => packed a i i)

/-- NA (R195). -/
def naOf (d : ProbDesc) (a : List DWord) : DWord := f64Mul (f64OfNat d.n) (normInf a)

/-! ## Factorisations (R197, R198) -/

/-- A pivot after static regularisation, and whether it was replaced (R198): `chol` compares the value under the root. -/
def regularise (chol : Bool) (delta p : DWord) : DWord × Bool :=
  if f64Nan p then (p, false)
  else if chol then (if f64Lt p delta then (delta, true) else (p, false))
  else if (f64Val p).isZero then (delta, true)
  else if f64Lt (f64Abs p) delta then (if f64Lt p 0 then f64Neg delta else delta, true)
  else (p, false)

/-- One row of L: its entries left of the diagonal in order, from the rows and pivots before it. LDLT scales by the pivots. -/
def lowRow (chol : Bool) (n : Nat) (a : Nat → DWord) (f : Factor) : Nat → List DWord
  | 0 => []
  | j + 1 =>
    let l := lowRow chol n a f j
    let terms := (List.range j).map fun k =>
      let u := vget (f.low.getD j []) k
      (f64Neg (vget l k), if chol then u else f64Mul u (vget f.piv k))
    l ++ [f64Div (sumProd (if chol then 2 else 1) n 0 ((a j, f64One) :: terms)) (vget f.piv j)]

/-- LDLT and CHOL, row by row (R197). -/
def factorSym (chol : Bool) (n : Nat) (a : Nat → Nat → DWord) (delta : DWord) : Nat → Factor
  | 0 => {}
  | i + 1 =>
    let f := factorSym chol n a delta i
    let l := lowRow chol n (a i) f i
    let terms := (List.range i).map fun k => (f64Neg (vget l k), if chol then vget l k else f64Mul (vget l k) (vget f.piv k))
    let (p, r) := regularise chol delta (sumProd (if chol then 2 else 1) n 0 ((a i i, f64One) :: terms))
    { f with low := f.low ++ [l], piv := f.piv ++ [if chol then f64Sqrt p else p], reg := f.reg + (if r then 1 else 0) }

/-- A row that LU has not chosen yet: its place in the matrix and its entries of L so far. -/
structure LuRow where
  row : Nat
  low : List DWord
  deriving DecidableEq, Repr

/-- The rows left and the factor after the first columns of LU with partial pivoting (R197): the largest magnitude of the
column, the lowest row on a tie. -/
def factorLu (n : Nat) (a : Nat → Nat → DWord) (delta : DWord) : Nat → Factor × List LuRow
  | 0 => ({}, (List.range n).map fun i => { row := i, low := [] })
  | k + 1 =>
    let (f, rows) := factorLu n a delta k
    let entry := fun (r : LuRow) (j : Nat) =>
      sumProd 3 n 0 ((a r.row j, f64One) :: (List.range k).map fun p => (f64Neg (vget r.low p), vget (f.up.getD p []) (j - p - 1)))
    let col := rows.map fun r => entry r k
    let best := (List.range rows.length).foldl (fun b i => if f64Lt (f64Abs (vget col b)) (f64Abs (vget col i)) then i else b) 0
    match rows with
    | [] => (f, [])
    | first :: _ =>
      let chosen := rows.getD best first
      let (p, r) := regularise false delta (vget col best)
      let up := (List.range (n - k - 1)).map fun j => entry chosen (k + 1 + j)
      let rest := ((rows.zip col).set best (first, vget col 0)).drop 1
      ({ f with low := f.low ++ [chosen.low], piv := f.piv ++ [p], up := f.up ++ [up], perm := f.perm ++ [chosen.row],
                reg := f.reg + (if r then 1 else 0) },
       rest.map fun e => { e.1 with low := e.1.low ++ [f64Div e.2 p] })

/-- The factor of a matrix under an operation. -/
def factorise (op n : Nat) (a : Nat → Nat → DWord) (delta : DWord) : Factor :=
  if op = 3 then (factorLu n a delta n).1 else factorSym (op == 2) n a delta n

/-- Forward substitution with a unit (or, for CHOL, divided) lower triangle. -/
def forward (op n : Nat) (f : Factor) (b : Nat → DWord) : Nat → List DWord
  | 0 => []
  | i + 1 =>
    let y := forward op n f b i
    let v := sumProd 4 n op ((b i, f64One) :: (List.range i).map fun k => (f64Neg (vget (f.low.getD i []) k), vget y k))
    y ++ [if op = 2 then f64Div v (vget f.piv i) else v]

/-- Back substitution over the last `k` unknowns: the values of unknowns n - k to n - 1. -/
def backward (op n : Nat) (f : Factor) (y : List DWord) : Nat → List DWord
  | 0 => []
  | k + 1 =>
    let x := backward op n f y k
    let i := n - k - 1
    let coef := fun j => if op = 3 then vget (f.up.getD i []) (j - i - 1) else vget (f.low.getD j []) i
    let terms := (List.range k).map fun p => (f64Neg (coef (i + 1 + p)), vget x p)
    let v := sumProd 5 n op ((vget y i, f64One) :: terms)
    (if op = 2 ∨ op = 3 then f64Div v (vget f.piv i) else v) :: x

/-- A triangular solve with a factor (R197, R199). -/
def trisolve (op n : Nat) (f : Factor) (b : List DWord) : List DWord :=
  let y := forward op n f (fun i => vget b (if op = 3 then f.perm.getD i i else i)) n
  let y := if op = 2 ∨ op = 3 then y else (List.range n).map fun i => f64Div (vget y i) (vget f.piv i)
  backward op n f y n

/-! ## Times (R202), in hub cycles -/

/-- A quotient rounded up. -/
def ceilDiv (a b : Nat) : Nat := (a + b - 1) / b
/-- T_F. -/
def tF (op n : Nat) : Nat := if op = 3 then ceilDiv (n ^ 3) 24 + 28 * n + 32 else ceilDiv (n ^ 3) 48 + 20 * n + 32
/-- T_S. -/
def tS (n : Nat) : Nat := ceilDiv (n ^ 2) 8 + 10 * n + 16
/-- T_R. -/
def tR (n : Nat) : Nat := ceilDiv (n ^ 2) 8 + 2 * n + 24
/-- T_I. -/
def tI (n : Nat) : Nat := tS n + tR n + ceilDiv n 8 + 4
/-- T_G. -/
def tG (n m : Nat) : Nat := ceilDiv (n * (n + 1) * (m + 1)) 16 + 32
/-- T_0. -/
def t0 (n m : Nat) : Nat := ceilDiv (m * n) 8 + ceilDiv m 8 + 8
/-- T_K. -/
def tK (n m : Nat) : Nat := 3 * ceilDiv (m * n) 8 + tS n + 4 * ceilDiv m 8 + 2 * ceilDiv n 8 + 24
/-- An inner refinement step of QP_ADMM. -/
def tInner (n m : Nat) : Nat := tS n + ceilDiv (n ^ 2) 8 + 2 * ceilDiv (m * n) 8 + 2 * n + 28 + ceilDiv n 8
/-- T_OUT. -/
def tOut (n : Nat) : Nat := ceilDiv n 4 + 20

/-! ## Solves (R199, R200) -/

/-- An evaluated iterate: the cycle at which it is, counted from the start of the solves; the solution; whether it is
acceptable; the RESID it would report; STEPS; and how many solves have stopped capped by then (R199). `fin` is false where a
NaN or an infinity has appeared in it. -/
structure Iterate where
  cyc    : Nat
  x      : List DWord
  ok     : Bool
  resid  : DWord
  steps  : Nat
  caps   : Nat
  capped : Bool
  fin    : Bool
  deriving DecidableEq, Repr

/-- rho(r, x) of R199. -/
def rho (na : DWord) (r x b : List DWord) : DWord :=
  let den := f64Add (f64Mul na (normInf x)) (normInf b)
  if (f64Val den).isZero then 0 else f64Div (normInf r) den

/-- b - A x, one chain of fused multiply-adds per row (R199). -/
def residual (n : Nat) (a : Nat → Nat → DWord) (b x : List DWord) : List DWord :=
  (List.range n).map fun i => (List.range n).foldl (fun acc j => f64Fma (f64Neg (a i j)) (vget x j) acc) (vget b i)

/-- The sum of two vectors. -/
def vadd (a b : List DWord) : List DWord := (a.zip b).map fun e => f64Add e.1 e.2

/-- Refinement from an iterate on (R199): each evaluated iterate in order, `left` steps at most. -/
def refine (res : List DWord → List DWord) (solve : List DWord → List DWord) (na epsRef : DWord) (b : List DWord) : Nat → List DWord → List (List DWord × List DWord × DWord)
  | left, x =>
    let r := res x
    let q := rho na r x b
    match left with
    | 0 => [(x, r, q)]
    | k + 1 =>
      if f64Lt epsRef q ∧ allFin x ∧ allFin r then (x, r, q) :: refine res solve na epsRef b k (vadd x (solve r)) else [(x, r, q)]

/-- The evaluated iterates of a direct solve (R199). -/
def directSolve (d : ProbDesc) (a : Nat → Nat → DWord) (na : DWord) (f : Factor) (b : List DWord) : List Iterate :=
  let its := refine (residual d.n a b) (trisolve d.op d.n f) na d.epsRef b d.refineMax (trisolve d.op d.n f b)
  (List.range its.length).map fun j =>
    let (x, r, q) := its.getD j ([], [], 0)
    let capped := decide (0 < d.refineMax) && decide (j = d.refineMax) && f64Lt d.epsRef q
    { cyc := tS d.n + tR d.n + j * tI d.n, x := x, ok := f64Le q d.epsAcc, resid := q, steps := j, caps := (if capped then 1 else 0),
      capped := capped, fin := allFin x && allFin r && f64Fin q }

/-- What ADMM works on (R200): P, G, q, the bounds, σ and ρ come with the problem. -/
structure Qp where
  p  : Nat → Nat → DWord
  g  : Nat → Nat → DWord
  q  : List DWord
  lo : List DWord
  hi : List DWord

/-- A value between its bounds. -/
def clamp (v lo hi : DWord) : DWord := if f64Lt v lo then lo else if f64Lt hi v then hi else v

/-- G x. -/
def gx (d : ProbDesc) (w : Qp) (x : List DWord) : List DWord :=
  (List.range d.m).map fun i => sumProd 6 d.n d.m ((List.range d.n).map fun j => (w.g i j, vget x j))

/-- Gᵀ v. -/
def gtv (d : ProbDesc) (w : Qp) (v : List DWord) : List DWord :=
  (List.range d.n).map fun j => sumProd 7 d.n d.m ((List.range d.m).map fun i => (w.g i j, vget v i))

/-- K = P + σI + ρGᵀG (R197), element by element. -/
def kAt (d : ProbDesc) (w : Qp) (i j : Nat) : DWord :=
  let p := if i = j then f64Add (w.p i j) d.sigma else w.p i j
  f64Add p (f64Mul d.rho (sumProd 8 d.n d.m ((List.range d.m).map fun k => (w.g k i, w.g k j))))

/-- The residual of an inner solve, formed from P, σ, ρ and G without K (R200). -/
def kResidual (d : ProbDesc) (w : Qp) (b x : List DWord) : List DWord :=
  let gt := gtv d w (gx d w x)
  (List.range d.n).map fun i =>
    let r := (List.range d.n).foldl (fun acc j => f64Fma (f64Neg (w.p i j)) (vget x j) acc) (vget b i)
    f64Fma (f64Neg d.rho) (vget gt i) (f64Fma (f64Neg d.sigma) (vget x i) r)

/-- What one ADMM iteration hands to the next. -/
structure AdmmState where
  x    : List DWord
  z    : List DWord
  y    : List DWord
  cyc  : Nat
  caps : Nat
  deriving DecidableEq, Repr

/-- The ADMM iterations `it` on, `left` of them, up to the first that is not finite (R200, R209). -/
def admmFrom (d : ProbDesc) (w : Qp) (na : DWord) (f : Factor) : Nat → Nat → AdmmState → List Iterate
  | 0, _, _ => []
  | left + 1, it, s =>
    let gt := gtv d w ((s.z.zip s.y).map fun e => f64Sub (f64Mul d.rho e.1) e.2)
    let rhs := (List.range d.n).map fun i => f64Add (f64Sub (f64Mul d.sigma (vget s.x i)) (vget w.q i)) (vget gt i)
    let first := trisolve 1 d.n f rhs
    let inner := if d.refineMax = 0 then [(first, [], 0)] else refine (kResidual d w rhs) (trisolve 1 d.n f) na d.epsRef rhs d.refineMax first
    let (xn, r, q) := inner.getLastD (first, [], 0)
    let j := inner.length - 1
    let capped := decide (0 < d.refineMax) && decide (j = d.refineMax) && f64Lt d.epsRef q
    let v := gx d w xn
    let zn := (List.range d.m).map fun i => clamp (f64Add (vget v i) (f64Div (vget s.y i) d.rho)) (vget w.lo i) (vget w.hi i)
    let yn := (List.range d.m).map fun i => f64Add (vget s.y i) (f64Mul d.rho (f64Sub (vget v i) (vget zn i)))
    let rp := normInf ((v.zip zn).map fun e => f64Sub e.1 e.2)
    let rd := f64Mul d.rho (normInf (gtv d w ((zn.zip s.z).map fun e => f64Sub e.1 e.2)))
    let dz := f64Add f64One (normInf zn)
    let dq := f64Add f64One (normInf w.q)
    let a := f64Div rp dz
    let b := f64Div rd dq
    let next : AdmmState := { x := xn, z := zn, y := yn, cyc := s.cyc + tK d.n d.m + j * tInner d.n d.m, caps := s.caps + (if capped then 1 else 0) }
    let fin := allFin xn && allFin r && allFin zn && allFin yn && f64Fin rp && f64Fin rd
    let me : Iterate := { cyc := next.cyc, x := xn, ok := f64Le rp (f64Mul d.epsAcc dz) && f64Le rd (f64Mul d.epsAcc dq),
                          resid := (if f64Lt a b then b else a), steps := it, caps := next.caps, capped := capped, fin := fin }
    if fin then me :: admmFrom d w na f left (it + 1) next else [me]

/-- The evaluated iterates of a QP_ADMM run from a starting point (R200). -/
def admm (d : ProbDesc) (w : Qp) (na : DWord) (f : Factor) (x0 : List DWord) : List Iterate :=
  let z := (List.range d.m).map fun i => clamp (vget (gx d w x0) i) (vget w.lo i) (vget w.hi i)
  admmFrom d w na f d.iters 1 { x := x0, z := z, y := List.replicate d.m 0, cyc := t0 d.n d.m, caps := 0 }

/-- The store shifted by one step (R207). -/
def shiftStore (d : ProbDesc) (x : List DWord) : List DWord :=
  (List.range x.length).map fun i => if i < (d.horizon - 1) * d.stepVars then vget x (i + d.stepVars) else vget x i

end Sys2Proof.Machine
end

