-- ==== Sys2Proof/Machine/Solver.lean ====
section
/-! DEFINITION. The solver complex: the start, the vector program, the end and the output of a run, its commands and its
counter clears (R190 to R217). -/
namespace Sys2Proof.Machine

/-- A problem slot. -/
def State.prob (s : State) (i : Nat) : Prob := tblGet {} s.slv.probs i
/-- Changing a problem slot. -/
def State.setProb (s : State) (i : Nat) (x : Prob) : State := { s with slv := { s.slv with probs := tblSet {} s.slv.probs i x } }

/-- The start of the hub cycle that a tick lies in. -/
def cycStart (t : Nat) : Nat := t / 2 * 2

/-- The lanes that a problem occupies (R192). -/
def lanesOf (d : ProbDesc) : Word := w32 (2 ^ d.lane + bitAt d.pair (d.lane + 1))

/-- X_INIT to X_INIT + n - 1 of the active bank (R207). -/
def Prob.initStore (x : Prob) : List DWord := (List.range x.desc.n).map fun i => vget x.active (x.desc.xInit + i)

/-- What the programs of a run read. -/
def Prob.sources (x : Prob) : Sources := { params := x.active, meas := x.front, prev := x.store }

/-! ## What a run computes -/

/-- What a run comes to, with ticks: the factor it makes and when that is complete, its evaluated iterates with the ticks at
which they are, and when a non-finite value ends it, if one does (R209). -/
structure SlvPlan where
  facEnd : Nat
  made   : Option KeptFactor := none
  its    : List (Nat × Iterate) := []
  bad    : Option Nat := none
  deriving DecidableEq, Repr

/-- Whether every value of a factor is finite. -/
def Factor.finite (f : Factor) : Bool := allFin f.piv && f.low.all allFin && f.up.all allFin

/-- Iterates at their ticks up to the first that is not finite, and the tick of that one. -/
def takeFinite (base : Nat) : List Iterate → List (Nat × Iterate) × Option Nat
  | [] => ([], none)
  | i :: rest =>
    if i.fin then
      let (l, b) := takeFinite base rest
      ((base + 2 * i.cyc, i) :: l, b)
    else ([], some (base + 2 * i.cyc))

/-- The matrix side of a run (R195): A or P, G, D_REF, NA, and how many cycles after its start a non-finite value or a D_REF of 0 ends
the run, if one does (R209). -/
structure MatSide where
  mat  : List DWord
  matG : List DWord
  dref : DWord
  na   : DWord
  bad  : Option Nat := none
  deriving DecidableEq, Repr

/-- The matrix side of a run: that of the kept factor, or what its matrix program assembles. -/
def Prob.matSide (x : Prob) (keep : Bool) : MatSide :=
  match x.kept, keep with
  | some k, true => { mat := k.mat, matG := k.matG, dref := k.dref, na := k.na }
  | _, _ =>
    let a := assembly x.desc x.sources x.desc.matProg
    let dref := dRef x.desc (a.obj 0)
    { mat := a.obj 0, matG := a.obj 1, dref := dref, na := naOf x.desc (a.obj 0),
      bad := a.bad.or (if (f64Val dref).isZero then some (asmCycles x.desc.matProg) else none) }

/-- The tick at which its matrix side ends a run, if it does. -/
def Prob.matBad (x : Prob) (r : SlvRun) : Option Nat := (x.matSide r.keep).bad.map fun c => r.startT + 2 * c

/-- Whether its matrix side has ended a run by the present cycle. -/
def State.matLost (s : State) (x : Prob) (r : SlvRun) : Bool := (x.matBad r).any fun b => decide (b ≤ s.time.cnt / 2 * 2 + 1)

/-- The course of a run whose vector program started at tick `vecT` (R195 to R202). -/
def Prob.plan (x : Prob) (r : SlvRun) (vecT : Nat) : SlvPlan :=
  let d := x.desc
  let m := x.matSide r.keep
  let v := assembly d x.sources d.vecProg
  let b := v.obj 2
  let lo := v.obj 3
  let hi := v.obj 4
  let vecEnd := cycStart vecT + 2 * asmCycles d.vecProg
  let crossed := (lo.zip hi).any fun e => f64Lt e.2 e.1
  let kept := if r.keep then x.kept else none
  let facEnd := if kept.isSome then vecEnd else vecEnd + 2 * ((if d.op = 4 then tG d.n d.m else 0) + tF d.op d.n)
  let w : Qp := { p := packed m.mat, g := fun i j => vget m.matG (i * d.n + j), q := b, lo := lo, hi := hi }
  match v.bad, crossed with
  | some c, _ => { facEnd := facEnd, bad := some (cycStart vecT + 2 * c) }
  | none, true => { facEnd := facEnd, bad := some vecEnd }
  | none, false =>
    let made : Option KeptFactor := if kept.isSome then none else
      some { mat := m.mat, matG := m.matG, dref := m.dref, na := m.na,
             factor := factorise (if d.op = 4 then 1 else d.op) d.n (if d.op = 4 then kAt d w else matAt d m.mat) (f64Mul (f64Pow2 d.tauExp) m.dref) }
    let f := match kept with
      | some k => k.factor
      | none => (made.map KeptFactor.factor).getD {}
    if f.piv.any f64Nan then { facEnd := facEnd, made := made, bad := some facEnd } else
      let (its, bad) := takeFinite facEnd
        (if d.op = 4 then admm d w m.na f (if d.warm then shiftStore d x.store else v.obj 5) else directSolve d (matAt d m.mat) m.na f b)
      { facEnd := facEnd, made := made, its := its, bad := bad }

/-- The tick at which a run ends of itself. -/
def SlvPlan.finish (p : SlvPlan) : Nat := match p.bad with
  | some b => b
  | none => (p.its.getLast?.map Prod.fst).getD p.facEnd

/-! ## Start and vector program -/

/-- A problem at the start of a run: the parameter bank switch and the SLV_RESET that wait for it take effect (R201, R211, R214). -/
def Prob.atStart (x : Prob) : Prob :=
  let x := match x.next with
    | none => x
    | some ps =>
      { x with active := ps, next := none, touched := [],
               kept := (if (paramsRead x.desc.matProg).any x.touched.contains then none else x.kept) }
  if x.resetDue then { x with store := x.initStore, age := 0, kept := none, resetDue := false } else x

/-- An assembly engine works for a problem until a tick. -/
def State.runEngine (s : State) (slot stop : Nat) : State :=
  if (s.prob slot).desc.lane < 16 then { s with slv := { s.slv with asmProb0 := slot, asmEnd0 := stop } }
  else { s with slv := { s.slv with asmProb1 := slot, asmEnd1 := stop } }

/-- An assembly engine that works for a problem stops. -/
def State.stopEngine (s : State) (slot : Nat) : State :=
  let v := s.slv
  let now := s.time.cnt
  { s with slv := { v with
    asmEnd0 := (if (s.prob slot).desc.lane < 16 ∧ v.asmProb0 = slot then min v.asmEnd0 now else v.asmEnd0),
    asmEnd1 := (if (s.prob slot).desc.lane ≥ 16 ∧ v.asmProb1 = slot then min v.asmEnd1 now else v.asmEnd1) } }

/-- A run begins in the present cycle, on a problem that has taken what waited for it: the matrix program starts unless the kept factor is
reused (R201). -/
def State.beginRun (s : State) (slot : Nat) (x : Prob) (r : SlvRun) : State :=
  let keep := x.desc.keepFactor && x.kept.isSome
  let stop := r.startT + 2 * asmCycles x.desc.matProg
  let s := s.setProb slot { x with run := some { r with keep := keep, matEnd := (if keep then r.startT else stop) } }
  if keep then s else s.runEngine slot stop

/-- A run starts (R190, R214). -/
def State.startRun (s : State) (slot : Nat) (entry : Option (Nat × Nat)) (cmd : Option CmdRef) (dl : DWord) : State :=
  let x := (s.prob slot).atStart
  let start := cycStart s.time.cnt
  s.beginRun slot { x with runs := x.runs + 1 } { entry := entry, cmd := cmd, startT := start, matEnd := start, dl := dl }

/-- A bank switch or a reset that comes in the cycle in which a run has started acts on that run (R211). -/
def State.sameStart (s : State) (slot : Nat) : State := match (s.prob slot).run with
  | some r => if r.startT = cycStart s.time.cnt ∧ r.vecT = none then (s.stopEngine slot).beginRun slot (s.prob slot).atStart r else s
  | none => s

/-- Whether no other problem runs on a lane that a problem needs (R189). -/
def State.lanesIdle (s : State) (slot : Nat) : Bool :=
  s.slv.probs.all fun e => e.1 == slot || e.2.run.isNone || (lanesOf e.2.desc &&& lanesOf (s.prob slot).desc) == 0

/-- Whether the phase of a problem's domain lies in its compiled window (R203, R213). -/
def State.inLaneWin (s : State) (slot : Nat) : Bool :=
  let d := (s.prob slot).desc
  let p := ((s.dom d.domain).phase s.time.cnt - (s.dom d.domain).phiK).toNat
  decide (d.winStart ≤ p ∧ p < d.winEnd)

/-- SOLVE (R205, R272): a SOLVE entry fires and starts its class 1 problem, with the deadline DL_OFFSET after the phase of
its domain. -/
def execSolve (t d e : Nat) (s : State) : Out :=
  let s := s.advance t
  .next (s.fireStart d e 2 fun s en =>
    let x := s.prob en.target
    if !x.valid || x.desc.cls != 1 || x.run.isSome || !s.lanesIdle en.target then s.finishNow d e stBadParam
    else
      let now := s.stamp x.desc.domain
      let dl := BitVec.ofNat 64 (now.toNat / 2 ^ 32 * 2 ^ 32 + (stampPhase now + w32 x.desc.dlOffset).toNat)
      s.startRun en.target (some (d, (s.dom d).active.base + e)) none dl)

/-- SOLVER_RUN_START (R190, R213): a pending SLV_SOLVE starts in its problem's compiled window within an open class 2 and class 3 slice of its
partition, once its lane is idle. -/
def execSolverRunStart (t slot : Nat) (s : State) : Out :=
  let s := s.advance t
  let x := s.prob slot
  .next (match x.cmd with
    | none => s
    | some (r, _) =>
      if s.powered && x.run.isNone && s.lanesIdle slot && s.inLaneWin slot && s.sliceOpen x.desc.part
      then s.startRun slot none (some r) r.deadline else s)

/-- The vector program starts (R196): the measurement halves swap. -/
def State.startVector (s : State) (slot : Nat) (r : SlvRun) : State :=
  let x := s.prob slot
  let stop := cycStart s.time.cnt + 2 * asmCycles x.desc.vecProg
  (s.setProb slot { x with front := x.back, back := x.front, run := some { r with vecT := some s.time.cnt, waiting := false } }).runEngine slot stop

/-- Whether a problem's MEAS_SYNC allows its vector program now (R196, R315): its wait has been granted, nothing stands
before it on a counter that can pay, or its VID names no counter. -/
def State.measReady (s : State) (slot : Nat) : Bool :=
  let x := s.prob slot
  match s.imageVid x.desc.part x.desc.measSync with
  | none => true
  | some m => s.sync.granted.contains slot ||
      (decide ((s.counter m.counter).value ≥ 1) && !s.sync.waits.any fun w => w.counter == m.counter)

/-- The place of a run's wait among those of one cycle: that of the entry or of the command that started it (R315). -/
def SlvRun.waitRank (r : SlvRun) (slot : Nat) : Nat := match r.entry with
  | some (d, e) => entryRank d e slot
  | none => ctxRank ((r.cmd.map CmdRef.ctx).getD 0) slot

/-- VECTOR_PROGRAM_START (R196): once the matrix program has ended, the vector program takes its measurement signal and
starts; where the counter cannot pay, its wait takes its place in the counter's queue. -/
def execVectorProgramStart (t slot : Nat) (s : State) : Out :=
  let s := s.advance t
  let x := s.prob slot
  .next (match x.run with
    | none => s
    | some r =>
      if !s.powered || r.vecT.isSome || s.time.cnt < r.matEnd || (x.matBad r).isSome then s else
        match s.imageVid x.desc.part x.desc.measSync with
        | none => s.startVector slot r
        | some m =>
          if s.sync.granted.contains slot then
            State.startVector { s with sync := { s.sync with granted := s.sync.granted.erase slot } } slot r
          else if s.measReady slot then
            let k := s.counter m.counter
            (s.setCounter m.counter { k with value := k.value - 1 }).startVector slot r
          else if r.waiting then s
          else
            (s.register m.counter 1 (r.waitRank slot) (.solver slot)).setProb slot { x with run := some { r with waiting := true } })

/-! ## The end of a run -/

/-- The 16 bytes of an output record (R210). -/
def slvRecord (st : Status) (age reason reg steps : Nat) (runs : Word) (resid : Word) : List Byte :=
  leBytes st.toNat 2 ++ leBytes age 1 ++ leBytes reason 1 ++ leBytes (min reg 65535) 2 ++ leBytes steps 2 ++ leBytes runs.toNat 4 ++
    leBytes resid.toNat 4

/-- The MEAS_SYNC wait of a slot that is over is withdrawn. -/
def State.dropMeasWait (s : State) (slot : Nat) : State :=
  let mine := fun w : Wait => match w.who with
    | .solver i => i == slot
    | _ => false
  let ks := (s.sync.waits.filter mine).map Wait.counter
  let s := { s with sync := { s.sync with waits := s.sync.waits.filter (fun w => !mine w), granted := s.sync.granted.erase slot } }
  List.foldl State.grants s ks

/-- A run is over: its output record is on its way, complete T_OUT cycles later (R204, R210). -/
def State.putOut (s : State) (slot : Nat) (x : Prob) (r : SlvRun) (record : List Byte) (vals : List DWord) : State :=
  let o : SlvOut := { outT := cycStart s.time.cnt + 2 * tOut x.desc.n, entry := r.entry, cmd := (if r.cmd.isSome then x.cmd else none),
                      record := record, vals := vals.map f64ToF32 }
  ((s.stopEngine slot).setProb slot { x with run := none, outs := x.outs ++ [o] }).dropMeasWait slot

/-- The factorisation of a run that has come far enough counts its replaced pivots, and its factor is kept where it may be
(R198, R201); capped solves are counted (R199). The answer gives the run's REG_COUNT, on a kept factor the replaced pivots of that
factor (R212). -/
def State.takeFactor (s : State) (slot : Nat) (r : SlvRun) (plan : Option SlvPlan) (ecc : Bool) : State × Nat :=
  let x := s.prob slot
  match plan with
  | none => (s, 0)
  | some p =>
    let last := s.time.cnt / 2 * 2 + 1
    let caps := ((p.its.filter fun e => e.1 ≤ last).getLast?.map fun e => e.2.caps).getD 0
    let s := { s with slv := { s.slv with refcapCnt := satAdd s.slv.refcapCnt caps } }
    match p.made with
    | none => (s, if r.keep then (x.kept.map fun k => k.factor.reg).getD 0 else 0)
    | some k =>
      if p.facEnd > last then (s, 0) else
        let s := { s with slv := { s.slv with regCnt := satAdd s.slv.regCnt k.factor.reg } }
        (if x.desc.keepFactor && k.factor.finite && !ecc then s.setProb slot { x with kept := some k } else s, k.factor.reg)

/-- A fresh result (R204): the store takes it and AGE becomes 0. -/
def State.endFresh (s : State) (slot : Nat) (r : SlvRun) (i : Iterate) (reg : Nat) : State :=
  let x := s.prob slot
  let st := if reg > 0 then stRegularised else stOk
  let rec_ := slvRecord st 0 (if i.capped then 6 else 0) reg i.steps x.runs (f64ToF32 i.resid)
  s.putOut slot { x with store := i.x, age := 0 } r rec_ i.x

/-- A stale result with its reason (R207, R208): the store shifted, DEADLINE_MISS from STALE_LIMIT on, raised once. -/
def State.endStale (s : State) (slot : Nat) (r : SlvRun) (reason reg steps : Nat) : State :=
  let x := s.prob slot
  let v := shiftStore x.desc x.store
  let age := min (x.age + 1) 255
  let st := if age ≥ x.desc.staleLimit then stDeadline else stStaleShifted
  let rec_ := slvRecord st age reason reg steps x.runs 0x7F800000
  let s := { s with slv := { s.slv with
    staleCnt := satInc s.slv.staleCnt,
    nonfinite := (if reason = 2 then satInc s.slv.nonfinite else s.slv.nonfinite),
    measLate := (if reason = 4 then satInc s.slv.measLate else s.slv.measLate) } }
  let s := s.putOut slot { x with store := v, age := age } r rec_ v
  if x.age < x.desc.staleLimit ∧ x.desc.staleLimit ≤ age then
    let s := { s with slv := { s.slv with missCnt := satInc s.slv.missCnt } }
    s.raise 0x04 x.desc.part slot
  else s

/-- An uncorrectable solution store (R209): a record with ECC_UNCORRECTABLE and no solution; the store returns to X_INIT. -/
def State.endStoreLost (s : State) (slot : Nat) (r : SlvRun) (reg : Nat) : State :=
  let x := s.prob slot
  s.putOut slot { x with store := x.initStore } r (slvRecord stEcc x.age 5 reg 0 x.runs 0x7F800000) []

/-- The iterates of a plan that count as completed in the present cycle (R205, R211). -/
def SlvPlan.done (p : SlvPlan) (now : Nat) : List (Nat × Iterate) := p.its.filter fun e => e.1 ≤ now / 2 * 2 + 1

/-- ADMM iterations completed, for a result that uses no iterate (R210). -/
def staleSteps (d : ProbDesc) (its : List (Nat × Iterate)) : Nat := if d.op = 4 then (its.getLast?.map fun e => e.2.steps).getD 0 else 0

/-- A run that ends of itself (R204, R209): the last iterate where it is acceptable, else a stale result. -/
def State.completeRun (s : State) (slot : Nat) (r : SlvRun) (p : SlvPlan) : State :=
  let x := s.prob slot
  let (s, reg) := s.takeFactor slot r (some p) false
  match p.bad, p.its.getLast? with
  | none, some (_, i) => if i.ok then s.endFresh slot r i reg else s.endStale slot r 3 reg (staleSteps x.desc p.its)
  | _, _ => s.endStale slot r 2 reg (staleSteps x.desc p.its)

/-- A run that its deadline stops (R205): the latest completed iterate where it is acceptable, else a stale result. -/
def State.cutRun (s : State) (slot : Nat) (r : SlvRun) (p : Option SlvPlan) : State :=
  let x := s.prob slot
  let (s, reg) := s.takeFactor slot r p false
  let its := (p.map fun p => p.done s.time.cnt).getD []
  match its.getLast? with
  | some (_, i) => if i.ok then s.endFresh slot r i reg else s.endStale slot r 3 reg (staleSteps x.desc its)
  | none => s.endStale slot r 1 reg 0

/-- The kept factors that lie in the memory of lanes are discarded. -/
def State.dropKept (s : State) (lanes : Word) : State :=
  { s with slv := { s.slv with probs := tblMap {} (fun _ (x : Prob) =>
    if lanesOf x.desc &&& lanes = 0 then x else { x with kept := none }) s.slv.probs } }

/-- An uncorrectable lane-memory error of a problem's lane, or of the second lane of its pair (R209): the lane is recorded, every kept factor in
it is discarded, and the fault is reported against every partition with a problem on it (R371). -/
def State.laneError (s : State) (slot : Nat) (r : SlvRun) (p : Option SlvPlan) (second : Bool) : State :=
  let x := s.prob slot
  let lane := x.desc.lane + bitAt (second && x.desc.pair) 0
  let lanes := w32 (2 ^ lane)
  let (s, reg) := s.takeFactor slot r p true
  let s := s.dropKept lanes
  let s := { s with slv := { s.slv with laneFault := s.slv.laneFault ||| lanes } }
  let s := s.endStale slot r 5 reg (staleSteps x.desc ((p.map fun p => p.done s.time.cnt).getD []))
  let hit := (List.range 8).filter fun q => s.slv.probs.any fun e => e.2.desc.part == q && (lanesOf e.2.desc &&& lanes) != 0
  List.foldl (fun s q => s.raise 0x09 q lane) s hit

/-- SOLVER_RUN_COMPLETE (R204, R209): the run ends once its work is done, or at once on an uncorrectable error. -/
def execSolverRunComplete (t slot : Nat) (ecc : SlvEcc) (s : State) : Out :=
  let s := s.advance t
  let x := s.prob slot
  .next (match x.run with
    | none => s
    | some r =>
      if !s.powered then s else
        let p := r.vecT.map fun v => x.plan r v
        match ecc with
        | .laneUncorrectable second => s.laneError slot r p second
        | .storeUncorrectable =>
          let (s, reg) := s.takeFactor slot r p false
          s.endStoreLost slot r reg
        | e =>
          let s := match e with
            | .laneCorrected n => { s with slv := { s.slv with eccCe := satAdd s.slv.eccCe n } }
            | _ => s
          match p with
          | some p => if p.finish ≤ s.time.cnt / 2 * 2 + 1 then s.completeRun slot r p else s
          | none => if s.matLost x r then s.endStale slot r 2 0 0 else s)

/-- SOLVER_DEADLINE (R205, R211): the deadline is due and the lane stops; a run that completes in the same cycle wins. -/
def execSolverDeadline (t slot : Nat) (s : State) : Out :=
  let s := s.advance t
  let x := s.prob slot
  .next (match x.run with
    | none => s
    | some r =>
      if !s.powered || !s.deadlineDue r.dl then s else
        match r.vecT.map fun v => x.plan r v with
        | some p => if p.finish ≤ s.time.cnt / 2 * 2 + 1 then s.completeRun slot r p else s.cutRun slot r (some p)
        | none => if s.matLost x r then s.endStale slot r 2 0 0 else s.cutRun slot r none)

/-- MEAS_WAIT_EXPIRE (R196, R206): MEAS_WAIT cycles have passed without the signal, which wins in the same cycle (R211). A run that its matrix
program has ended does not wait (R209). -/
def execMeasWaitExpire (t slot : Nat) (s : State) : Out :=
  let s := s.advance t
  let x := s.prob slot
  .next (match x.run with
    | none => s
    | some r =>
      if s.powered && r.vecT.isNone && decide (r.matEnd + 2 * x.desc.measWait ≤ s.time.cnt) && !s.measReady slot
      then s.endStale slot r (if s.matLost x r then 2 else 4) 0 0 else s)

/-! ## Output -/

/-- The feed-forward buffer with the latest record. -/
def Group.ff (x : Group) : FfBuf := (x.ffs.head?.map Prod.snd).getD {}

/-- Solver values written to a group's feed-forward buffer (R228): they become visible together in the next cycle; a record
with DEADLINE_MISS marks its elements, one without solution leaves them. -/
def State.ffWrite (s : State) (g first : Nat) (vals : List Word) (st : Status) : State :=
  if vals = [] then s else
    let x := s.group g
    let now := s.time.cnt / 2
    let ff := x.ff
    let elems := (List.range vals.length).map (first + ·)
    let put := fun t : Tbl Word => List.foldl (fun t i => tblSet 0 t (first + i) (vals.getD i 0)) t (List.range vals.length)
    let missed := st == stDeadline
    let b : FfBuf := { vals := put ff.vals, good := (if missed then ff.good else put ff.good),
                       miss := (ff.miss.filter fun i => !elems.contains i) ++ (if missed then elems else []) }
    let seen := x.ffs.dropWhile fun e => e.1 ≥ now
    s.setGroup g { x with ffs := (now + 1, b) :: (x.ffs.takeWhile fun e => e.1 ≥ now) ++ seen.take 1 }

/-- SOLVER_OUTPUT_WRITTEN (R210, R213): the oldest record on its way is complete at OUT_DEST and at the OUT_ADDR of a SLV_SOLVE, OUT_SYNC is signalled, and the entry
or the SLV_SOLVE that asked for the run completes. -/
def execSolverOutputWritten (t slot : Nat) (s : State) : Out :=
  let s := s.advance t
  let x := s.prob slot
  .next (match x.outs with
    | [] => s
    | o :: rest =>
      if !s.powered || s.time.cnt < o.outT then s else
        let d := x.desc
        let st : Status := BitVec.ofNat 16 (leField o.record 0 2)
        let bytes := o.record ++ wordBytes o.vals
        let s := s.setProb slot { x with outs := rest, record := o.record, cmd := (if o.cmd.isSome then none else x.cmd) }
        let s := match d.outKind with
          | 0 => s.ffWrite (d.outAddr / 256 % 16) (d.outAddr % 256) o.vals st
          | 1 => s.spWrite d.outAddr bytes
          | _ => s
        let s := match o.cmd with
          | some (r, a) => s.writeFunc (s.ctx r.ctx).func a bytes
          | none => s
        let (s, sig) := if d.outSignal then s.signalVid d.part d.outSync d.cls else (s, stOk)
        let fin := if sig.usable then st else sig
        let s := match o.cmd with
          | some (r, _) => s.complete r (if s.ctxDead r.ctx then stEcc else fin) (leWords o.record 2)
          | none => s
        match o.entry with
        | none => s
        | some (dm, pool) =>
          match s.sched.started.find? fun w => w.d == dm && w.pool == pool with
          | some w => s.completeEntry w fin
          | none => s)

/-! ## Commands -/

/-- The checks that every solver command makes first (R213). -/
def chkProb (s : State) (c : Nat) (p : Packet) : Option Status :=
  let x := s.prob (u8 p 16)
  if !x.valid then some stBadParam
  else if x.desc.part ≠ (s.ctx c).part then some stNotAuth
  else none

/-- The checks of SLV_SOLVE (R213, R437, R453). -/
def chkSlvSolve (s : State) (c : Nat) (p : Packet) (h : HostRead) : Option Status :=
  let x := s.prob (u8 p 16)
  (chkProb s c p).orElse fun _ =>
    if x.desc.cls = 1 ∨ !stampValid p.deadline then some stBadParam
    else if x.cmd.isSome ∨ s.noWork x.desc.part then some stBusy
    else if x.desc.measLen ≠ 0 ∧ (h = .failed ∨ s.ctxDead c) then some stEcc
    else none

/-- Whether the measurement halves of a problem swapped in the present cycle. -/
def State.swapNow (s : State) (x : Prob) : Bool := match x.run.bind SlvRun.vecT with
  | some v => v / 2 == s.time.cnt / 2
  | none => false

/-- Values written to the back half of a measurement buffer, or to the half that a swap in the same cycle has brought to the front, and
MEAS_SYNC signalled (R196, R213). -/
def State.writeMeas (s : State) (slot : Nat) (vals : List Word) : State :=
  let x := s.prob slot
  let put := fun (old : List Word) => (List.range x.desc.measLen).map fun i => vals.getD i (old.getD i 0)
  let x' := if s.swapNow x then { x with front := put x.front } else { x with back := put x.back }
  ((s.setProb slot x').signalVid x.desc.part x.desc.measSync x.desc.cls).1

/-- SLV_SOLVE, 0x0801 (R213). -/
def execSlvSolve (c : Nat) (p : Packet) (h : HostRead) (s : State) : Out :=
  .next (s.command c p 0x0801 (s.ctx c).cls (chkSlvSolve s c p h) fun s r =>
    let slot := u8 p 16
    let s := s.setProb slot { s.prob slot with cmd := some (r, u64 p 32) }
    match h with
    | .data b => s.writeMeas slot (leWords b (b.length / 4))
    | .failed => s.writeMeas slot [])

/-- FP64 values of a host buffer. -/
def hostF64 (b : List Byte) (n : Nat) : List DWord := (List.range n).map fun i => BitVec.ofNat 64 (leField b (8 * i) 8)

/-- The checks of SLV_PARAM (R213, R214). -/
def chkSlvParam (s : State) (c : Nat) (p : Packet) (h : HostRead) : Option Status :=
  let x := s.prob (u8 p 16)
  (chkProb s c p).orElse fun _ =>
    if u32 p 24 = 0 ∨ u32 p 24 > 16384 ∨ u32 p 20 + u32 p 24 > x.desc.paramLen then some stBadParam
    else match h with
      | .failed => some stEcc
      | .data b => if allFin (hostF64 b (u32 p 24)) then none else some stDataError

/-- SLV_PARAM, 0x0802 (R214). -/
def execSlvParam (c : Nat) (p : Packet) (h : HostRead) (s : State) : Out :=
  .next (s.command c p 0x0802 (s.ctx c).cls (chkSlvParam s c p h) fun s r =>
    let x := s.prob (u8 p 16)
    let vals := match h with
      | .data b => hostF64 b (u32 p 24)
      | .failed => []
    let bank := List.foldl (fun b i => b.set (u32 p 20 + i) (vget vals i)) (x.next.getD x.active) (List.range (u32 p 24))
    let touched := x.touched ++ ((List.range (u32 p 24)).map (u32 p 20 + ·)).filter fun i => !x.touched.contains i
    ((s.setProb (u8 p 16) { x with next := some bank, touched := touched }).sameStart (u8 p 16)).replyNow r)

/-- SLV_QUERY, 0x0803. -/
def execSlvQuery (c : Nat) (p : Packet) (s : State) : Out :=
  .next (s.command c p 0x0803 (s.ctx c).cls (chkProb s c p) fun s r =>
    let x := s.prob (u8 p 16)
    s.replyNow r (leWords x.record 2 ++ [x.runs]))

/-- SLV_RESET, 0x0804 (R214): it takes effect at the next start, or at one in this cycle (R211). -/
def execSlvReset (c : Nat) (p : Packet) (s : State) : Out :=
  .next (s.command c p 0x0804 (s.ctx c).cls (chkProb s c p) fun s r =>
    ((s.setProb (u8 p 16) { s.prob (u8 p 16) with resetDue := true }).sameStart (u8 p 16)).replyNow r)

/-! ## Registers -/

/-- SLV_CLEAR_ECC. -/
def execSlvClearEcc (s : State) : Out :=
  .next (s.hostWrite fun w x => { x with slv := { x.slv with eccCe := sinceMark w.slv.eccCe x.slv.eccCe } })
/-- SLV_CLEAR_MEAS_LATE. -/
def execSlvClearMeasLate (s : State) : Out :=
  .next (s.hostWrite fun w x => { x with slv := { x.slv with measLate := sinceMark w.slv.measLate x.slv.measLate } })
/-- SLV_CLEAR_REFCAP. -/
def execSlvClearRefcap (s : State) : Out :=
  .next (s.hostWrite fun w x => { x with slv := { x.slv with refcapCnt := sinceMark w.slv.refcapCnt x.slv.refcapCnt } })
/-- SLV_CLEAR_NONFINITE. -/
def execSlvClearNonfinite (s : State) : Out :=
  .next (s.hostWrite fun w x => { x with slv := { x.slv with nonfinite := sinceMark w.slv.nonfinite x.slv.nonfinite } })
/-- SLV_CLEAR_MISS. -/
def execSlvClearMiss (s : State) : Out :=
  .next (s.hostWrite fun w x => { x with slv := { x.slv with missCnt := sinceMark w.slv.missCnt x.slv.missCnt } })
/-- SLV_CLEAR_STALE. -/
def execSlvClearStale (s : State) : Out :=
  .next (s.hostWrite fun w x => { x with slv := { x.slv with staleCnt := sinceMark w.slv.staleCnt x.slv.staleCnt } })
/-- SLV_CLEAR_REG. -/
def execSlvClearReg (s : State) : Out :=
  .next (s.hostWrite fun w x => { x with slv := { x.slv with regCnt := sinceMark w.slv.regCnt x.slv.regCnt } })

/-- SLV_LANE_RUN (R216). -/
def State.slvLaneRun (s : State) : Word := s.slv.probs.foldl (fun w e => if e.2.run.isSome then w ||| lanesOf e.2.desc else w) 0

/-- SLV_ASM_STATUS (R216). -/
def State.slvAsmStatus (s : State) : Word :=
  w32 (s.slv.asmProb1 % 256 * 65536 + s.slv.asmProb0 % 256 * 256 + bitAt (decide (s.time.cnt < s.slv.asmEnd1)) 1 +
    bitAt (decide (s.time.cnt < s.slv.asmEnd0)) 0)

/-- SLV_PROB_STATE of the selected problem (R216). -/
def State.slvProbState (s : State) : Word :=
  let x := s.prob s.slv.probSel.toNat
  w32 (leField x.record 0 2 * 2 ^ 16 + x.age % 256 * 2 ^ 8 + leField x.record 3 1 % 8 * 2 ^ 4 + bitAt x.kept.isSome 3 + bitAt x.next.isSome 2 +
    bitAt x.run.isSome 1 + bitAt x.valid 0)

end Sys2Proof.Machine
end

