-- ==== Sys2Proof/Machine/Stream.lean ====
section
/-! DEFINITION. State-carrying streams (R165 to R188): their state in pool slots and home copies, the arithmetic of a sample, the
stream commands, and the rows of a stream-step boundary. -/
namespace Sys2Proof.Machine

/-- An entry of the stream table. -/
def State.stream (s : State) (i : Nat) : Strm := tblGet {} s.strm.ents i
/-- Changing an entry. -/
def State.setStream (s : State) (i : Nat) (x : Strm) : State := { s with strm := { s.strm with ents := tblSet {} s.strm.ents i x } }
/-- A stream model of the image. -/
def State.strmModel (s : State) (m : Nat) : Option StrmModel := s.image.bind fun i => i.strmModels.find? fun x => x.index == m

/-! ## Where the state lies (R167, R172) -/

/-- The SPA of element `i` of a slot's s values: the 256 values of an element lie in one run of 1 KB. -/
def slotS (m : StrmModel) (slot i : Nat) : Nat := m.poolBase + slot / 256 * (m.len * 1536) + i * 1024 + slot % 256 * 4
/-- The SPA of element `i` of a slot's compensation words, whose runs of 512 bytes follow. -/
def slotC (m : StrmModel) (slot i : Nat) : Nat := m.poolBase + slot / 256 * (m.len * 1536) + m.len * 1024 + i * 512 + slot % 256 * 2

/-- A stream's state: FP32 values with their compensation words. -/
abbrev StrmState := List (Word × BitVec 16)

/-- INIT with c = 0 (R175). -/
def initState (m : StrmModel) : StrmState := (List.range m.len).map fun i => (m.init.getD i 0, 0)

/-- The 6L bytes of a state (R167). -/
def stateBytes (st : StrmState) : List Byte := (st.flatMap fun e => leBytes e.1.toNat 4) ++ st.flatMap fun e => leBytes e.2.toNat 2

/-- A state read from its 6L bytes. -/
def stateOf (m : StrmModel) (b : List Byte) : StrmState :=
  (List.range m.len).map fun i => (w32 (leField b (4 * i) 4), BitVec.ofNat 16 (leField b (4 * m.len + 2 * i) 2))

/-- The home copy's size: 6L bytes rounded up to a multiple of 64 (R167). -/
def homeSize (m : StrmModel) : Nat := (6 * m.len + 63) / 64 * 64

/-- A stream's home copy. -/
def State.homeState (s : State) (x : Strm) (m : StrmModel) : StrmState := stateOf m (s.lpRead ((s.partCfg x.part).lpBase + x.home) (6 * m.len))

/-- A state written to the home copy. -/
def State.writeHome (s : State) (x : Strm) (m : StrmModel) (st : StrmState) : State :=
  let b := stateBytes st
  s.lpWrite ((s.partCfg x.part).lpBase + x.home) (b ++ List.replicate (homeSize m - b.length) 0)

/-- The state in a pool slot. -/
def State.slotState (s : State) (m : StrmModel) (slot : Nat) : StrmState :=
  (List.range m.len).map fun i => (w32 (leNat (s.spRead (slotS m slot i) 4)), BitVec.ofNat 16 (leNat (s.spRead (slotC m slot i) 2)))

/-- A state written to a pool slot. -/
def State.writeSlot (s : State) (m : StrmModel) (slot : Nat) (st : StrmState) : State :=
  List.foldl (fun s i =>
    let e := st.getD i (0, 0)
    (s.spWrite (slotS m slot i) (leBytes e.1.toNat 4)).spWrite (slotC m slot i) (leBytes e.2.toNat 2)) s (List.range m.len)

/-- Whether a pool slot holds poisoned data (R122). -/
def State.slotPoisoned (s : State) (m : StrmModel) (slot : Nat) : Bool :=
  (List.range m.len).any fun i => s.spPoisoned (slotS m slot i) 4 || s.spPoisoned (slotC m slot i) 2

/-- The bytes of a model's weights. -/
def weightBytes (m : StrmModel) : Nat :=
  4 * (if m.expavg then m.len else m.ny * (m.len + m.nu) + m.len * (m.len + m.nu))

/-- Whether the home copy holds poisoned data (R457). -/
def State.homePoisoned (s : State) (x : Strm) (m : StrmModel) : Bool := s.lpPoisoned ((s.partCfg x.part).lpBase + x.home) (6 * m.len)

/-- Whether the state of a stream or the weights of its model are poisoned (R170). -/
def State.strmPoisoned (s : State) (x : Strm) (m : StrmModel) : Bool :=
  s.spPoisoned m.wBase (weightBytes m) || (if x.resident then s.slotPoisoned m x.slot else s.homePoisoned x m)

/-- A stream's state where it lies. -/
def State.strmState (s : State) (x : Strm) (m : StrmModel) : StrmState := if x.resident then s.slotState m x.slot else s.homeState x m
/-- A stream's state written where it lies. -/
def State.putState (s : State) (x : Strm) (m : StrmModel) (st : StrmState) : State :=
  if x.resident then s.writeSlot m x.slot st else s.writeHome x m st

/-! ## One sample (R168, R169) -/

/-- The biased exponent of s, 1 for a zero or a subnormal. -/
def biased (s : Word) : Nat := max 1 (s.toNat / 2 ^ 23 % 256)

/-- c × 2^(b - 165) as an exact value. -/
def compVal (s : Word) (c : BitVec 16) : FVal := .fin (decide (c.toInt < 0)) c.toInt.natAbs ((biased s : Int) - 165)

/-- One element updated by an increment (R169). -/
def updateElem (e : Word × BitVec 16) (d : Word) : Word × BitVec 16 :=
  let t := w32 (fp32.encode ((f32Val d).add (compVal e.1 e.2)))
  let s1 := f32Add e.1 t
  let z := f32Sub s1 e.1
  let r := f32Add (f32Sub e.1 (f32Sub s1 z)) (f32Sub t z)
  let c : Int := if biased s1 < 16 then 0 else ((f32Val r).toInt (165 - (biased s1 : Int))).getD 0
  (s1, BitVec.ofInt 16 c)

/-- An FMA chain from an accumulator, in ascending order (R168). -/
def fmaChain (acc : Word) : List Word → List Word → Word
  | a :: as, b :: bs => fmaChain (f32Fma a b acc) as bs
  | _, _ => acc

/-- One sample: the new state and the outputs, with how many values of stage 1 and stage 3 are not finite (R168, R170). -/
def sample (m : StrmModel) (st : StrmState) (u : List Word) : StrmState × List Word × Nat :=
  let s := st.map Prod.fst
  let row := fun (l : List (List Word)) i => l.getD i []
  let y1 := if m.expavg then [] else (List.range m.ny).map fun i => fmaChain (fmaChain 0 (row m.cMat i) s) (row m.dMat i) u
  let d := if m.expavg then (List.range m.len).map fun i => f32Mul (m.alpha.getD i 0) (f32Sub (u.getD i 0) (s.getD i 0))
    else (List.range m.len).map fun i => fmaChain (fmaChain 0 (row m.aMat i) s) (row m.bMat i) u
  let st' := (List.range m.len).map fun i => updateElem (st.getD i (0, 0)) (d.getD i 0)
  let y := if m.expavg then st'.map fun e => w32 (fp32.encode ((f32Val e.1).add (compVal e.1 e.2))) else y1
  (st', y, countIf (fun v => !f32Fin v) y1 + countIf (fun e : Word × BitVec 16 => !f32Fin e.1) st' + (if m.expavg then countIf (fun v => !f32Fin v) y else 0))

/-! ## Chunks -/

/-- A stream's first chunk completes with a status (R170, R177); its result words give the samples done and STEP. -/
def State.finishChunk (s : State) (i : Nat) (st : Status) : State :=
  let x := s.stream i
  match x.chunks with
  | [] => s
  | c :: rest =>
    let s := s.setStream i { x with chunks := rest, done := 0, resetDone := false, status := st }
    s.complete c.cmd st [w32 x.done, w32 x.step.toNat]

/-- Every chunk of a stream from the `n`-th on completes with a status; `fuel` bounds their number (R170, R178, R181). -/
def State.finishFrom (s : State) (i n : Nat) (st : Status) : Nat → State
  | 0 => s
  | fuel + 1 =>
    let x := s.stream i
    if n = 0 then (s.finishChunk i st).finishFrom i 0 st fuel
    else match x.chunks[n]? with
      | none => s
      | some c =>
        let s := s.setStream i { x with chunks := x.chunks.eraseIdx n, status := st }
        (s.complete c.cmd st [0, w32 x.step.toNat]).finishFrom i n st fuel

/-- A faulted stream (R170): FAULTED and STATUS are set, its chunks complete with the status, and an IMAGE stream is reported. -/
def State.faultStream (s : State) (i : Nat) (st : Status) : State :=
  let x := s.stream i
  let s := s.setStream i { x with faulted := true, status := st, left := 0, resync := false }
  let s := s.finishFrom i 0 st x.chunks.length
  if x.image then s.raise 0x08 x.part ((s.strmModel x.model).elim 0 StrmModel.lreg) else s

/-- One sample of a stream applied to its state (R168, R170): none where it faults; RGN_NONFINITE_CNT counts (R44). -/
def State.applySample (s : State) (i : Nat) (m : StrmModel) (u : List Word) : State × Option (List Word) :=
  let x := s.stream i
  let r := sample m (s.strmState x m) u
  if r.2.2 > 0 then
    let s := match s.physOf m.lreg with
      | some k => s.addNonfinite k r.2.2
      | none => s
    (s, none)
  else ((s.putState x m r.1).setStream i { x with step := x.step + 1 }, some r.2.1)

/-- The samples left of a stream step (R173, R185): each in order, up to a resynchronisation point or the end; a chunk whose
samples are done completes with OK, and one whose results cannot be written with ECC_UNCORRECTABLE (R453). -/
def State.runSamples (s : State) (i : Nat) (m : StrmModel) (bad : Bool) : Nat → State
  | 0 => s
  | fuel + 1 =>
    let x := s.stream i
    match x.chunks with
    | [] => s
    | c :: _ =>
      if x.resync then s
      else if x.left = 0 then (if x.done ≥ c.samples then s.finishChunk i stOk else s)
      else if bad || s.strmPoisoned x m then s.faultStream i stEcc
      else
        let u := (List.range m.nu).map fun k => w32 (leField c.data (4 * (x.done * m.nu + k)) 4)
        match s.applySample i m u with
        | (s, none) => s.faultStream i stDataError
        | (s, some y) =>
          let s := s.writeFunc (s.ctx x.ctx).func (c.outAddr + 4 * m.ny * x.done) (wordBytes y)
          let z := s.stream i
          let due := decide (z.resyncN > 0 ∧ z.refAddr ≠ 0 ∧ z.step.toNat % z.resyncN = 0)
          if s.ctxDead x.ctx then (s.setStream i { z with left := 0, resync := due }).finishChunk i stEcc else
          (s.setStream i { z with done := x.done + 1, left := x.left - 1, resync := due }).runSamples i m false fuel

/-- Whether a deadline has passed: its phase lies before the present one, so that an arrival at it still wins (R178). -/
def State.deadlinePassed (s : State) (w : DWord) : Bool :=
  let x := s.dom (stampDom w)
  stampValid w && decide (x.state = .run ∨ x.state = .holdover) && dueAt (x.phase s.time.cnt) (stampPhase w + 1)

/-! ## The boundary (R179 to R183) -/

/-- A stream closed at the boundary (R181): its chunks end with OWNER_LOST (those that a detach or a reset of the owner has dropped are
gone already); the commands that waited for it are answered, and the entry and its slot are free. -/
def State.closeStream (s : State) (i : Nat) : State :=
  let x := s.stream i
  let s := s.finishFrom i 0 stOwnerLost x.chunks.length
  let s := List.foldl (fun s r => s.complete r stOk) s (x.outCmds ++ x.closeCmd)
  let s := List.foldl (fun s r => s.complete r stBadParam) s x.inCmds
  { s with strm := { s.strm with ents := tblErase s.strm.ents i } }

/-- Step 1 for one stream: a close, or the start of its swap-out (R179, R180, R181, R183). -/
def State.outAtBoundary (s : State) (i : Nat) : State :=
  let x := s.stream i
  if x.closing || x.dropped then s.closeStream i
  else if s.noWork x.part && x.resident && x.move = .none then s.setStream i { x with outDue := true, back := true, move := .out }
  else if !x.outDue || x.move ≠ .none then s
  else if x.resident then s.setStream i { x with move := .out }
  else List.foldl (fun s r => s.complete r stOk) (s.setStream i { x with outDue := false, outCmds := [] }) x.outCmds

/-- The slots of a pool that are held or that opens wait to take, those of streams on their way out being free (R175, R179, R183). -/
def State.heldSlots (s : State) (model : Nat) : List Nat :=
  s.strm.ents.filterMap fun e =>
    if e.2.model ≠ model then none else match e.2.move with
      | .into k => some k
      | .out => none
      | .none => if e.2.resident then some e.2.slot else e.2.reserved

/-- The lowest free slot of a pool (log entry 18). -/
def State.freeSlot (s : State) (m : StrmModel) : Option Nat :=
  (List.range m.poolSlots).find? fun k => !(s.heldSlots m.index).contains k

/-- Step 2 for one stream: the start of its swap-in; a pool without a free slot answers BUSY (R179). -/
def State.inAtBoundary (s : State) (m : StrmModel) (i : Nat) : State :=
  let x := s.stream i
  if !x.valid || !x.inDue || x.move ≠ .none || s.noWork x.part then s
  else if x.resident then List.foldl (fun s r => s.complete r stOk) (s.setStream i { x with inDue := false, inCmds := [] }) x.inCmds
  else match x.reserved.orElse fun _ => s.freeSlot m with
    | none => List.foldl (fun s r => s.complete r stBusy) (s.setStream i { x with inDue := false, inCmds := [] }) x.inCmds
    | some k => s.setStream i { x with move := .into k, reserved := none }

/-- The state and the entry that a reset leaves (R177). -/
def State.resetStream (s : State) (m : StrmModel) (i : Nat) : State :=
  let x := s.stream i
  (s.putState x m (initState m)).setStream i { x with step := 0, faulted := false, status := stOk, resetDone := true }

/-- Whether the chunk at the head asks for a reset that has not been made. -/
def Strm.resetDue (x : Strm) : Bool := match x.chunks with
  | c :: _ => c.reset && !x.resetDone
  | [] => false

/-- Step 3 for one stream: chunks without samples, which complete at the boundary with their reset (R177); a chunk whose deadline has
passed takes the later ones with it (R178). The reset of a chunk with samples comes with its first sample. -/
def State.resetAtBoundary (s : State) (m : StrmModel) (i : Nat) : Nat → State
  | 0 => s
  | fuel + 1 =>
    let x := s.stream i
    match x.chunks with
    | [] => s
    | c :: _ =>
      if !x.resident || x.move ≠ .none || c.samples ≠ 0 then s
      else if s.deadlinePassed c.cmd.deadline then s.finishFrom i 0 stTimeout x.chunks.length
      else (((if x.resetDue then s.resetStream m i else s)).finishChunk i stOk).resetAtBoundary m i fuel

/-- Whether class 3 pools yield: the partition's credit is used up and a class 2 entry that holds a slot has work (R134, R173). -/
def State.yields (s : State) (part cls : Nat) : Bool :=
  cls == 3 && decide ((s.builder part).credit3 ≤ 0) &&
    ((s.seqsOf part).any fun i => (s.seq i).cls == 2 && ((s.seq i).state == .prompt || (s.seq i).state == .decode) && s.seqRuns i)

/-- Step 4 for one stream: the samples of its head chunk, as many as the template takes (R173, R178). -/
def State.samplesAtBoundary (s : State) (m : StrmModel) (poison : List Nat) (i : Nat) : State :=
  let x := s.stream i
  match x.chunks with
  | [] => s
  | c :: _ =>
    if !x.resident || (x.faulted && !x.resetDue) || x.move ≠ .none || x.left ≠ 0 || x.resync || (s.ctx x.ctx).state ≠ .attached ||
       s.noWork x.part || s.yields x.part x.cls || x.done ≥ c.samples then s
    else if x.done = 0 && s.deadlinePassed c.cmd.deadline then s.finishFrom i 0 stTimeout x.chunks.length
    else
      let n := min m.samplesMax (c.samples - x.done)
      let s := if x.resetDue then s.resetStream m i else s
      (s.setStream i { s.stream i with left := n }).runSamples i m (poison.contains i) (n + 1)

/-- The entries of a pool in ascending index. -/
def State.poolStreams (s : State) (model : Nat) : List Nat := (s.strm.ents.filter fun e => e.2.valid && e.2.model == model).map Prod.fst

/-- An entry shown as it now stands, with its state (R166, R176). -/
def State.showStream (s : State) (i : Nat) : State :=
  let x := s.stream i
  let st := ((s.strmModel x.model).map (s.strmState x)).getD []
  { s with strm := { s.strm with shown := tblSet {} s.strm.shown i x, states := tblSet [] s.strm.states i st } }

/-- The entries of a pool shown as they now stand; those that have left it are no longer shown. -/
def State.showStreams (s : State) (model : Nat) : State :=
  let gone := ((s.strm.shown.filter fun e => e.2.model == model).map Prod.fst) ++ s.poolStreams model
  List.foldl State.showStream s gone

/-- Steps 1 to 3 of a boundary (R183). -/
def State.strmEvents (s : State) (m : StrmModel) : State :=
  let s := List.foldl State.outAtBoundary s (s.poolStreams m.index)
  let s := List.foldl (fun s i => s.inAtBoundary m i) s (s.poolStreams m.index)
  List.foldl (fun s i => s.resetAtBoundary m i ((s.stream i).chunks.length + 1)) s (s.poolStreams m.index)

/-- STREAM_STEP_BOUNDARY (R173, R183): swaps-out and closes, swaps-in, resets, then the samples of the step. A class 1 pool is
stepped by its cycle-table entry, so its samples do not run here. The IMAGE streams of an image that has been unloaded are freed (R181). -/
def execStreamStepBoundary (t lreg model : Nat) (poison : List Nat) (s : State) : Out :=
  let s := s.advance t
  .next (match s.strmModel model with
    | none =>
      if !s.powered then s else
        ((s.poolStreams model).filter fun i => (s.stream i).dropped).foldl State.closeStream s |>.showStreams model
    | some m =>
      if !s.powered || m.lreg ≠ lreg then s else
        let s := s.strmEvents m
        let s := if m.cls = 1 then s else List.foldl (fun s i => s.samplesAtBoundary m poison i) s (s.poolStreams model)
        s.showStreams model)

/-- The reference record of a stream (R185): SEQ and its L values. -/
def State.refRecord (s : State) (x : Strm) (m : StrmModel) : Word × List Word :=
  let a := (s.partCfg x.part).lpBase + x.refAddr
  (w32 (leNat (s.lpRead a 4)), (List.range m.len).map fun i => w32 (leNat (s.lpRead (a + 8 + 4 * i) 4)))

/-- Whether the reference record of a stream is poisoned, so that its transfer fails (R115, R457). -/
def State.refPoisoned (s : State) (x : Strm) (m : StrmModel) : Bool := s.lpPoisoned ((s.partCfg x.part).lpBase + x.refAddr) (8 + 4 * m.len)

/-- STREAM_RESYNC (R185): the reference is applied where its transfer succeeds, both reads of SEQ agree, it is new and its values are
finite; then the samples that are left of the stream step run on. -/
def execStreamResync (t handle : Nat) (torn : Bool) (s : State) : Out :=
  let s := s.advance t
  let x := s.stream handle
  .next (match s.strmModel x.model with
    | none => s
    | some m =>
      if !s.powered || !x.valid || !x.resync then s else
        let r := s.refRecord x m
        let s := if !torn && !s.refPoisoned x m && r.1 != x.refSeq && r.2.all f32Fin then
            let s := s.putState x m (r.2.map fun v => (v, 0))
            let s := s.setStream handle { x with refSeq := r.1, resync := false }
            { s with strm := { s.strm with resyncCnt := satInc s.strm.resyncCnt } }
          else
            let s := s.setStream handle { x with resync := false }
            { s with strm := { s.strm with resyncMiss := satInc s.strm.resyncMiss } }
        s.runSamples handle m false (x.left + 1))

/-- A swap that has moved a stream is counted. -/
def State.countSwap (s : State) : State := { s with strm := { s.strm with swapCnt := satInc s.strm.swapCnt } }

/-- A stream that a drain has swapped out comes back into its pool, before the first stream step of its region (R182, R440). -/
def State.swapBack (s : State) (i : Nat) : State :=
  let x := s.stream i
  match s.strmModel x.model with
  | none => s
  | some m =>
    if !x.back || x.resident then s else
      let x := { x with back := false }
      if s.homePoisoned x m then ((s.setStream i x).faultStream i stEcc) else match s.freeSlot m with
        | none => s.setStream i x
        | some k => ((s.writeSlot m k (s.homeState x m)).setStream i { x with resident := true, slot := k }).countSwap

/-- STREAM_SWAP_COMPLETE (R179): the transfer of a swap ends: the stream changes its residence, or stays where it was with the
failure's status; a swap-in that meets poisoned data sets FAULTED. -/
def execStreamSwapComplete (t handle : Nat) (failed : Bool) (s : State) : Out :=
  let s := s.advance t
  let x := s.stream handle
  .next (match s.strmModel x.model with
    | none => s
    | some m =>
      if !s.powered || !x.valid then s else match x.move with
        | .none => s
        | .out =>
          let done := { x with move := .none, outDue := false, outCmds := [] }
          if failed || s.slotPoisoned m x.slot then
            List.foldl (fun s r => s.complete r stEcc) (s.setStream handle { done with back := false, status := stEcc }) x.outCmds
          else
            let s := (s.writeHome x m (s.slotState m x.slot)).setStream handle { done with resident := false, slot := 0 }
            List.foldl (fun s r => s.complete r stOk) s.countSwap x.outCmds
        | .into k =>
          let done := { x with move := .none, inDue := false, inCmds := [] }
          let bad := s.homePoisoned x m
          let taken := s.strm.ents.any fun e => e.1 != handle && e.2.resident && e.2.model == x.model && e.2.slot == k
          if failed || bad then
            let s := s.setStream handle { done with status := stEcc }
            let s := if bad then s.faultStream handle stEcc else s
            List.foldl (fun s r => s.complete r stEcc) s x.inCmds
          else if taken then List.foldl (fun s r => s.complete r stBusy) (s.setStream handle done) x.inCmds
          else
            let s := (s.writeSlot m k (s.homeState x m)).setStream handle { done with resident := true, slot := k, back := false }
            List.foldl (fun s r => s.complete r stOk) s.countSwap x.inCmds)

/-- STREAM_CHUNK_DEADLINE (R178): the first chunk whose deadline has passed before its first sample ends with TIMEOUT, and so
does every later one. -/
def execStreamChunkDeadline (t handle : Nat) (s : State) : Out :=
  let s := s.advance t
  let x := s.stream handle
  .next (if !s.powered || !x.valid then s else
    match x.chunks.findIdx? fun c => s.deadlinePassed c.cmd.deadline with
    | none => s
    | some n => if n = 0 ∧ x.done > 0 then
        (match (x.chunks.drop 1).findIdx? fun c => s.deadlinePassed c.cmd.deadline with
        | none => s
        | some k => s.finishFrom handle (k + 1) stTimeout x.chunks.length)
      else s.finishFrom handle n stTimeout x.chunks.length)

/-! ## IMAGE pools (R168, R173) -/

/-- One sample of an IMAGE stream: its inputs from the pool's input buffer, its outputs to the output buffer. -/
def State.imageSample (s : State) (m : StrmModel) (acc : Status) (i : Nat) : State × Status :=
  let x := s.stream i
  if !x.resident || x.faulted || x.move ≠ .none then (s, acc) else
    let inA := m.inBase + 4 * m.nu * x.slot
    if s.spPoisoned inA (4 * m.nu) || s.strmPoisoned x m then (s.faultStream i stEcc, mergeStatus acc stEcc)
    else match s.applySample i m (leWords (s.spRead inA (4 * m.nu)) m.nu) with
      | (s, none) => (s.faultStream i stDataError, mergeStatus acc stDataError)
      | (s, some y) => (s.spWrite (m.outBase + 4 * m.ny * x.slot) (wordBytes y), acc)

/-- A firing of the cycle-table entry of an IMAGE pool: its boundary, then one sample of every stream (R173, R183). -/
def State.stepImagePool (s : State) (model : Nat) : State × Status :=
  match s.strmModel model with
  | none => (s, stOk)
  | some m =>
    let s := s.strmEvents m
    let r := (s.poolStreams model).foldl (fun a i => a.1.imageSample m a.2 i) (s, stOk)
    (r.1.showStreams model, r.2)

/-! ## Commands (R174 to R181) -/

/-- The entry a stream command names. -/
def strmArg (p : Packet) : Nat := u16 p 16
/-- Bit 0 of byte 18: RESIDENT, RESET, FORCE or WRITE. -/
def strmFlag (p : Packet) : Bool := bitOf (u8 p 18) 0

/-- The checks of R174 on the entry a command names. An IMAGE stream belongs to its partition (R165). -/
def chkStrmNamed (s : State) (c : Nat) (p : Packet) : Option Status :=
  let x := s.stream (strmArg p)
  if !x.valid then some stBadParam
  else if (if x.image then x.part ≠ (s.ctx c).part else x.ctx ≠ c) then some stNotAuth else none

/-- The class of a stream command: the stream's, or the context's for an IMAGE stream and where none is found (R304). -/
def strmClass (s : State) (c : Nat) (p : Packet) : Nat :=
  let x := s.stream (strmArg p)
  if (chkStrmNamed s c p).isNone ∧ !x.image then x.cls else (s.ctx c).cls

/-- The checks of STRM_OPEN, in the order of R175. -/
def chkStrmOpen (s : State) (c : Nat) (p : Packet) : Option Status :=
  let part := (s.ctx c).part
  match s.strmModel (u8 p 17) with
  | none => some stBadParam
  | some m =>
    let lp := (s.partCfg part).lpLen
    if (u8 p 16 ≠ 2 ∧ u8 p 16 ≠ 3) ∨ m.cls ≠ u8 p 16 ∨ u64 p 24 % 64 ≠ 0 then some stBadParam
    else if m.part ≠ part ∨ u64 p 24 + homeSize m > lp ∨ (u64 p 32 ≠ 0 ∧ u64 p 32 + 8 + 4 * m.len > lp) then some stNotAuth
    else if countIf (fun e : Nat × Strm => e.2.valid && e.2.part == part) s.strm.ents ≥ (s.partCfg part).strmQuota ∨
        lowestUnlisted 0 s.strm.ents ≥ 65536 ∨ s.noWork part then some stBusy
    else none

/-- STRM_OPEN, 0x0320 (R175). -/
def execStrmOpen (c : Nat) (p : Packet) (s : State) : Out :=
  .next (s.command c p 0x0320 (openClass s c p) (chkStrmOpen s c p) fun s r =>
    match s.strmModel (u8 p 17) with
    | none => s
    | some m =>
      let i := lowestUnlisted 0 s.strm.ents
      let slot := if strmFlag p then s.freeSlot m else none
      let res := slot.isSome
      let x : Strm := { valid := true, expavg := m.expavg, cls := u8 p 16, ctx := c, part := (s.ctx c).part, model := m.index,
                        home := u64 p 24, resyncN := u32 p 20, refAddr := u64 p 32, inDue := res,
                        reserved := slot }
      ((s.writeHome x m (initState m)).setStream i x).replyNow r [w32 i, w32 (if res then 1 else 0)])

/-- Chunk records in use (R177). -/
def State.chunksUsed (s : State) : Nat := (s.strm.ents.map fun e => e.2.chunks.length).foldl (· + ·) 0

/-- The lowest free chunk record. -/
def State.freeChunk (s : State) : Nat :=
  let used := s.strm.ents.flatMap fun e => e.2.chunks.map Chunk.record
  ((List.range 16384).find? fun k => !used.contains k).getD 0xFFFF

/-- The checks of STRM_PUSH (R170, R174, R177, R298, R437, R453), in the order of its table. A push on a FAULTED stream without RESET
ends with the fault's status. -/
def chkStrmPush (s : State) (c : Nat) (p : Packet) (h : HostRead) : Option Status :=
  let x := s.stream (strmArg p)
  if (x.valid && s.noWork x.part) || decide (x.chunks.length ≥ 64 ∨ s.chunksUsed ≥ 16384) then some stBusy
  else if x.valid && decide (u32 p 20 > 4096) then some stBadParam
  else match chkStrmNamed s c p with
  | some st => some st
  | none =>
    if x.image ∧ (u32 p 20 ≠ 0 ∨ !strmFlag p) then some stConflict
    else if x.faulted ∧ !strmFlag p ∧ !x.chunks.any Chunk.reset then some x.status
    else if u32 p 20 > 0 ∧ (h = .failed ∨ s.ctxDead c) then some stEcc
    else none

/-- STRM_PUSH, 0x0321 (R177): a chunk behind the stream's earlier chunks; the reply follows its completion. -/
def execStrmPush (c : Nat) (p : Packet) (h : HostRead) (s : State) : Out :=
  .next (s.command c p 0x0321 (strmClass s c p) (chkStrmPush s c p h) fun s r =>
    let x := s.stream (strmArg p)
    let data := match h with
      | .data b => b
      | .failed => []
    let k : Chunk := { cmd := r, record := s.freeChunk, reset := strmFlag p, samples := u32 p 20, outAddr := u64 p 32, data := data }
    s.setStream (strmArg p) { x with chunks := x.chunks ++ [k] })

/-- The checks of STRM_SWAP_OUT and STRM_CLOSE (R174, R180, R181, R298), in the order of their table. -/
def chkStrmSwapOut (s : State) (c : Nat) (p : Packet) : Option Status :=
  let x := s.stream (strmArg p)
  if x.chunks ≠ [] ∧ !strmFlag p then some stPinned
  else match chkStrmNamed s c p with
    | some st => some st
    | none => if x.image then some stConflict else none

/-- A refusal with STREAM_PINNED is counted where the command that meets it is answered (R180). -/
def State.countPinned (before after : State) (c : Nat) : State :=
  match (after.ctx c).replies.getLast? with
  | some r => if r.status = stPinned ∧ (after.ctx c).replies.length > (before.ctx c).replies.length
      then { after with strm := { after.strm with pinnedCnt := satInc after.strm.pinnedCnt } } else after
  | none => after

/-- STRM_SWAP_OUT, 0x0322 (R179, R180). -/
def execStrmSwapOut (c : Nat) (p : Packet) (s : State) : Out :=
  .next (s.countPinned (s.command c p 0x0322 (strmClass s c p) (chkStrmSwapOut s c p) fun s r =>
    let x := s.stream (strmArg p)
    if !x.resident && !x.inDue then s.replyNow r
    else s.setStream (strmArg p) { x with outDue := true, outCmds := x.outCmds ++ [r] }) c)

/-- The checks of STRM_SWAP_IN (R174, R437). -/
def chkStrmSwapIn (s : State) (c : Nat) (p : Packet) : Option Status :=
  let x := s.stream (strmArg p)
  if x.valid && s.noWork x.part then some stBusy
  else match chkStrmNamed s c p with
    | some st => some st
    | none => if x.image then some stConflict else none

/-- STRM_SWAP_IN, 0x0323 (R179). -/
def execStrmSwapIn (c : Nat) (p : Packet) (s : State) : Out :=
  .next (s.command c p 0x0323 (strmClass s c p) (chkStrmSwapIn s c p) fun s r =>
    let x := s.stream (strmArg p)
    if x.resident && !x.outDue then s.replyNow r
    else s.setStream (strmArg p) { x with inDue := true, inCmds := x.inCmds ++ [r] })

/-- STRM_CLOSE, 0x0324 (R181): at the next boundary. -/
def execStrmClose (c : Nat) (p : Packet) (s : State) : Out :=
  .next (s.command c p 0x0324 (strmClass s c p) (chkStrmSwapOut s c p) fun s r =>
    let x := s.stream (strmArg p)
    s.setStream (strmArg p) { x with closing := true, closeCmd := x.closeCmd ++ [r] })

/-- FLAGS of an entry (R166). -/
def Strm.flags (x : Strm) : Nat :=
  let reset := match x.chunks with
    | c :: _ => c.reset && !x.resetDone
    | [] => false
  bitAt x.resident 0 + bitAt reset 1 + bitAt x.faulted 2 + bitAt x.image 3 + bitAt x.outDue 4 + bitAt x.inDue 5 + bitAt x.valid 7

/-- Bytes 0 to 7, 24 to 31 and 48 to 51 of an entry (R166); `len` is its model's L. -/
def Strm.words (x : Strm) (len : Nat) : List Word :=
  [w32 (x.ctx % 64 * 2 ^ 24 + x.cls * 2 ^ 16 + bitAt x.expavg 8 + x.flags), w32 (len % 512 * 2 ^ 16 + x.chunks.length * 256 + x.model % 256),
   w32 x.step.toNat, w32 (x.step.toNat / 2 ^ 32), w32 (x.done * 2 ^ 16 + x.status.toNat)]

/-- STRM_QUERY, 0x0325: the entry as at the latest stream-step boundary of its region (R166). -/
def execStrmQuery (c : Nat) (p : Packet) (s : State) : Out :=
  .next (s.command c p 0x0325 (strmClass s c p) (chkStrmNamed s c p) fun s r =>
    let x := tblGet {} s.strm.shown (strmArg p)
    s.replyNow r (if x.valid then x.words ((s.strmModel x.model).elim 0 StrmModel.len) else List.replicate 5 0))

/-- A stream's state as at the latest boundary (R176); that of a stream opened since, as its home copy has it. -/
def State.shownState (s : State) (i : Nat) (x : Strm) (m : StrmModel) : StrmState :=
  if (tblGet {} s.strm.shown i).valid then tblGet [] s.strm.states i else s.homeState x m

/-- Whether a state may be written (R176). -/
def stateOk (st : StrmState) : Bool := st.all fun e => f32Fin e.1 && decide (e.2.toInt.natAbs ≤ 2 ^ 14)

/-- The checks of STRM_STATE (R176, R298, R453), in the order of its table. -/
def chkStrmState (s : State) (c : Nat) (p : Packet) (h : HostRead) : Option Status :=
  let x := s.stream (strmArg p)
  if strmFlag p ∧ x.chunks ≠ [] then some stPinned
  else match chkStrmNamed s c p, s.strmModel x.model with
  | some st, _ => some st
  | none, none => some stBadParam
  | none, some m =>
    if !strmFlag p then none
    else match h with
      | .failed => some stEcc
      | .data b => if stateOk (stateOf m b) then none else some stDataError

/-- STRM_STATE, 0x0326 (R176): the 6L bytes of the state as at the latest boundary go to host memory, or a state is written from it. -/
def execStrmState (c : Nat) (p : Packet) (h : HostRead) (s : State) : Out :=
  .next (s.command c p 0x0326 (strmClass s c p) (chkStrmState s c p h) fun s r =>
    let x := s.stream (strmArg p)
    match s.strmModel x.model, h with
    | none, _ => s
    | some m, h =>
      if !strmFlag p then (s.writeFunc (s.ctx c).func (u64 p 24) (stateBytes (s.shownState (strmArg p) x m))).replyNow r
      else match h with
        | .failed => s
        | .data b => ((s.putState x m (stateOf m b)).setStream (strmArg p) { x with faulted := false }).replyNow r)

/-! ## Clears (R187) -/

/-- CMD_STRM_CLEAR.RESYNC. -/
def execCmdStrmClearResync (s : State) : Out :=
  .next (s.hostWrite fun w x => { x with strm := { x.strm with resyncCnt := sinceMark w.strm.resyncCnt x.strm.resyncCnt, resyncMiss := sinceMark w.strm.resyncMiss x.strm.resyncMiss } })
/-- CMD_STRM_CLEAR.SWAP. -/
def execCmdStrmClearSwap (s : State) : Out :=
  .next (s.hostWrite fun w x => { x with strm := { x.strm with swapCnt := sinceMark w.strm.swapCnt x.strm.swapCnt } })
/-- CMD_STRM_CLEAR.PINNED. -/
def execCmdStrmClearPinned (s : State) : Out :=
  .next (s.hostWrite fun w x => { x with strm := { x.strm with pinnedCnt := sinceMark w.strm.pinnedCnt x.strm.pinnedCnt } })

end Sys2Proof.Machine
end

