-- ==== Sys2Proof/Machine/Sched.lean ====
section
/-! DEFINITION. Compiled tasks: what a TASK entry or an EXEC_TASK starts, what its completion brings, slices, and the late side of the
window watchdog (R272, R275 to R278, R306), with the memory commands (R308). -/
namespace Sys2Proof.Machine

/-- A task of the loaded image. -/
def State.taskCfg (s : State) (index : Nat) : Option TaskCfg := s.image.bind fun i => i.tasks.find? fun t => t.index == index

/-- The address generator of a region takes the descriptor at an offset of its window (R116); a WALK sets the segments of the client that it feeds
(R110). -/
def State.startAgen (s : State) (k off : Nat) : State :=
  let w := s.winOf k 66
  let a := agenOf (fun o => s.spByte (w.base + o)) off
  let x := s.port k
  let walks := if a.op = 1 ∧ !agenBad a ∧ a.client < 5 then tblInsert (tblErase x.walks a.client) a.client { todo := walkSegs w.base a } else x.walks
  (s.setPort k { x with agenRun := true, agenOp := a.op % 8, walks := walks }).settle

/-- The work that a task does at its start (R76, R104, R109, R113, R116, R172, R272, R332, R339): its pass, its transfer, its descriptor, its VPU
or scalar work, its pool step, its camera batch or its decode. `arg1` is argument 1 of EXEC_TASK. -/
def State.startWork (s : State) (w : Work) (t : TaskCfg) (arg1 : Nat) : State :=
  let id := w.id
  let take := fun (s : State) (k slot : Nat) => s.takeWin k slot t.winBase t.winBound t.part id
  match s.physOf t.lreg, t.kind with
  | _, .pass cfg => s.startPasses id w.cls t.part (fun _ => none) [cfg]
  | some k, .xfer off => s.queueXfer k (s.xferFor k w off)
  | some k, .agen off => (take s k 66).startAgen k off
  | some k, .vpu => (take s k 65).settle
  | some k, .scalar tile => if tile < 64 then take s k tile else s
  | _, .strmPool model =>
    let (s, st) := s.stepImagePool model
    s.addStatus (some id) st
  | _, .consumer b => match s.batch b with
    | some c => s.deliverBatch id c
    | none => s
  | _, .decode b => s.startDecode id b arg1
  | _, _ => s

/-- A task starts (R104, R272): it becomes work, and does what its kind says. -/
def State.startTask (s : State) (id : WorkId) (t : TaskCfg) (cls arg1 : Nat) : State :=
  let work : Work := { id := id, task := some t, part := t.part, cls := cls }
  let s := { s with cmp := { s.cmp with works := s.cmp.works ++ [work] } }
  s.startWork work t arg1

/-- TASK (R272): the entry's task starts; an entry that names no task of the image completes with BAD_PARAM. -/
def execTask (t d e : Nat) (s : State) : Out :=
  let s := s.advance t
  .next (s.fireStart d e 1 fun s en => match s.taskCfg en.target with
    | none => s.finishNow d e stBadParam
    | some c => s.startTask (.entry d e) c en.cls 0)

/-- SLICE (R278, R431, R438): a class 2 and class 3 slice opens for a partition that is not drained, for (16 - T)/16 of
WD_MAX × unit; what waits for it may begin. -/
def execSlice (t d e : Nat) (s : State) : Out :=
  let s := s.advance t
  .next (match s.fires d e 6 with
    | none => s
    | some en =>
      let s := s.markFired d e
      let open_ := s.sched.slices.filter fun x => x.endT > s.time.cnt
      let more : List Slice := if s.entryDrained d en then [] else [⟨en.part, s.time.cnt, s.time.cnt + wdTicks en en.wdMax * (16 - s.pwr.throttle) / 16⟩]
      ({ s with sched := { s.sched with slices := open_ ++ more } }).settle)

/-! ## Completion -/

/-- The passes, window slots and frame buffers that a piece of work holds are given up. -/
def State.dropWork (s : State) (id : WorkId) : State := ((s.dropPasses id).endWork id).settle.unlockBufs id

/-- What a task that completes with a usable status does besides (R196, R314): a measurement task writes its values, and the
counters that the task signals are signalled. The status is that of the task, or that of a signal that failed. -/
def State.finishTask (s : State) (w : Work) (st : Status) (words : List Word) : State × Status :=
  match w.task with
  | none => (s, st)
  | some t =>
    if !st.usable then (s, st) else
      let s := match t.kind with
        | .meas slot => s.writeMeas slot words
        | _ => s
      List.foldl (fun (a : State × Status) vid =>
        let (s, r) := a.1.signalVid t.part vid w.cls
        (s, mergeStatus a.2 r)) (s, st) t.signals

/-- TASK_COMPLETE (R272, R276, R306): a piece of work is done, its passes and transfers over. Its status is the one they have gathered, with the one
it ends with; an entry's record is written and its watchdog judged, an EXEC_TASK is replied to with the task's words. A FETCH entry
that carries a watchdog completes in the same way, at the end of its slot. A status is one of those of R18. A step ends at its boundary. -/
def execTaskComplete (t : Nat) (work : WorkId) (status : BitVec 16) (words : List Word) (s : State) : Out :=
  let s := s.advance t
  .next (if !s.powered || !Status.known status || !s.workQuiet work then s else match s.work work with
    | none => match work with
      | .entry d e => match s.startedOf d e with
        | some w => if w.entry.action = 5 then s.completeEntry w stOk else s
        | none => s
      | _ => s
    | some w =>
      if w.task.isNone then s else
      let (s, st) := s.finishTask w (mergeStatus w.status status) words
      let s := s.dropWork work
      match work with
      | .step _ => s
      | .entry d e => match s.sched.started.find? fun x => x.d == d && x.index == e with
        | some x => s.completeEntry x st
        | none => s
      | .cmd c tag => match s.cmd.running.find? fun r => r.cmd.ctx == c && r.cmd.tag == tag with
        | some r => ({ s with cmd := { s.cmd with running := s.cmd.running.erase r } }).complete r.cmd st (words.take 5)
        | none => s)

/-- WATCHDOG_LATE (R276, R331): WD_MAX has elapsed without a completion; the violation is recorded once, the task goes on, and the
frame buffers it has locked are given up. -/
def execWatchdogLate (t d e : Nat) (s : State) : Out :=
  let s := s.advance t
  .next (match s.startedOf d e with
    | none => s
    | some w =>
      if !s.powered || !w.armed || w.late || w.entry.wdMax == 0 || w.entry.action == 8 ||
          decide (s.time.cnt < w.firedT / 2 * 2 + wdTicks w.entry w.entry.wdMax) then s
      else
        let mark := fun x : Started => if x = w then { x with late := true } else x
        let s := { s with sched := { s.sched with started := s.sched.started.map mark } }
        (s.wdViolation 1 w).unlockBufs (.entry d e))

/-! ## EXEC_TASK (R306, R309) -/

/-- Whether the input list of a decode task has not as many entries as its batch buffer has slots (R339). -/
def State.listBad (s : State) (t : TaskCfg) (p : Packet) : Bool := match t.kind with
  | .decode b => match s.batch b with
    | some c => decide (u64 p 32 % 256 ≠ c.slots.length)
    | none => true
  | _ => false

/-- The checks of EXEC_TASK. -/
def chkExecTask (s : State) (c : Nat) (p : Packet) : Option Status :=
  match s.taskCfg (u16 p 16) with
  | none => some stBadParam
  | some t =>
    if t.cls ≤ 1 ∨ t.part ≠ (s.ctx c).part ∨ s.listBad t p then some stBadParam
    else if s.noWork t.part then some stBusy
    else none

/-- EXEC_TASK, 0x0301 (R306): the task starts, and the reply follows its completion. -/
def execExecTask (c : Nat) (p : Packet) (s : State) : Out :=
  .next (s.command c p 0x0301 (s.ctx c).cls (chkExecTask s c p) fun s r =>
    match s.taskCfg (u16 p 16) with
    | none => s
    | some t =>
      let run : Running := { cmd := r, packet := p, part := t.part }
      let s := { s with cmd := { s.cmd with running := s.cmd.running ++ [run] } }
      s.startTask (.cmd c r.tag) t t.cls (u64 p 32))

/-! ## Memory commands (R308) -/

/-- Whether the range of a memory command lies in the context's partition: scratchpad slices, or its LPDDR window. -/
def State.memInPart (s : State) (part : Nat) (p : Packet) : Bool :=
  if u8 p 16 = 0 then s.spaOf part (u64 p 24) (u32 p 20) && s.spaBound (u64 p 24) (u32 p 20)
  else decide (u64 p 24 + u32 p 20 ≤ (s.partCfg part).lpLen)

/-- The checks of the memory commands, in the order of R308. A SPACE other than 0 and 1 is undefined. -/
def chkMem (s : State) (c : Nat) (p : Packet) : Option Status :=
  let part := (s.ctx c).part
  if u8 p 16 > 1 ∨ u64 p 24 % 4 ≠ 0 ∨ u32 p 20 % 4 ≠ 0 ∨ u32 p 20 < 4 ∨ u32 p 20 > 2 ^ 24 then some stBadParam
  else if !s.memInPart part p then some stNotAuth
  else if !(s.partCfg part).memSlots then some stNoFit
  else if s.noWork part then some stBusy
  else none

/-- Whether two ranges of SPAs share a byte. -/
def rangesMeet (a n b k : Nat) : Bool := decide (a < b + k ∧ b < a + n)

/-- Whether `n` bytes written at a scratchpad address leave a codebook or the scales of some product of the image as R47, R48 or R49 refuses them. -/
def State.tablesBad (s : State) (spa n : Nat) : Bool := ((s.image.map imgPasses).getD []).any fun cfg => isProduct cfg && cfg.shares.any fun sh =>
  let d := layerAt (fun o => s.spByte (sh.base + o)) sh.desc sh.first sh.count
  (shareTableRanges sh d).any (fun r => rangesMeet spa n (sh.base + r.1) r.2) && !layerBad d && (codebookBad d || scalesBad d)

/-- Bytes written to the space of a memory command. -/
def State.memPut (s : State) (part : Nat) (p : Packet) (bs : List Byte) : State :=
  if u8 p 16 = 0 then s.spWrite (u64 p 24) bs else s.lpWrite ((s.partCfg part).lpBase + u64 p 24) bs

/-- The bytes of the range of a memory command up to the first poisoned one. -/
def State.memTake (s : State) (part : Nat) (p : Packet) : List Byte :=
  let base := (s.partCfg part).lpBase + u64 p 24
  let bad := fun i => if u8 p 16 = 0 then s.spPoisoned (u64 p 24 + i) 1 else s.lpPoisoned (base + i) 1
  ((List.range (u32 p 20)).takeWhile fun i => !bad i).map fun i => if u8 p 16 = 0 then s.spByte (u64 p 24 + i) else memGet s.cmp.lp (base + i)

/-- MEM_WRITE, 0x0401: the bytes read from host memory are written; a read that fails leaves what came before it and replies
ECC_UNCORRECTABLE (R308, R453). A codebook or scales that the loader would refuse are refused, and the old ones kept (R47, R49). -/
def execMemWrite (c : Nat) (p : Packet) (h : HostRead) (s : State) : Out :=
  .next (s.command c p 0x0401 (s.ctx c).cls (chkMem s c p) fun s r =>
    match h with
    | .failed => s.complete r stEcc
    | .data b =>
      let n := min b.length (u32 p 20)
      let was := s
      let s := s.memPut (s.ctx c).part p (b.take n)
      if u8 p 16 = 0 ∧ s.tablesBad (u64 p 24) n then was.complete r stBadParam
      else if b.length < u32 p 20 then s.complete r stEcc else s.replyNow r)

/-- The report of a memory command that meets poisoned data (R27, R122, R457): scratchpad against its region, LPDDR against the partition. -/
def State.memFault (s : State) (part : Nat) (p : Packet) (n : Nat) : State :=
  if u8 p 16 = 0 then (match s.spaKey (u64 p 24 + n) with
    | some a => s.faultUnit (a / sliceLen)
    | none => s)
  else s.raise 0x08 part 0

/-- MEM_READ, 0x0402: what comes before poisoned data is written to the host, and the command completes with ECC_UNCORRECTABLE. -/
def execMemRead (c : Nat) (p : Packet) (s : State) : Out :=
  .next (s.command c p 0x0402 (s.ctx c).cls (chkMem s c p) fun s r =>
    let bs := s.memTake (s.ctx c).part p
    let s := s.writeFunc (s.ctx c).func (u64 p 32) bs
    if bs.length < u32 p 20 then (s.memFault (s.ctx c).part p bs.length).complete r stEcc else s.replyNow r)

/-- MEM_FILL, 0x0403: zeros. -/
def execMemFill (c : Nat) (p : Packet) (s : State) : Out :=
  .next (s.command c p 0x0403 (s.ctx c).cls (chkMem s c p) fun s r =>
    (s.memPut (s.ctx c).part p (List.replicate (u32 p 20) 0)).replyNow r)

/-! ## Registers -/

/-- SCHED_CLEAR_MISSED. -/
def execSchedClearMissed (s : State) : Out :=
  .next (s.hostWrite fun w x => { x with sched := { x.sched with missedCnt := sinceMark w.sched.missedCnt x.sched.missedCnt } })
/-- SCHED_CLEAR_LATE. -/
def execSchedClearLate (s : State) : Out :=
  .next (s.hostWrite fun w x => { x with sched := { x.sched with lateCnt := sinceMark w.sched.lateCnt x.sched.lateCnt } })
/-- SCHED_CLEAR_EARLY. -/
def execSchedClearEarly (s : State) : Out :=
  .next (s.hostWrite fun w x => { x with sched := { x.sched with earlyCnt := sinceMark w.sched.earlyCnt x.sched.earlyCnt } })
/-- SCHED_CLEAR_OVERRUN. -/
def execSchedClearOverrun (s : State) : Out :=
  .next (s.hostWrite fun w x => { x with sched := { x.sched with overrunCnt := sinceMark w.sched.overrunCnt x.sched.overrunCnt } })
/-- Registers of every domain written. -/
def Blocks.onDoms (f : Domain → Domain → Domain) (w x : Blocks) : Blocks :=
  { x with time := { x.time with doms := (List.range 8).foldl (fun m d => tblUpd {} m d (f (tblGet {} w.time.doms d))) x.time.doms } }
/-- TIME_CLEAR_HOLD (R286). -/
def execTimeClearHold (s : State) : Out :=
  .next (s.hostWrite (Blocks.onDoms fun w x => { x with holdCnt := sinceMark w.holdCnt x.holdCnt }))
/-- TIME_CLEAR_SKIP (R286). -/
def execTimeClearSkip (s : State) : Out :=
  .next (s.hostWrite (Blocks.onDoms fun w x => { x with skipCnt := sinceMark w.skipCnt x.skipCnt }))

end Sys2Proof.Machine
end

