-- ==== Sys2Proof/Machine/Context.lean ====
section
/-! DEFINITION. Attaching, resetting and detaching a context (R290 to R293, R303, R307): context 0 by its registers, the others by
commands. -/
namespace Sys2Proof.Machine

/-! ## Leaving (R303) -/

/-- A context's wait on a counter leaves the queue; the waits behind it are tested. -/
def State.dropWaits (s : State) (c : Nat) : State :=
  let mine := fun w : Wait => match w.who with
    | .cmd r => r.ctx == c
    | _ => false
  let gone := s.sync.waits.filter mine
  let s := { s with sync := { s.sync with waits := s.sync.waits.filter fun w => !mine w } }
  List.foldl (fun s w => s.grants w.counter) s gone

/-- A context's sequences retire at the next boundary without records (R159); a partition whose builder runs no step stands at one. -/
def State.dropSeqs (s : State) (c : Nat) : State :=
  { s with srv := { s.srv with ents := tblMap {} (fun _ (x : SeqEntry) =>
    if x.ctx = c ∧ x.state ≠ .free then
      { x with gone := true, state := (if (s.builder x.part).running then x.state else .retiring) } else x) s.srv.ents } }

/-- A context's streams are freed at the next stream-step boundary, their chunks dropped (R181). -/
def State.dropStreams (s : State) (c : Nat) : State :=
  { s with strm := { s.strm with ents := tblMap {} (fun _ (x : Strm) =>
    if x.valid ∧ !x.image ∧ x.ctx = c then { x with dropped := true, chunks := [] } else x) s.strm.ents } }

/-- A context's pending solves are dropped (R213): one that runs or is on its way to OUT_ADDR goes on without its command. -/
def State.dropSolves (s : State) (c : Nat) : State :=
  { s with slv := { s.slv with probs := tblMap {} (fun _ (x : Prob) =>
    { x with
      cmd := x.cmd.filter (fun r => r.1.ctx != c),
      run := x.run.map fun r => { r with cmd := r.cmd.filter fun k => k.ctx != c },
      outs := x.outs.map fun o => { o with cmd := o.cmd.filter fun k => k.1.ctx != c } }) s.slv.probs } }

/-- A context's telemetry streams close (R445). -/
def State.dropTlms (s : State) (c : Nat) : State :=
  { s with pwr := { s.pwr with tlms := s.pwr.tlms.filter fun e => match e.2 with
    | some x => x.ctx != c
    | none => true } }

/-- A context's pending decode tasks are dropped (R303, R344). -/
def State.dropDecodes (s : State) (c : Nat) : State :=
  let mine := fun d : Decode => match d.id with
    | .cmd k _ => k == c
    | _ => false
  let s := List.foldl (fun s d => s.dropWork d.id) s (s.ppe.decodes.filter mine)
  { s with ppe := { s.ppe with decodes := s.ppe.decodes.filter fun d => !mine d } }

/-- What an accepted detach, and a reset that has passed its read, do to a context (R303): its fetch stops, its commands in
flight are dropped without replies, and its work and objects go. A load that it has asked for ends with it (log entry 27). -/
def State.leaveCtx (s : State) (c : Nat) : State :=
  let x := s.ctx c
  let mine := fun q : Option Queued => match q with
    | some q => q.cmd.ctx == c
    | none => false
  let s := { s with
    glob := { s.glob with loading := s.glob.loading && !mine s.cmd.loadCmd },
    cmd := { s.cmd with
      queue := s.cmd.queue.filter fun q => q.cmd.ctx != c,
      running := s.cmd.running.filter fun q => q.cmd.ctx != c,
      leaving := s.cmd.leaving.filter fun e => e.2.ctx != c,
      loadCmd := (if mine s.cmd.loadCmd then none else s.cmd.loadCmd) } }
  let s := s.setCtx c { x with inflight := [], replies := [] }
  let s := ((s.dropDecodes c).dropWaits c).dropSeqs c
  (((s.dropStreams c).dropSolves c).dropTlms c).dropMappings c

/-- A detached context holds nothing. -/
def State.detachCtx (s : State) (c : Nat) : State := (s.leaveCtx c).setCtx c {}

/-- A context attached with what its ring control block holds (R291, R293). -/
def attachedCtx (func part rcb : Nat) (b : Rcb) : Ctx :=
  { state := .attached, func := func, part := part, cls := b.cls, rcb := rcb, cmdRing := b.cmdRing, rplRing := b.rplRing,
    cmdLog2 := b.cmdLog2, rplLog2 := b.rplLog2, vector := b.vector }

/-- A context reset with the values read (R303): CMD_CI and RPL_PI are written as 0 and it is ATTACHED again. -/
def State.resetCtx (s : State) (c : Nat) (b : Rcb) : State :=
  let s := s.leaveCtx c
  let x := s.ctx c
  let s := s.writeFunc x.func (x.rcb + 4) (List.replicate 8 0)
  s.setCtx c { attachedCtx x.func x.part x.rcb b with vids := x.vids }

/-- A reset that finds the ring control block as it was read before (log entry 28). -/
def State.resetAgain (s : State) (c : Nat) : State :=
  let x := s.ctx c
  s.resetCtx c { cmdRing := x.cmdRing, rplRing := x.rplRing, cmdLog2 := x.cmdLog2, rplLog2 := x.rplLog2, vector := x.vector, cls := x.cls }

/-- The reply of a detach or reset: at once where the partition runs no step, else at its step boundary (R303). -/
def State.replyLeft (s : State) (part : Nat) (r : CmdRef) : State :=
  if (s.builder part).running then { s with cmd := { s.cmd with leaving := s.cmd.leaving ++ [(part, r)] } } else s.replyNow r

/-! ## Context 0 (R292) -/

/-- A refused attach or reset of context 0: 1 its state, 2 a field out of range, 3 a failed read. -/
def State.ctx0Refused (s : State) (cause : Nat) : State :=
  { s with cmd := { s.cmd with ctx0Fail := true, ctx0Cause := BitVec.ofNat 2 cause } }

/-- The cause that a refused ring control block gives. -/
def rcbCause (st : Status) : Nat := if st = stEcc then 3 else 2

/-- ATTACH0 (R290, R292): context 0 is attached to the physical function, in the partition of the image that declares it, or in
partition 0. -/
def execAttach0 (rcb : HostRead) (s : State) : Out :=
  .next (if !s.powered then s
    else if (s.ctx 0).state ≠ .detached then s.ctx0Refused 1
    else match s.ringBlock 0 rcb with
      | .error st => s.ctx0Refused (rcbCause st)
      | .ok b =>
        let part := ((s.parts.find? fun q => q.contexts.contains 0).map PartCfg.id).getD 0
        s.setCtx 0 (attachedCtx 0 part s.cmd.bootRcb.toNat b))

/-- RESET0 (R292, R303). -/
def execReset0 (rcb : HostRead) (s : State) : Out :=
  .next (if !s.powered then s
    else if (s.ctx 0).state = .detached then s.ctx0Refused 1
    else match s.ringBlock 0 rcb with
      | .error st => s.ctx0Refused (rcbCause st)
      | .ok b => s.resetCtx 0 b)

/-! ## Commands (R306, R307) -/

/-- Whether R291 defines a function, and NumVFs enables it where it is virtual (R452). -/
def State.funcOk (s : State) (f : Nat) : Bool := f == 0 || (f ≤ 31 && f ≤ s.lnk.numVfs) || firmwareFunc f

/-- The partition that declares a context. -/
def State.partOfCtx (s : State) (c : Nat) : Option Nat := (s.parts.find? fun q => q.contexts.contains c).map PartCfg.id

/-- The checks of CTX_ATTACH before its read (R307). -/
def chkCtxAttach (s : State) (c : Nat) (p : Packet) : Option Status :=
  (chkSession c p).orElse fun _ =>
    if (s.ctx (sessCtx p)).state ≠ .detached ∨ !s.funcOk (u8 p 17) then some stBadParam
    else match s.partOfCtx (sessCtx p) with
      | none => some stBadParam
      | some part =>
        let clash := fun e : Nat × Ctx => e.1 != sessCtx p && e.2.state != .detached && e.2.func == u8 p 17 && e.2.part != part
        if firmwareFunc (u8 p 17) && s.cmd.ctxs.any clash then some stConflict else none

/-- CTX_ATTACH, 0x0101. -/
def execCtxAttach (c : Nat) (p : Packet) (rcb : HostRead) (s : State) : Out :=
  .next (s.command c p 0x0101 (s.ctx c).cls (chkCtxAttach s c p) fun s r =>
    match s.ringBlock (u8 p 17) rcb with
    | .error st => s.complete r st
    | .ok b => (s.setCtx (sessCtx p) (attachedCtx (u8 p 17) ((s.partOfCtx (sessCtx p)).getD 0) (u64 p 24) b)).replyNow r)

/-- CTX_DETACH, 0x0102: a context that is DETACHED already changes nothing. -/
def execCtxDetach (c : Nat) (p : Packet) (s : State) : Out :=
  .next (s.command c p 0x0102 (s.ctx c).cls (chkSession c p) fun s r =>
    let part := (s.ctx (sessCtx p)).part
    if (s.ctx (sessCtx p)).state = .detached then s.replyNow r else (s.detachCtx (sessCtx p)).replyLeft part r)

/-- The checks of CTX_RESET before its read (R307). -/
def chkCtxReset (s : State) (c : Nat) (p : Packet) : Option Status :=
  (chkSession c p).orElse fun _ => if (s.ctx (sessCtx p)).state = .detached then some stBadParam else none

/-- CTX_RESET, 0x0103. -/
def execCtxReset (c : Nat) (p : Packet) (rcb : HostRead) (s : State) : Out :=
  .next (s.command c p 0x0103 (s.ctx c).cls (chkCtxReset s c p) fun s r =>
    match s.ringBlock (s.ctx (sessCtx p)).func rcb with
    | .error st => s.complete r st
    | .ok b => (s.resetCtx (sessCtx p) b).replyLeft (s.ctx (sessCtx p)).part r)

/-! ## Clears (R322, R324) -/

/-- CMD_CLEAR.REFUSED. -/
def execCmdClearRefused (s : State) : Out :=
  .next (s.hostWrite fun w x => { x with cmd := { x.cmd with refusedCnt := sinceMark w.cmd.refusedCnt x.cmd.refusedCnt } })
/-- CMD_CLEAR.FETCH. -/
def execCmdClearFetch (s : State) : Out :=
  .next (s.hostWrite fun w x => { x with cmd := { x.cmd with fetchCnt := sinceMark w.cmd.fetchCnt x.cmd.fetchCnt } })
/-- CMD_CLEAR.BUSY. -/
def execCmdClearBusy (s : State) : Out :=
  .next (s.hostWrite fun w x => { x with cmd := { x.cmd with busyCnt := sinceMark w.cmd.busyCnt x.cmd.busyCnt } })
/-- SYNC_CLEAR.TIMEOUT. -/
def execSyncClearTimeout (s : State) : Out :=
  .next (s.hostWrite fun w x => { x with sync := { x.sync with timeoutCnt := sinceMark w.sync.timeoutCnt x.sync.timeoutCnt } })
/-- SYNC_CLEAR.ABANDON. -/
def execSyncClearAbandon (s : State) : Out :=
  .next (s.hostWrite fun w x => { x with sync := { x.sync with abandonCnt := sinceMark w.sync.abandonCnt x.sync.abandonCnt } })
/-- SYNC_CLEAR.UNDERFLOW. -/
def execSyncClearUnderflow (s : State) : Out :=
  .next (s.hostWrite fun w x => { x with sync := { x.sync with underflowCnt := sinceMark w.sync.underflowCnt x.sync.underflowCnt } })

end Sys2Proof.Machine
end

