-- ==== Sys2Proof/Machine/Control.lean ====
section
/-! DEFINITION. The control engine (R218 to R235, R243 to R246) and motion I/O (R236 to R242, R247 to R249). -/
namespace Sys2Proof.Machine

/-! ## Fields and tables -/

/-- FMT of a slot: FP32 when set (R246). -/
def Loop.fp (l : Loop) : Bool := l.cfg.getLsbD 0
/-- The enabled stages of a slot: 0 P, 1 V, 2 T (R246). -/
def Loop.stages (l : Loop) : List Nat := (List.range 3).filter fun i => l.cfg.getLsbD (1 + i)
/-- RES_STAGE of a slot as a stage; none where it is 0. -/
def Loop.resStage (l : Loop) : Option Nat := if bitsOf l.cfg.toNat 4 2 = 0 then none else some (bitsOf l.cfg.toNat 4 2 - 1)
/-- A coefficient register of a slot by its window index, 2 to 13 (R243, R245). -/
def Loop.coef (l : Loop) (index : Nat) : Word := l.coefs.getD (index - 2) 0
/-- HOLD_LIMIT, STALE_LIMIT and FE_TIME of a slot (R246). -/
def Loop.holdLimit (l : Loop) : Nat := bitsOf (l.coef 12).toNat 8 8
/-- STALE_LIMIT. -/
def Loop.staleLimit (l : Loop) : Nat := bitsOf (l.coef 12).toNat 0 8
/-- FE_TIME. -/
def Loop.feTime (l : Loop) : Nat := bitsOf (l.coef 12).toNat 16 16
/-- The output kind of a slot and its index (R246). -/
def Loop.outKind (l : Loop) : Nat := bitsOf l.io.toNat 30 2
/-- OUT_IDX. -/
def Loop.outIdx (l : Loop) : Nat := bitsOf l.io.toNat 24 6

/-- An encoder port. -/
def State.enc (s : State) (e : Nat) : Enc := tblGet {} s.mio.encs e
/-- Changing an encoder port. -/
def State.setEnc (s : State) (e : Nat) (x : Enc) : State := { s with mio := { s.mio with encs := tblSet {} s.mio.encs e x } }
/-- A sample port. -/
def State.spi (s : State) (p : Nat) : Spi := tblGet {} s.mio.spis p
/-- Changing a sample port. -/
def State.setSpi (s : State) (p : Nat) (x : Spi) : State := { s with mio := { s.mio with spis := tblSet {} s.mio.spis p x } }
/-- A PWM output. -/
def State.pwm (s : State) (o : Nat) : Pwm := tblGet {} s.mio.pwms o
/-- Changing a PWM output. -/
def State.setPwm (s : State) (o : Nat) (x : Pwm) : State := { s with mio := { s.mio with pwms := tblSet {} s.mio.pwms o x } }
/-- KIND of an encoder port: 0 unused, 1 quadrature, 2 SSI (R248). -/
def Enc.kind (x : Enc) : Nat := x.cfg.toNat % 4
/-- BITS of an SSI port. -/
def Enc.bits (x : Enc) : Nat := bitsOf x.cfg.toNat 8 6
/-- Whether QERR is recorded for a port (R236). -/
def State.qerr (s : State) (e : Nat) : Bool := maskBit s.mio.encErr e

/-- The slots of an axis group. -/
def Group.slots (x : Group) : List Nat := (List.range x.count).map (x.first + ·)
/-- The group that a slot belongs to, if any (R218). -/
def State.groupOf (s : State) (n : Nat) : Option Nat := (List.range 16).find? fun g => (s.group g).valid && (s.group g).slots.contains n
/-- Whether a slot is a channel-B slot (R235, R246). -/
def Loop.chanB (l : Loop) : Bool := l.cfg.getLsbD 7

/-- Changing the counters of the control engine. -/
def State.cteUpd (s : State) (f : Cte → Cte) : State := { s with cte := f s.cte }

/-- The start of the hub cycle that holds a tick: a cycle is two ticks. -/
def cycleStart (t : Nat) : Nat := t / 2 * 2

/-! ## Arithmetic of the law (R225) -/

/-- Addition in a loop's format: FP32, or INT32 saturating. -/
def lawAdd (fp : Bool) (a b : Word) : Word := if fp then f32Add a b else BitVec.ofInt 32 (satInt 32 (a.toInt + b.toInt))
/-- Subtraction in a loop's format. -/
def lawSub (fp : Bool) (a b : Word) : Word := if fp then f32Sub a b else BitVec.ofInt 32 (satInt 32 (a.toInt - b.toInt))
/-- mulq of INT, with VALUE and N of the coefficient word; K × x in FP32. -/
def lawMul (fp : Bool) (k x : Word) : Word :=
  if fp then f32Mul k x
  else BitVec.ofInt 32 (satInt 32 (intRne ((BitVec.ofNat 16 k.toNat).toInt * x.toInt) (bitsOf k.toNat 16 4)))
/-- Whether the magnitude of a value exceeds that of a limit. -/
def lawExceeds (fp : Bool) (u lim : Word) : Bool := if fp then f32Lt (f32Abs lim) (f32Abs u) else u.toInt.natAbs > lim.toInt.natAbs
/-- A limit with the sign of a value. -/
def lawClamp (fp : Bool) (u lim : Word) : Word :=
  if fp then (lim &&& 0x7FFFFFFF) ||| (u &&& 0x80000000)
  else if u.toInt < 0 then BitVec.ofInt 32 (-(lim.toInt.natAbs : Int)) else BitVec.ofInt 32 (lim.toInt.natAbs : Int)
/-- A measurement in a loop's format (R225). -/
def lawMeas (fp : Bool) (v : Word) : Word := if fp then i32ToF32 v.toInt else v

/-- An FP32 value in INT32, rounded to nearest with ties to even and saturated; none for a NaN. -/
def f32ToI32 (w : Word) : Option Word := match f32Val w with
  | .nan => none
  | .inf neg => some (if neg then 0x80000000 else 0x7FFFFFFF)
  | v => (v.toInt 0).map fun i => BitVec.ofInt 32 (satInt 32 i)

/-- An FP32 value taken into a loop's format (R228). The spec gives a NaN no INT32 value: a free value of the NaN (log entry 19). -/
def lawConv (fp : Bool) (w : Word) : Word := if fp then w else (f32ToI32 w).getD (w32 (Config.freeNat 19 w.toNat))

/-! ## One stage and one loop of the law (R226, R230) -/

/-- What the law of a loop carries from stage to stage: the reference of the next stage, the integrators of P, V and T, whether a
preloaded stage was clamped, and whether a u was a NaN. -/
structure LawRun where
  r     : Word
  integ : List Word
  sat   : Bool := false
  nan   : Bool := false
  deriving DecidableEq, Repr

/-- What the law of a loop takes: measurements, feed-forward terms and residual terms by stage. -/
structure LawIn where
  y   : List Word
  f   : List Word
  res : List Word
  deriving DecidableEq, Repr

/-- The target of a stage in the first CLOSED period: the measurement of the next inner enabled stage, for the innermost the
output held while the loop was open (R230). -/
def Loop.target (l : Loop) (y : List Word) (st : Nat) : Word :=
  match l.stages.find? fun i => i > st with
  | some i => y.getD i 0
  | none => l.out

/-- One enabled stage (R226). -/
def Loop.stage (l : Loop) (x : LawIn) (a : LawRun) (st : Nat) : LawRun :=
  if a.nan then a else
    let fp := l.fp
    let e := lawSub fp a.r (x.y.getD st 0)
    let p := lawMul fp (l.coef (2 + 2 * st)) e
    let f := x.f.getD st 0
    let res := x.res.getD st 0
    let i := if l.first then lawSub fp (lawSub fp (lawSub fp (l.target x.y st) p) f) res else a.integ.getD st 0
    let u := lawAdd fp (lawAdd fp (lawAdd fp p i) f) res
    let lim := l.coef (8 + st)
    if fp && f32Nan u then { a with nan := true }
    else if lawExceeds fp u lim then { a with r := lawClamp fp u lim, integ := a.integ.set st i, sat := a.sat || l.first }
    else
      let i' := if l.first then i else lawAdd fp i (lawMul fp (l.coef (3 + 2 * st)) e)
      { a with r := u, integ := a.integ.set st i' }

/-- The law of a loop: its enabled stages in order, from its setpoint (R226). -/
def Loop.law (l : Loop) (setp : Word) (x : LawIn) : LawRun := l.stages.foldl (l.stage x) { r := setp, integ := [l.iP, l.iV, l.iT] }

/-- The residual of a slot clamped to RES_LIM, and whether it was clamped (R227). -/
def clampRes (lim code : BitVec 16) : BitVec 16 × Bool :=
  if (code &&& 0x7FFF).toNat > (lim &&& 0x7FFF).toNat then ((code &&& 0x8000) ||| (lim &&& 0x7FFF), true) else (code, false)

/-- The feed-forward buffer as a law that starts now reads it (R228): a record that becomes visible in this cycle is not seen. -/
def State.ffNow (s : State) (x : Group) : FfBuf := ((x.ffs.find? fun e => e.1 < s.time.cnt / 2).map Prod.snd).getD {}

/-- The residual terms of a loop by stage, with the count of its clamp (R227). -/
def State.lawResidual (s : State) (l : Loop) (res : Policy) : List Word × State :=
  match l.resStage, res with
  | some st, .values v =>
    if !l.stages.contains st then ([], s) else
      let (code, clamped) := clampRes (BitVec.ofNat 16 (l.cfg.toNat / 65536)) (v.getD (bitsOf l.cfg.toNat 8 8) 0)
      let s := if clamped then s.cteUpd fun x => { x with clampCnt := satInc x.clampCnt } else s
      (([0, 0, 0] : List Word).set st (lawConv l.fp (bf16ToF32 code)), s)
  | _, _ => ([], s)

/-- The setpoint and the feed-forward terms of a loop, and whether one of its elements carries DEADLINE_MISS (R226, R228). A loop
without a SETP element has setpoint 0. -/
def Loop.feed (l : Loop) (b : FfBuf) : Word × List Word × Bool :=
  let idx := (List.range 4).map fun i => bitsOf l.ffMap.toNat (8 * i) 8
  let miss := idx.any fun i => i != 0xFF && b.miss.contains i
  let alt := miss && l.cfg.getLsbD 6
  let take := fun (t : Tbl Word) (i : Nat) => if i = 0xFF then (0 : Word) else lawConv l.fp (tblGet 0 t i)
  (take (if alt then b.good else b.vals) (idx.getD 0 0xFF),
   (List.range 3).map fun i => if alt then 0 else take b.vals (idx.getD (i + 1) 0xFF), miss)

/-- An excess over a limit counted in FE_RUN of 17 bits, or the run set to 0 (R232, R235). -/
def feNext (run : Nat) (excess : Bool) : Nat := if excess then min (run + 1) 0x1FFFF else 0

/-- The law of one CLOSED slot (R226 to R232): its output beside the applied one, its integrators, previous position and
following-error run; a NaN leaves everything as it was, and the output phase holds (R224). -/
def State.runLoop (s : State) (g n : Nat) : State :=
  let x := s.group g
  let l := s.loop n
  if l.state ≠ .closed then s else
    let (setp, fs, miss) := l.feed (s.ffNow x)
    let (res, s) := s.lawResidual l x.result
    let y := [l.yP, l.yV, l.yT].map (lawMeas l.fp)
    let a := l.law setp { y := y, f := fs, res := res }
    if a.nan then s.setLoop n { l with ffMiss := miss, setp := setp }
    else
      let fe := !l.chanB && l.stages.contains 0
      let excess := lawExceeds l.fp (lawSub l.fp setp (y.getD 0 0)) (l.coef 11)
      let l' : Loop := { l with
        ffMiss := miss, setp := setp, iP := a.integ.getD 0 0, iV := a.integ.getD 1 0, iT := a.integ.getD 2 0,
        next := some a.r, first := false, closeSat := (if l.first then a.sat else l.closeSat), prevPos := some l.yP,
        holdRun := 0, held := false, feRun := (if fe then feNext l.feRun excess else l.feRun) }
      let s := s.setLoop n l'
      if fe && excess then s.cteUpd fun c => { c with feCnt := satInc c.feCnt } else s

/-- The cross-check of a DUAL group after the law (R235): each pair whose channels both have an output, counted in channel B's run. -/
def State.crossCheck (s : State) (x : Group) : State :=
  List.foldl (fun s k =>
    let a := s.loop (x.first + 2 * k)
    let b := s.loop (x.first + 2 * k + 1)
    match a.next, b.next with
    | some u, some v =>
      let excess := lawExceeds a.fp (lawSub a.fp u v) (b.coef 11)
      let s := s.setLoop (x.first + 2 * k + 1) { b with feRun := feNext b.feRun excess }
      if excess then s.cteUpd fun c => { c with dualCnt := satInc c.dualCnt } else s
    | _, _ => s) s (List.range (x.count / 2))

/-- A group faults with the lowest of several causes that arise together (R234). -/
def State.faultLowest (s : State) (g : Nat) (causes : List Nat) : State :=
  match causes with
  | [] => s
  | c :: cs => s.faultGroup g (cs.foldl min c)

/-- CONTROL_LAW (R222, R226): once in a period, from cycle 72 on and after the last residual, every CLOSED loop of the group runs
its law; then the following-error and cross-check causes are judged. -/
def execControlLaw (t g : Nat) (s : State) : Out :=
  let s := s.advance t
  let x := s.group g
  .next (match x.latchT with
    | none => s
    | some at_ =>
      let ready := match x.result with
        | .idle => s.time.cnt ≥ at_ + 144
        | .values _ => s.time.cnt ≥ x.lawT.getD (at_ + 144)
        | _ => false
      if !s.powered || !x.valid || x.ran || !ready then s else
        let s := s.setGroup g { x with ran := true }
        let s := List.foldl (fun s n => s.runLoop g n) s x.slots
        let s := if x.dual then s.crossCheck x else s
        let following := x.slots.any fun n =>
          let l := s.loop n
          l.state == .closed && !l.chanB && l.next.isSome && l.stages.contains 0 && decide (l.feRun > l.feTime)
        let dual := x.dual && x.slots.any fun n =>
          let l := s.loop n
          l.state == .closed && l.chanB && l.next.isSome && decide (l.feRun > l.feTime)
        s.faultLowest g ((if following then [1] else []) ++ (if dual then [6] else [])))

/-! ## The latch (R221, R229, R233, R236) -/

/-- The signed difference of two positions: modulo 2^32 of a counter, modulo 2^BITS of an SSI port (R226, R237). -/
def posDiff (w : Nat) (a b : Word) : Word :=
  let d := (a - b).toNat % 2 ^ w
  BitVec.ofInt 32 (if 2 * d ≥ 2 ^ w then (d : Int) - 2 ^ w else d)

/-- The state of a slot after the pending commands have taken effect (R229, R244). -/
def Loop.atLatch (l : Loop) (acked : Bool) : Loop :=
  let l := { l with next := none, openVal := l.coef 13 }
  match l.state with
  | .fault => if acked then { l with state := .open_, holdRun := 0, feRun := 0, staleRun := 0, first := false, opening := false } else l
  | .closing => { l with state := .closed, first := true, opening := false }
  | .closed => if l.opening then { l with state := .open_, opening := false, first := false, holdRun := 0, feRun := 0 } else l
  | _ => { l with opening := false }

/-- The holding register that an input of a field bus names (R347, R465). -/
def State.busHold (s : State) (b : BusIn) : Hold :=
  if b.can then tblGet {} (tblGet {} s.cans b.port).holds b.reg else tblGet {} (tblGet {} s.eths b.port).holds b.reg

/-- The measurement that an input of a field bus gives a slot; without one, a free value of the slot and the measurement. -/
def State.busValue (s : State) (n k : Nat) (b : Option BusIn) : Word := match b with
  | some b => w32 (leField (s.busHold b).data b.off 4)
  | none => w32 (Config.freeNat 20 (2 * n + k))

/-- The measurements of a slot at the latch (R221, R226, R233): the values its ports hold, stale where the source has delivered no
valid frame since the previous latch. A stage that no port and no field-bus input feeds has no stated measurement: a free value of
its slot (log entry 20). -/
def State.measureLoop (s : State) (n : Nat) : State :=
  let l := s.loop n
  if l.state = .off then s else
    let e := s.enc (bitsOf l.io.toNat 0 4)
    let useE := l.io.getLsbD 4
    let q := s.spi (bitsOf l.io.toNat 8 3)
    let useS := l.io.getLsbD 15
    let ssi := useE && e.kind == 2
    let staleE := ssi && e.frames == l.encSeen
    let staleS := useS && q.frames == l.spiSeen
    let busP := if useE then none else l.busP.map s.busHold
    let busT := if useS then none else l.busT.map s.busHold
    let freshP := (busP.map Hold.count).getD 0
    let freshT := (busT.map Hold.count).getD 0
    let staleP := staleE || (busP.isSome && freshP == l.busPSeen)
    let staleT := staleS || (busT.isSome && freshT == l.busTSeen)
    let pos := if useE then e.value else s.busValue n 0 l.busP
    let cur := if useS then (q.words.getD (bitsOf l.io.toNat 12 3) 0).signExtend 32 else s.busValue n 1 l.busT
    let vel := if staleP || l.posStale then l.yV else match l.prevPos with
      | none => 0
      | some b => posDiff (if ssi then e.bits else 32) pos b
    let stale := staleP || staleT
    let watched := l.state == .open_ || l.state == .closing || l.state == .closed
    let l' : Loop := { l with
      yP := pos, yV := vel, yT := cur, posStale := staleP, encSeen := e.frames, spiSeen := q.frames,
      busPSeen := freshP, busTSeen := freshT,
      stale := (if watched then stale else l.stale), staleRun := (if watched && stale then l.staleRun + 1 else 0),
      prevPos := (if l.state = .closed then some (l.prevPos.getD pos) else some pos),
      held := (if l.state = .closed then l.held else false) }
    let s := s.setLoop n l'
    if watched && stale then s.cteUpd fun c => { c with staleCnt := satInc c.staleCnt } else s

/-- The counter or decoded value of every port that a group reads, as MIO_ENCe_POS shows it after a latch (R247). -/
def State.latchPos (s : State) (x : Group) : State :=
  List.foldl (fun s n =>
    let l := s.loop n
    let k := bitsOf l.io.toNat 0 4
    if l.io.getLsbD 4 then s.setEnc k { s.enc k with pos := (s.enc k).value } else s) s x.slots

/-! ### The residual policy (R91, R112, R221) -/

/-- The policy input vector of a group (R221): the values that the image selects from its measurements, of the slot at a place of the group, and
from its feed-forward elements, each converted to BF16 (R41). -/
def State.policyInputs (s : State) (x : Group) : List (BitVec 16) :=
  ((s.image.map Image.policyIn).getD []).map fun e =>
    let l := s.loop (x.first + e.2)
    let int := fun y : Word => BitVec.ofNat 16 (bf16.ofInt y.toInt)
    match e.1 with
    | 0 => int l.yP
    | 1 => int l.yV
    | 2 => int l.yT
    | _ => f32ToBf16 (tblGet 0 (s.ffNow x).vals e.2)

/-- The descriptor of the policy as the code buffer holds it. -/
def State.policyDesc (s : State) (p : PolicyCfg) : LayerDesc := layerAt (fun o => s.cmp.codeBuf.getD o 0) p.desc 0 p.weights.length

/-- The policy's product (R91): one vector, with static anchors, from what the code buffer holds. -/
def State.policyProduct (s : State) (p : PolicyCfg) (acts : List (BitVec 16)) : List ColOut :=
  let d := s.policyDesc p
  (List.range p.weights.length).map fun r =>
    let a := (d.anchors.getD (r / 128) (0, -7)).1
    let w := fun k => weightVal d.mode d.opnd2Fp16 d.codebook (weightAt (fun o => s.cmp.codeBuf.getD o 0) d.mode (p.weights.getD r 0) k)
    footOf d a r (gridColumn a (scaleOf d r) (secondOf d) (blockLen d.mode) ((List.range d.reduction).map fun k => (bf16.decode (acts.getD k 0).toNat, w k)))

/-- The policy's product begins on the MVU of the C0 region for a group. -/
def State.startPolicy (s : State) (k g : Nat) (x : Group) : State := match s.image.map Image.policy with
  | none => s
  | some p => s.setRegion k { s.region k with policy := some (g, s.policyProduct p (s.policyInputs x)), mvuMode := (s.policyDesc p).mode }

/-- The policy's product is over: its counts are added, and a trip is recorded and reported (R64, R71). -/
def State.endPolicy (s : State) (k : Nat) (cols : List ColOut) : State := match s.image.map Image.policy with
  | none => s
  | some p =>
    let d := s.policyDesc p
    let s := s.addRun k cols (mvuReads d.mode d.reduction p.weights.length)
    let trip := tripOf d cols
    let s := if trip.1 || trip.2 then s.recordTrip k d.layerId true trip false else s
    s.setRegion k { s.region k with policy := none }

/-- SERVO (R221, R229, R233, R236, R244): an axis group's latch. Pending commands take effect, inputs are captured, QERR and
staleness fault the group, and the policy input crosses to the C0 region, where the policy's product begins, where the group has a policy. -/
def execServo (t d e : Nat) (inp : ServoIn) (s : State) : Out :=
  let s := s.advance t
  .next (match s.fires d e 9 with
    | none => s
    | some en =>
      let s := s.markFired d e
      let g := en.target
      let x := s.group g
      if s.entryDrained d en || !x.valid then s else
        let acked := x.fault && x.ack
        let s := s.setGroup g { x with fault := x.fault && !acked, ack := false, invalid := x.invalid && !acked }
        let s := List.foldl (fun s n => s.setLoop n ((s.loop n).atLatch acked)) s x.slots
        let s := s.latchPos x
        let s := List.foldl State.measureLoop s x.slots
        let qe := x.slots.any fun n => (s.loop n).io.getLsbD 4 && s.qerr (bitsOf (s.loop n).io.toNat 0 4)
        let st := x.slots.any fun n =>
          let l := s.loop n
          (l.state == .open_ || l.state == .closing || l.state == .closed) && decide (0 < l.staleRun ∧ l.staleRun ≥ l.staleLimit)
        let s := s.faultLowest g ((if st then [2] else []) ++ (if qe then [4] else []))
        let at_ := cycleStart s.time.cnt
        let y := s.group g
        match (if y.policy then s.c0Phys else none) with
        | none => s.setGroup g { y with latchT := some at_, lawT := none, result := .idle, ran := false }
        | some k =>
          let lost := inp.mvuParity || maskBit s.glob.linkDown (k / 16)
          let s := s.setGroup g { y with latchT := some at_, lawT := none, ran := false, result := (if lost then .missing else .waiting) }
          if inp.mvuParity then s.mvuParityFault k none else if lost then s else s.startPolicy k g y)

/-- RESIDUAL_RETURN (R222, R223, R244): the policy's product is over and its residuals are back by cycle 128, or the result is missing. -/
def execResidualReturn (t g : Nat) (res : Residuals) (s : State) : Out :=
  let s := s.advance t
  let x := s.group g
  .next (match x.latchT with
    | none => s
    | some at_ =>
      if !s.powered || x.result ≠ .waiting then s else
        match s.policyRun g with
        | none => s
        | some (k, cols) => match res with
          | .arrived =>
            let v := cols.map fun c => f32ToBf16 c.value
            let s := s.endPolicy k cols
            if s.time.cnt > at_ + 257 ∨ v.any (fun b => !(bf16.decode b.toNat).isFin) then s.missPolicy g
            else s.setGroup g { s.group g with result := .values v, lawT := some (at_ + 2 * max ((s.time.cnt - at_) / 2 + 1) 72) }
          | .parityFault => (((s.endPolicy k cols).mvuParityFault k none)).missPolicy g
          | .laneFault => s.missPolicy g)

/-- POLICY_MISSING (R223): cycle 128 has passed without the last residual. -/
def execPolicyMissing (t g : Nat) (s : State) : Out :=
  let s := s.advance t
  let x := s.group g
  .next (match x.latchT with
    | none => s
    | some at_ => if s.powered && x.result == .waiting && decide (s.time.cnt ≥ at_ + 258) then s.missPolicy g else s)

/-! ## The output phase (R224, R229, R234, R239) -/

/-- The outputs of a fault input's pairs (R241, R248). -/
def fltOuts (cfg : Word) : List Nat := (List.range 48).filter fun o => cfg.getLsbD (o / 2)

/-- Whether an asserted fault input holds an output safe (R241). -/
def State.forced (s : State) (o : Nat) : Bool :=
  (List.range 16).any fun f => maskBit s.mio.fltState f && (tblGet 0 s.mio.flts f).getLsbD (o / 2)

/-- CMP for a loop output: 16 u, rounded, saturated to 0 to PERIOD (R239). -/
def pwmCmp (fp : Bool) (u : Word) (period : BitVec 20) : BitVec 20 :=
  let v : Int := if fp then (match f32Val u with
    | .inf neg => if neg then 0 else 2 ^ 20
    | x => (x.toInt 4).getD 0) else u.toInt * 16
  BitVec.ofNat 20 (min v.toNat period.toNat)

/-- One output driven, with the odd complement above an even one (R240): a SAFE level wins while a fault input holds it (R244). -/
def State.drive (s : State) (o : Nat) (cmp : Option (BitVec 20)) : State :=
  let one := fun (s : State) (o : Nat) (cmp : Option (BitVec 20)) (own : Bool) =>
    let x := s.pwm o
    match cmp with
    | none => s.setPwm o { x with drive := .safe }
    | some c => s.setPwm o { x with drive := (if s.forced o then .safe else .run), cmp := (if own then c else x.cmp), restartT := s.time.cnt,
                                    prevT := x.restartT, prevCmp := (if x.drive = .run then x.cmp else 0) }
  let s := one s o cmp true
  if o % 2 = 0 ∧ (s.pwm (o + 1)).cfg.getLsbD 2 then one s (o + 1) cmp false else s

/-- The output of one slot applied or held at its output phase (R229, R239). -/
def State.applySlot (s : State) (n : Nat) : State :=
  let l := s.loop n
  if l.state = .off then s else
    let fault := l.state = .fault
    let v := match l.state, l.next with
      | .closed, some u => u
      | .closed, none => l.out
      | .fault, _ => l.out
      | _, _ => l.openVal
    let held := l.state == .closed && l.next.isNone
    let s := s.setLoop n { l with out := v, held := (if l.state = .closed then held else l.held),
                                  holdRun := (if held then min (l.holdRun + 1) 255 else l.holdRun) }
    let s := if held then s.cteUpd fun c => { c with holdCnt := satInc c.holdCnt } else s
    if l.outKind = 1 ∧ !l.chanB then
      s.drive l.outIdx (if fault then none else some (pwmCmp l.fp v (s.pwm l.outIdx).period))
    else s

/-- OUTPUT_PHASE (R239): cycle 200. Every output of the group is applied or held, held periods are counted, and a loop that
reaches HOLD_LIMIT faults the group (R224). -/
def execOutputPhase (t g : Nat) (s : State) : Out :=
  let s := s.advance t
  let x := s.group g
  .next (match x.latchT with
    | none => s
    | some at_ =>
      if !s.powered || !x.valid || decide (s.time.cnt < at_ + 400) then s else
        let s := s.setGroup g { x with latchT := none, safeOut := x.fault }
        let s := List.foldl State.applySlot s x.slots
        let held := x.slots.any fun n => (s.loop n).state == .closed && (s.loop n).held
        let fields := (x.slots.filter fun n => (s.loop n).outKind ≥ 2 && !(s.loop n).chanB).map fun n =>
          ((s.loop n).outKind, (s.loop n).outIdx, (s.loop n).out)
        let s := s.servoFrames g fields held
        let limit := x.slots.any fun n => (s.loop n).state == .closed && (s.loop n).held && decide ((s.loop n).holdRun ≥ (s.loop n).holdLimit)
        if limit then s.faultGroup g 3 else s)

/-! ## Coefficients and commands (R231, R243) -/

/-- Whether a coefficient index holds a number in the loop's format: all but SUPV. -/
def coefNumeric (index : Nat) : Bool := index ≠ 12

/-- A coefficient word as the register stores it: reserved bits of an INT coefficient read 0 (R16, R246). -/
def Loop.coefWord (l : Loop) (index : Nat) (v : Word) : Word := if !l.fp && index < 8 then v &&& 0xFFFFF else v

/-- Whether a coefficient may not take a value: FP32 and not finite (R231). -/
def Loop.coefBad (l : Loop) (index : Nat) (v : Word) : Bool := l.fp && coefNumeric index && !f32Fin v

/-- A coefficient stored. -/
def Loop.putCoef (l : Loop) (index : Nat) (v : Word) : Loop :=
  let c := (List.range 12).map fun i => l.coefs.getD i 0
  { l with coefs := c.set (index - 2) (l.coefWord index v) }

/-- A slot and, under a DUAL group's channel A, its channel B (R235). -/
def State.pairOf (s : State) (n : Nat) : List Nat :=
  match s.groupOf n with
  | some g => if (s.group g).dual ∧ !(s.loop n).chanB then [n, n + 1] else [n]
  | none => [n]

/-- A refused coefficient write put on record (R231). -/
def State.coefRefuse (s : State) (n : Nat) : State := s.cteUpd fun c => { c with coefRefused := true, refusedLoop := BitVec.ofNat 6 n }

/-- CTE_COEF_REG_WRITE (R231, R244): stored while the slot is OPEN, otherwise discarded and recorded. -/
def execCteCoefRegWrite (n index : Nat) (v : Word) (s : State) : Out :=
  let l := s.loop n
  .next (if !s.powered || decide (n ≥ 64 ∨ index < 2 ∨ index > 13) then s
    else if l.state ≠ .open_ ∨ l.chanB ∨ l.coefBad index v then s.coefRefuse n
    else List.foldl (fun s k =>
      let x := s.loop k
      let cyc := s.time.cnt / 2
      s.setLoop k { x.putCoef index v with writes := (x.writes.filter fun w => w.1 == cyc) ++ [(cyc, index, x.coef index)] }) s (s.pairOf n))

/-- The checks that the slot commands share (R243). -/
def chkSlot (s : State) (c n : Nat) : Option Status :=
  let l := s.loop n
  if n ≥ 64 ∨ l.state = .off ∨ l.chanB then some stBadParam
  else match s.groupOf n with
    | none => some stBadParam
    | some g => if (s.group g).part ≠ (s.ctx c).part then some stNotAuth else none

/-- The checks of CTE_OPEN (R243, R374). -/
def chkCteOpen (s : State) (c : Nat) (p : Packet) : Option Status :=
  (chkSlot s c (u8 p 16)).orElse fun _ =>
    if (s.loop (u8 p 16)).state = .fault || s.partSafe (s.ctx c).part then some stSafe else none

/-- CTE_OPEN, 0x0701 (R229, R243). -/
def execCteOpen (c : Nat) (p : Packet) (s : State) : Out :=
  .next (s.command c p 0x0701 (s.ctx c).cls (chkCteOpen s c p) fun s r =>
    let s := List.foldl (fun s n =>
      let l := s.loop n
      match l.state with
      | .closing => s.setLoop n { l with state := .open_ }
      | .closed => s.setLoop n { l with opening := true }
      | _ => s) s (s.pairOf (u8 p 16))
    s.replyNow r)

/-- The checks of CTE_CLOSE (R243, R374). -/
def chkCteClose (s : State) (c : Nat) (p : Packet) : Option Status :=
  let l := s.loop (u8 p 16)
  (chkSlot s c (u8 p 16)).orElse fun _ =>
    if l.stages = [] then some stBadParam
    else if l.state = .fault || s.partSafe (s.ctx c).part then some stSafe else none

/-- An OPEN slot starts CLOSING: a coefficient register write of the same hub cycle is refused (R244). -/
def State.closeSlot (s : State) (n : Nat) : State :=
  let l := s.loop n
  if l.state ≠ .open_ then s else
    let same := l.writes.filter fun w => w.1 == s.time.cnt / 2
    let l' := same.reverse.foldl (fun (x : Loop) w => x.putCoef w.2.1 w.2.2) l
    let s := s.setLoop n { l' with state := .closing, writes := [], closeSat := false }
    if same ≠ [] ∧ !l.chanB then s.coefRefuse n else s

/-- CTE_CLOSE, 0x0702 (R229, R243). -/
def execCteClose (c : Nat) (p : Packet) (s : State) : Out :=
  .next (s.command c p 0x0702 (s.ctx c).cls (chkCteClose s c p) fun s r =>
    (List.foldl State.closeSlot s (s.pairOf (u8 p 16))).replyNow r)

/-- The checks of CTE_COEF (R243, R453). -/
def chkCteCoef (s : State) (c : Nat) (p : Packet) (h : HostRead) : Option Status :=
  let l := s.loop (u8 p 16)
  (chkSlot s c (u8 p 16)).orElse fun _ =>
    if l.state ≠ .open_ ∨ u8 p 17 < 2 ∨ u8 p 18 = 0 ∨ u8 p 17 + u8 p 18 > 14 then some stBadParam
    else match h with
      | .failed => some stEcc
      | .data b =>
        if (List.range (u8 p 18)).any fun i => l.coefBad (u8 p 17 + i) ((leWords b (u8 p 18)).getD i 0) then some stBadParam else none

/-- CTE_COEF, 0x0703 (R243). -/
def execCteCoef (c : Nat) (p : Packet) (h : HostRead) (s : State) : Out :=
  .next (s.command c p 0x0703 (s.ctx c).cls (chkCteCoef s c p h) fun s r =>
    let vals := match h with
      | .data b => leWords b (u8 p 18)
      | .failed => []
    let s := List.foldl (fun s n =>
      s.setLoop n ((List.range (u8 p 18)).foldl (fun (l : Loop) i => l.putCoef (u8 p 17 + i) (vals.getD i 0)) (s.loop n))) s (s.pairOf (u8 p 16))
    s.replyNow r)

/-- The number of a loop state (R229). -/
def LoopState.code : LoopState → Nat
  | .off => 0
  | .open_ => 1
  | .closing => 2
  | .closed => 3
  | .fault => 4

/-- CTE_Ln_STATE (R246). -/
def Loop.stateWord (l : Loop) : Word :=
  w32 (min l.feRun 65535 * 2 ^ 16 + min l.holdRun 255 * 2 ^ 8 + bitAt l.closeSat 7 + bitAt l.ffMiss 6 + bitAt l.held 5 + bitAt l.stale 4 +
    l.state.code)

/-- CTE_GRPg (R246). -/
def Group.word (x : Group) : Word :=
  w32 (bitAt x.valid 31 + x.cause % 8 * 2 ^ 24 + bitAt x.fault 20 + bitAt x.dual 17 + bitAt x.policy 16 + x.first % 64 * 2 ^ 8 + x.count % 16)

/-- CTE_QUERY, 0x0704. -/
def execCteQuery (c : Nat) (p : Packet) (s : State) : Out :=
  .next (s.command c p 0x0704 (s.ctx c).cls (chkSlot s c (u8 p 16)) fun s r =>
    s.replyNow r [(s.loop (u8 p 16)).stateWord, (s.group ((s.groupOf (u8 p 16)).getD 0)).word])

/-- Whether the cause of a group's fault persists (R243, R249): an asserted fault input that drives one of its outputs, an
encoder port of it with QERR recorded, or a safe state of its partition. -/
def State.causePersists (s : State) (x : Group) : Bool :=
  s.partSafe x.part || x.slots.any fun n =>
    let l := s.loop n
    (l.outKind == 1 && s.forced l.outIdx) || (l.io.getLsbD 4 && s.qerr (bitsOf l.io.toNat 0 4))

/-- The checks of CTE_ACK (R243). -/
def chkCteAck (s : State) (c : Nat) (p : Packet) : Option Status :=
  let x := s.group (u8 p 16)
  if u8 p 16 ≥ 16 || !x.valid then some stBadParam
  else if x.part ≠ (s.ctx c).part then some stNotAuth
  else if !x.fault then some stBadParam
  else if s.causePersists x then some stSafe
  else none

/-- CTE_ACK, 0x0705 (R229, R243): the group returns to OPEN at its next latch. -/
def execCteAck (c : Nat) (p : Packet) (s : State) : Out :=
  .next (s.command c p 0x0705 (s.ctx c).cls (chkCteAck s c p) fun s r =>
    (s.setGroup (u8 p 16) { s.group (u8 p 16) with ack := true }).replyNow r)

/-! ## Motion I/O -/

/-- Phase moved by a count in every ANGLE domain of a port that follows it (R255). -/
def State.anglePhase (s : State) (e : Nat) (by_ : Int) : State :=
  List.foldl (fun s d =>
    let x := s.dom d
    if x.state = .run ∨ x.state = .acquire then s.setDom d { x with phi := x.phi + BitVec.ofInt 32 by_ } else s) s (s.domsOf 1 e)

/-- The count of a quadrature transition: A leads B in the direction of +1; none where both lines change (R236). -/
def quadStep (a b a' b' : Bool) : Option Int :=
  if a = a' ∧ b = b' then some 0
  else if a ≠ a' ∧ b ≠ b' then none
  else if a ≠ a' then some (if a' = b then -1 else 1)
  else some (if b' = a then 1 else -1)

/-- ENCODER_EDGE (R236, R255): the accepted levels of A and B move the counter and the phase, or record QERR where both have
changed. -/
def execEncoderEdge (t e : Nat) (a b : Bool) (s : State) : Out :=
  let s := s.advance t
  let x := s.enc e
  .next (if !s.powered || x.kind ≠ 1 then s else match quadStep x.a x.b a b with
    | none =>
      let s := s.setEnc e { x with a := a, b := b }
      { s with mio := { s.mio with encErr := maskSet s.mio.encErr e } }
    | some k => (s.setEnc e { x with a := a, b := b, value := x.value + BitVec.ofInt 32 k }).anglePhase e k)

/-- Whether a phase lies more than ZTOL counts from a period boundary (R255). -/
def Domain.offIndex (x : Domain) : Bool :=
  let off := (x.phi - x.phiK).toNat % x.active.period
  decide (min off (x.active.period - off) > x.ztol)

/-- ENCODER_INDEX_EDGE (R236, R255, R263): the counter is copied, and a ZSYNC domain of the port takes its origin, judges its
index, or restarts after a loss. While QERR stands the domains take no index (R283). -/
def execEncoderIndexEdge (t e : Nat) (s : State) : Out :=
  let s := s.advance t
  let x := s.enc e
  .next (if !s.powered || x.kind ≠ 1 then s else
    let s := s.setEnc e { x with idx := x.value }
    if s.qerr e then s else
      List.foldl (fun s d =>
        let y := s.dom d
        if !y.zsync then s else match y.state with
          | .acquire => s.setDom d { y with state := .run, phiK := y.phi, pcount := 0, fired := [] }
          | .run => if y.offIndex then s.timeEvent 3 d else s
          | .holdover =>
            let origin := y.phiK + w32 y.active.period
            let s := s.setDom d { y with state := .run, phi := origin, baseTick := s.time.cnt, winPhi := origin, winTick := s.time.cnt }
            (s.timeEvent 2 d).restart d origin
          | .idle => s) s (s.domsOf 1 e))

/-- QERR of a port has been cleared (R263): a domain without ZSYNC follows the counter again from its holdover value; with ZSYNC
it waits for the next Z edge. -/
def State.qerrCleared (s : State) (e : Nat) : State :=
  List.foldl (fun s d =>
    let x := s.dom d
    if x.state ≠ .holdover then s
    else if x.zsync then s
    else
      let ph := x.phase s.time.cnt
      s.setDom d { x with state := .run, phi := ph, baseTick := s.time.cnt, winPhi := ph, winTick := s.time.cnt, unref := true }) s (s.domsOf 1 e)

/-- SSI_FRAME_START (R237). -/
def execSsiFrameStart (t e : Nat) (s : State) : Out :=
  let s := s.advance t
  .next (if s.powered && (s.enc e).kind == 2 then s.setEnc e { s.enc e with running := true } else s)

/-- The number that bits spell, most significant first. -/
def bitsNat (bs : List Bool) : Nat := bs.foldl (fun n b => 2 * n + (if b then 1 else 0)) 0

/-- Gray code decoded, most significant bit first. -/
def grayBits : Bool → List Bool → List Bool
  | _, [] => []
  | acc, b :: bs => (acc ^^ b) :: grayBits (acc ^^ b) bs

/-- A frame that has not delivered a valid value (R237, R262). -/
def State.ssiFail (s : State) (e : Nat) (parity : Bool) : State :=
  let x := s.enc e
  let s := s.setEnc e { x with running := false, fails := x.fails + 1 }
  if parity then { s with mio := { s.mio with encErr := maskSet s.mio.encErr (16 + e) } } else s

/-- SSI_FRAME_COMPLETE (R237, R255, R263): the frame is decoded and moves the phase of its domains, or it fails by parity or by
absence. -/
def execSsiFrameComplete (t e : Nat) (bits : Option (List Bool)) (s : State) : Out :=
  let s := s.advance t
  let x := s.enc e
  .next (if !s.powered || x.kind ≠ 2 || !x.running then s else match bits with
    | none => s.ssiFail e false
    | some bs =>
      let data := bs.take x.bits
      let ones := countIf id (bs.take (x.bits + 1))
      if x.cfg.getLsbD 3 ∧ ones % 2 = 1 then s.ssiFail e true
      else
        let v := w32 (bitsNat (if x.cfg.getLsbD 2 then grayBits false data else data))
        let diff := if x.frames = 0 then (0 : Word) else posDiff x.bits v x.value
        let s := s.setEnc e { x with running := false, value := v, frames := x.frames + 1, fails := 0 }
        List.foldl (fun s d =>
          let y := s.dom d
          match y.state with
          | .run => s.setDom d { y with phi := y.phi + diff }
          | .holdover => (s.setDom d { y with state := .run, phi := y.phi + diff, baseTick := s.time.cnt, winPhi := y.phi + diff, winTick := s.time.cnt }).stepTo d true
          | _ => s) s (s.domsOf 1 e))

/-- SAMPLE_FRAME_START (R238). -/
def execSampleFrameStart (t p : Nat) (s : State) : Out :=
  let s := s.advance t
  .next (if s.powered && bitsOf (s.spi p).cfg.toNat 8 7 != 0 then s.setSpi p { s.spi p with running := true } else s)

/-- Bits in 16-bit words, most significant bit first. -/
def bitWords (n : Nat) (bs : List Bool) : List (BitVec 16) := (List.range n).map fun i => BitVec.ofNat 16 (bitsNat ((bs.drop (16 * i)).take 16))

/-- A sample of a MAINS domain (R257): a value at or above 0 after one below -128 is a rising crossing, whose instant lies between
the two samples in proportion, to one tick. -/
def State.mainsSample (s : State) (d : Nat) (v : Int) : State :=
  let x := s.dom d
  let n := s.time.cnt
  let s := s.setDom d { x with mainsLast := v, mainsTick := n }
  if x.mainsLast < -128 ∧ v ≥ 0 then
    let span : Int := (n - x.mainsTick : Nat)
    s.sourceEvent d (x.mainsTick + (span * (-x.mainsLast) / (v - x.mainsLast)).toNat)
  else s

/-- SAMPLE_FRAME_COMPLETE (R238, R257): the bits clocked in are held as signed words, and MAINS domains take theirs. -/
def execSampleFrameComplete (t p : Nat) (lines : List (List Bool)) (s : State) : Out :=
  let s := s.advance t
  let x := s.spi p
  .next (if !s.powered || !x.running then s else
    let words := bitWords (bitsOf x.cfg.toNat 8 7 / 16) (lines.flatMap id)
    let s := s.setSpi p { x with running := false, words := words, frames := x.frames + 1 }
    List.foldl (fun s d => s.mainsSample d (words.getD (s.dom d).word 0).toInt) s (s.domsOf 3 p))

/-- FAULT_INPUT_ASSERT (R241): the pairs of the input are driven safe and the groups that own them fault. -/
def execFaultInputAssert (t f : Nat) (s : State) : Out :=
  let s := s.advance t
  let cfg := tblGet 0 s.mio.flts f
  .next (if !s.powered || cfg.toNat % 2 ^ 24 = 0 || decide (f ≥ 16) then s else
    let s := { s with mio := { s.mio with fltState := maskSet s.mio.fltState f, fltSeen := maskSet s.mio.fltSeen f } }
    let outs := fltOuts cfg
    let s := List.foldl (fun s o => s.setPwm o { s.pwm o with drive := .safe }) s outs
    List.foldl (fun s g =>
      let x := s.group g
      if x.valid && x.slots.any (fun n => (s.loop n).outKind == 1 && outs.contains (s.loop n).outIdx) then s.faultGroup g 5 else s) s (List.range 16))

/-- FAULT_INPUT_RELEASE (R241). -/
def execFaultInputRelease (t f : Nat) (s : State) : Out :=
  let s := s.advance t
  .next (if s.powered then { s with mio := { s.mio with fltState := maskClear s.mio.fltState f } } else s)

/-! ## Registers -/

/-- CTE_STATUS (R246). -/
def State.cteStatus (s : State) : Word :=
  w32 (((List.range 16).foldl (fun a g => a + bitAt (s.group g).fault g) 0) * 2 ^ 16 + bitAt s.cte.coefRefused 8 + s.cte.refusedLoop.toNat)

/-- CTE_CLEAR_DUAL. -/
def execCteClearDual (s : State) : Out :=
  .next (s.hostWrite fun w x => { x with cte := { x.cte with dualCnt := sinceMark w.cte.dualCnt x.cte.dualCnt } })
/-- CTE_CLEAR_FE. -/
def execCteClearFe (s : State) : Out :=
  .next (s.hostWrite fun w x => { x with cte := { x.cte with feCnt := sinceMark w.cte.feCnt x.cte.feCnt } })
/-- CTE_CLEAR_CLAMP. -/
def execCteClearClamp (s : State) : Out :=
  .next (s.hostWrite fun w x => { x with cte := { x.cte with clampCnt := sinceMark w.cte.clampCnt x.cte.clampCnt } })
/-- CTE_CLEAR_STALE. -/
def execCteClearStale (s : State) : Out :=
  .next (s.hostWrite fun w x => { x with cte := { x.cte with staleCnt := sinceMark w.cte.staleCnt x.cte.staleCnt } })
/-- CTE_CLEAR_HOLD. -/
def execCteClearHold (s : State) : Out :=
  .next (s.hostWrite fun w x => { x with cte := { x.cte with holdCnt := sinceMark w.cte.holdCnt x.cte.holdCnt } })

end Sys2Proof.Machine
end

