-- ==== Sys2Proof/Machine/Loader.lean ====
section
/-! DEFINITION. What the Viruk loader checks before it starts an image: one function for each group of rules that refuse an image, each
giving the first status that applies (R3, R28, R30, R33, R45 to R49, R60, R68, R85 to R91, R104 to R121, R127, R140, R150, R165,
R190 to R195, R203, R218 to R220, R228, R236 to R242, R253 to R277, R310, R317, R327 to R348, R366, R370 to R379, R386,
R432, R461, R465). The order between the groups is the model's (log entry 30). -/
namespace Sys2Proof.Machine

/-- The first status of a list of checks that fails. -/
def firstFail : List (Bool × Status) → Option Status
  | [] => none
  | (bad, st) :: rest => if bad then some st else firstFail rest

/-- The first status of a list of groups of checks. -/
def firstSome : List (Option Status) → Option Status
  | [] => none
  | some st :: _ => some st
  | none :: rest => firstSome rest

/-- Whether a list names something twice. -/
def dup (l : List Nat) : Bool := !decide l.Nodup

/-- Whether some two elements of a list, the first before the second, meet a test. -/
def anyPair {α : Type} (f : α → α → Bool) : List α → Bool
  | [] => false
  | a :: rest => rest.any (f a) || anyPair f rest

/-- The sum of a list. -/
def total (l : List Nat) : Nat := l.foldl (· + ·) 0

/-- Whether two ranges share an element. -/
def overlap (a n b m : Nat) : Bool := decide (a < b + m ∧ b < a + n)

/-! ## The part and the system (R3, R33, R366, R432, R461) -/

/-- The number of packages of the system: the entries of SYSTEM, or one (R33, R404). -/
def State.systemPackages (s : State) : Nat := max 1 s.sec.mram.system.length

/-- Whether a declared Rolink port is up and keyed with the declared peer. -/
def State.peerOk (s : State) (q : Nat × Nat) : Bool :=
  maskBit s.lnk.rolUp q.1 && !maskBit s.lnk.rolFault q.1 && tblGet 0 s.lnk.rolPeer q.1 == q.2

/-- The checks against the part, its system, its mode and its power cap. -/
def State.chkPart (s : State) (i : Image) : Option Status :=
  firstFail [
    (decide (i.packages ≠ s.systemPackages), stNoFit),
    (decide (i.packages > 1) && !i.peers.all s.peerOk, stNoFit),
    (decide (i.regions > 32 ∨ i.regions > s.offered.length ∨ (i.regions > 28 ∧ s.offered.length ≠ 32)), stNoFit),
    (i.env.detRequired && !s.glob.det, stConflict),
    (decide (i.pFloor > s.pwr.capNext.getD s.pwr.cap), stNoFit),
    (i.parts.any fun p => decide (p.lpLen ≠ 0 ∧ p.lpBase + p.lpLen > s.lnk.lpCapacity * 2 ^ 30), stNoFit),
    (anyPair (fun a b : PartCfg => overlap a.lpBase a.lpLen b.lpBase b.lpLen) i.parts, stConflict)]

/-! ## Partitions, the C0 region and quotas (R28, R30, R127, R165, R310) -/

/-- The partition of an image that owns a logical region. -/
def imgOwner (i : Image) (l : Nat) : Option Nat := (i.parts.find? fun p => p.regions.contains l).map PartCfg.id

/-- The checks of R28 and R30. -/
def chkParts (i : Image) : Option Status :=
  let regions := i.parts.flatMap PartCfg.regions
  let contexts := i.parts.flatMap PartCfg.contexts
  let c0Owner := i.c0Region.bind (imgOwner i)
  firstFail [
    (regions.any fun l => decide (l ≥ i.regions), stBadParam),
    (i.hasC0 != i.c0Region.isSome, stBadParam),
    (i.c0Region.any fun l => decide (l ≥ i.regions), stBadParam),
    (i.parts.any fun p => decide (p.id ≥ 8), stConflict),
    (dup (i.parts.map PartCfg.id), stConflict),
    (dup regions || !(List.range i.regions).all regions.contains, stConflict),
    (dup contexts || contexts.any fun c => decide (c ≥ 64), stConflict),
    (i.groups.any fun g => g.policy && decide (c0Owner ≠ some g.part), stConflict)]

/-- The queues and quotas of the partitions (R127, R165, R310). -/
def chkQuotas (i : Image) : Option Status :=
  let queue := fun n : Nat => decide (n < 16 ∨ n > 1024)
  firstFail [
    (i.parts.any fun p => queue p.qmax2 || queue p.qmax3 || decide (p.busyAgeNs < 100000 ∨ p.busyAgeNs > 100000000), stBadParam),
    (decide (total (i.parts.map PartCfg.seqQuota) > 4096), stNoFit),
    (decide (total (i.parts.map PartCfg.strmQuota) > 65536), stNoFit)]

/-! ## Layers (R45 to R49, R60, R66, R68) -/

/-- Whether an image places every byte of a range of SPAs. -/
def imgHolds (i : Image) (a n : Nat) : Bool := (List.range n).all fun k => i.data.any fun d => decide (d.1 ≤ a + k ∧ a + k < d.1 + d.2.length)

/-- The byte that an image places at an SPA: the last of its pieces there. -/
def imgByte (i : Image) (a : Nat) : Byte :=
  ((i.data.filter fun d => decide (d.1 ≤ a ∧ a < d.1 + d.2.length)).getLast?.map fun d => d.2.getD (a - d.1) 0).getD 0

/-- A compiled pass of an image with its class and partition; a template's is of class 2. -/
structure ImgPass where
  cls  : Nat
  part : Nat
  cfg  : PassCfg
  deriving DecidableEq, Repr

/-- The compiled passes of an image's tasks. -/
def taskPasses (i : Image) : List ImgPass := i.tasks.filterMap fun t => match t.kind with
  | .pass cfg => some ⟨t.cls, t.part, cfg⟩
  | _ => none

/-- Those of its serving templates. -/
def tplPasses (i : Image) : List ImgPass := i.models.flatMap fun m => (m.templates.flatMap Template.passes).map fun cfg => ⟨2, m.part, cfg⟩

/-- All of them. -/
def allPasses (i : Image) : List ImgPass := taskPasses i ++ tplPasses i

/-- A layer as the image places it for a share; what it does not place is not the loader's to judge, and stands empty (log entry 209). -/
def imgLayer (i : Image) (sh : Share) : LayerDesc :=
  let d := layerAt (fun o => imgByte i (sh.base + o)) sh.desc sh.first sh.count
  let has := fun o n : Nat => imgHolds i (sh.base + o) n
  { d with
    anchors := if has (d.anchorTable + 4 * (sh.first / 128)) (4 * ((sh.count + 127) / 128)) then d.anchors else [],
    codebook := if has d.codebookAt (2 * bookLen d.mode) then d.codebook else [],
    scaleRows := if has d.scalesAt (sh.count * d.blocks * scaleSize d) then d.scaleRows else [] }

/-- Whether the image places the descriptor of a share. -/
def imgDescribed (i : Image) (cfg : PassCfg) (sh : Share) : Bool := isProduct cfg && imgHolds i (sh.base + sh.desc) 64

/-- The checks of R47 to R49, R60 and R68 on a layer of a class. -/
def layerRefused (cls : Nat) (d : LayerDesc) : Bool :=
  layerBad d || codebookBad d || scalesBad d || decide (d.colGroups = 0 ∨ d.colGroups > 4096) ||
    (decide (d.mode ≤ 1) && d.anchors.any fun a => !decide (-256 ≤ a.1 ∧ a.1 ≤ 255)) || (d.fallback && decide (cls = 0))

/-- The class 0 policy's layer as the code buffer will hold it (R91, R112). -/
def policyLayer (p : PolicyCfg) : LayerDesc := layerAt (fun o => p.data.getD o 0) p.desc 0 p.weights.length

/-- The results of a compiled pass for one position. -/
def passCount (cfg : PassCfg) : Nat := cfg.shares.foldl (fun n sh => max n (sh.first + sh.count)) 0

/-- Whether the BF16 copy of a marked layer does not fit the LPDDR of its partition (R65, R66). -/
def copyLost (i : Image) (x : ImgPass) : Bool := x.cfg.shares.any fun sh =>
  let d := imgLayer i sh
  imgDescribed i x.cfg sh && d.fallback &&
    decide (d.wideCopy + 2 * d.reduction * passCount x.cfg > ((i.parts.find? fun p => p.id == x.part).map PartCfg.lpLen).getD 0)

/-- The checks on every layer. -/
def chkLayers (i : Image) : Option Status :=
  let ps := allPasses i
  firstFail [
    (ps.any fun x => x.cfg.narrow, stBadParam),
    (ps.any fun x => x.cfg.shares.any fun sh =>
      imgDescribed i x.cfg sh && (decide (sh.desc % 64 ≠ 0) || layerRefused x.cls (imgLayer i sh)), stBadParam),
    (i.hasC0 && layerRefused 0 (policyLayer i.policy), stBadParam),
    (ps.any (copyLost i), stNoFit)]

/-! ## Passes, the MVU and the C0 policy (R74, R78, R85, R89 to R91) -/

/-- Whether the shares of a compiled pass do not make one pass: a region twice, a cluster twice or none, a REGION pass without all four, or
different numbers of vectors (log entry 209). -/
def sharesBad (cfg : PassCfg) : Bool :=
  dup (cfg.shares.map Share.lreg) || decide (cfg.shares = []) ||
    cfg.shares.any fun sh => dup sh.clusters || decide (sh.clusters = []) || sh.clusters.any (fun c => decide (c > 3)) ||
      (decide (cfg.shape = 3) && decide (sh.clusters.length ≠ 4)) || decide (sh.acts.length ≠ ((cfg.shares.head?.map fun x => x.acts.length).getD 0))

/-- Whether a compiled pass is refused with BAD_PARAM for its shape, interval, port mode or direction, or as an MVU product (R74, R78, R85, R89,
R90, R108). -/
def passBad (i : Image) (cfg : PassCfg) : Bool :=
  decide (cfg.shape > 3 ∨ cfg.interval = 0 ∨ cfg.interval > 4 ∨ cfg.portMode > 4) || sharesBad cfg ||
    (cfg.onMvu && (cfg.backward || cfg.shares.any fun sh => decide (sh.acts.length > 8))) ||
    (cfg.backward && decide (cfg.shape ≠ 3)) ||
    cfg.shares.any fun sh => imgDescribed i cfg sh &&
      ((cfg.backward && decide ((imgLayer i sh).mode = 0 ∨ (imgLayer i sh).mode = 7 ∨ (imgLayer i sh).scalesAt ≠ 0)) ||
        (!cfg.onMvu && decide (cfg.interval < minInterval (imgLayer i sh) cfg.shape)))

/-- Whether a compiled pass runs on the MVU of the C0 region. -/
def claimsC0Mvu (i : Image) (cfg : PassCfg) : Bool := cfg.onMvu && cfg.shares.any fun sh => decide (i.c0Region = some sh.lreg)

/-- The checks of the passes and of the class 0 policy. -/
def chkPasses (i : Image) : Option Status :=
  let d := policyLayer i.policy
  firstFail [
    ((allPasses i).any fun x => passBad i x.cfg, stBadParam),
    (i.hasC0 && decide (d.mode > 1 ∨ i.policyIn.length > 128 ∨ i.policy.weights.length > 128), stBadParam),
    (i.hasC0 && decide (d.reduction * i.policy.weights.length > 34 * mvuRate d.mode), stNoFit),
    (i.hasC0 && (allPasses i).any fun x => claimsC0Mvu i x.cfg, stConflict)]

/-! ## Windows (R104, R105) -/

/-- A window that a task of a partition works in, in its home slice. -/
structure ImgWin where
  lreg  : Nat
  base  : Nat
  bound : Nat
  part  : Nat
  deriving DecidableEq, Repr

/-- The windows of the shares of a compiled pass. -/
def passWins (x : ImgPass) : List ImgWin := x.cfg.shares.map fun sh => ⟨sh.lreg, sh.base, sh.bound, x.part⟩

/-- The windows of a task. -/
def taskWins (t : TaskCfg) : List ImgWin := match t.kind with
  | .pass cfg => passWins ⟨t.cls, t.part, cfg⟩
  | .xfer _ | .agen _ | .vpu | .scalar _ => [⟨t.lreg, t.winBase, t.winBound, t.part⟩]
  | _ => []

/-- The windows of an image. -/
def imgWins (i : Image) : List ImgWin := i.tasks.flatMap taskWins ++ (tplPasses i).flatMap passWins

/-- The slices that a window touches. -/
def windowSlices (w : ImgWin) : List Nat :=
  if w.bound = 0 then [w.base / sliceLen] else (List.range ((w.base + w.bound - 1) / sliceLen + 1 - w.base / sliceLen)).map (· + w.base / sliceLen)

/-- Whether an address that the image fixes for a share lies outside its window (R105). -/
def shareOut (i : Image) (cfg : PassCfg) (sh : Share) : Bool :=
  let d := imgLayer i sh
  let out := fun (r : Nat × Nat) => decide (r.1 + r.2 > sh.bound)
  imgDescribed i cfg sh && ((shareTableRanges sh d).any out || (shareWeightRanges sh d cfg.backward).any out ||
    sh.acts.any (fun o => out (o, 2 * d.reduction)) || sh.out.any fun o => out (o, 4 * sh.count * sh.acts.length))

/-! ## Descriptors of the transfer engine and the address generator (R114, R116 to R120) -/

/-- Whether the image places a task's descriptor at an offset of its window. -/
def descHeld (i : Image) (t : TaskCfg) (off : Nat) : Bool := imgHolds i (t.winBase + off) 64

/-- A task's address-generator descriptor. -/
def agenFixed (i : Image) (t : TaskCfg) (off : Nat) : AgenDesc := agenOf (fun o => imgByte i (t.winBase + o)) off

/-- The row of an EXPAND that DST_PITCH must hold (R118). -/
def expandPitch (a : AgenDesc) : Nat := (a.kh * a.kw * a.c * elemSize a.elem + 63) / 64 * 64

/-- Whether a task's descriptor is refused. -/
def descBad (i : Image) (t : TaskCfg) : Bool := match t.kind with
  | .xfer off => decide (off % 64 ≠ 0) || (descHeld i t off && xferBad i.packages (xferOf (fun o => imgByte i (t.winBase + o)) off))
  | .agen off =>
    let a := agenFixed i t off
    decide (off % 64 ≠ 0) || (descHeld i t off && (agenBad a || (decide (a.op = 2) && decide (a.dstPitch < expandPitch a ∨ a.dstPitch % 64 ≠ 0))))
  | _ => false

/-! ## Buffers (R118, R121, R142, R172) -/

/-- The staging slots of a partition in each of its regions, as buffers that live as long as the image (R142). -/
def stageBufs (i : Image) : List BufClaim := i.parts.flatMap fun p =>
  if p.stageSlots = 0 then [] else p.stageAt.map fun e =>
    { lreg := e.1, base := e.2, size := p.stageSlots * stagePart i.models p.id e.1, to_ := 2 ^ 64 }

/-- The stream pools and their weights (R172). -/
def poolBufs (i : Image) : List BufClaim := i.strmModels.flatMap fun m =>
  [{ lreg := m.lreg, base := m.poolBase, size := (m.poolSlots + 255) / 256 * (m.len * 1536), to_ := 2 ^ 64 },
   { lreg := m.lreg, base := m.wBase, size := weightBytes m, to_ := 2 ^ 64, readOnly := true }]

/-- The frame buffers of a stream, and whether one is too small for a frame (R331, R336). -/
def camBufs (c : CamCfg) : BufClaim := { lreg := c.bufAddr / sliceLen, base := c.bufAddr, size := c.nbuf * c.bufSize, to_ := 2 ^ 64 }
/-- Whether a frame buffer of a stream does not hold a frame. -/
def camSmall (c : CamCfg) : Bool := decide (c.bufSize < c.height * c.width * chansOf c.dt * 2)

/-- The slots' mark areas of a batch, in bytes (R333). -/
def markArea (i : Image) (o : Option Nat) : Nat := (o.bind fun k => i.cams.find? fun c => c.s == k).elim 0 fun c => (12 * markCount c + 63) / 64 * 64

/-- The bytes of a batch buffer before its mark areas (R333). -/
def batchHead (b : BatchCfg) : Nat := (64 + 32 * b.slots.length + 63) / 64 * 64

/-- A batch buffer whole, with its mark areas, and the slots' tensors of a decode batch (R333, R339). -/
def batchBufs (i : Image) (b : BatchCfg) : List BufClaim :=
  [{ lreg := b.addr / sliceLen, base := b.addr, size := batchHead b + total (b.slots.map (markArea i)), to_ := 2 ^ 64 },
   { lreg := b.tensor / sliceLen, base := b.tensor, size := b.slots.length * (b.height * b.width * b.chans * 2), to_ := 2 ^ 64 }]

/-- Whether a mark area does not lie where R333 puts the areas: behind the records, in slot order. -/
def marksBad (i : Image) (b : BatchCfg) : Bool := (List.range b.slots.length).any fun k =>
  let n := markArea i ((b.slots[k]?).getD none)
  decide (n ≠ 0) && decide (64 * b.marks.getD k 0 ≠ batchHead b + total ((b.slots.take k).map (markArea i)))

/-- Whether a buffer of a partition's inputs lies in another partition's slice (R331). -/
def inputStray (i : Image) : Bool :=
  let stray := fun (part l : Nat) => (imgOwner i l).isSome && imgOwner i l != some part
  i.cams.any (fun c => stray c.part (camBufs c).lreg) || i.batches.any fun b => (batchBufs i b).any fun x => decide (x.size ≠ 0) && stray b.part x.lreg

/-- Whether a buffer leaves the slice of its region. -/
def bufOut (room : Nat) (b : BufClaim) : Bool := decide (b.base < b.lreg * sliceLen ∨ b.base + b.size > b.lreg * sliceLen + room)

/-- Whether two buffers that live together share a byte (R121); a buffer is live from the first moment of its interval up to, and without, the last
(log entry 210). -/
def bufClash (a b : BufClaim) : Bool :=
  a.lreg == b.lreg && overlap a.base a.size b.base b.size && decide (a.from_ < b.to_ ∧ b.from_ < a.to_) && !(a.readOnly && b.readOnly)

/-- Whether a buffer leaves the window of a task that uses it. -/
def bufLost (i : Image) (b : BufClaim) : Bool := b.tasks.any fun n => match i.tasks.find? fun t => t.index == n with
  | none => true
  | some t => !(taskWins t).any fun w => w.lreg == b.lreg && decide (w.base ≤ b.base ∧ b.base + b.size ≤ w.base + w.bound)

/-- Whether the buffer that an EXPAND writes cannot hold S (R118): the declared buffer of its task that DST lies in, or without one its window. -/
def expandLost (i : Image) (t : TaskCfg) : Bool := match t.kind with
  | .agen off =>
    let a := agenFixed i t off
    let dst := t.winBase + a.dst
    let size := a.n * a.oyCnt * a.ow * a.dstPitch
    descHeld i t off && decide (a.op = 2) && (match i.bufs.find? fun b => b.tasks.contains t.index && decide (b.base ≤ dst ∧ dst < b.base + b.size) with
      | some b => decide (dst + size > b.base + b.size)
      | none => decide (a.dst + size > t.winBound))
  | _ => false

/-- Whether a partition's staging slots miss a region that runs a layer of one of its models (R142). -/
def stageLost (i : Image) (p : PartCfg) : Bool := decide (p.stageSlots ≠ 0) &&
  i.models.any fun m => m.part == p.id && m.layerRegs.any fun l => !p.stageAt.any fun e => e.1 == l

/-! ## The port pattern (R78, R80, R108, R109, R111) -/

/-- The bytes that a port mode gives a client in a frame of 16 cycles (R107, R108). -/
def modeSupply (mode : Nat) (c : SpClient) : Nat :=
  2048 * total ((List.range 4).map fun lane => countIf (fun ph => slotOwner mode lane ph == some c) (List.range 16))

/-- The bytes that the activation feed and the shadow feed of an array pass ask for in a frame of 16 cycles (R78). -/
def feedDemand (d : LayerDesc) (shape interval : Nat) : Nat × Nat :=
  let act := if shape = 0 then 8192 else if shape = 1 then 4096 else (if shape = 2 then 1024 else 256) * (if twoCodes d shape then 2 else 1)
  (16 * act / max 1 interval, 16 * if d.mode ≤ 4 then 2048 else 4096)

/-- Whether a pass's port mode does not supply its clients at their rates (R109): the feeds of an array pass, the code reads of an MVU product. -/
def passStarved (i : Image) (cfg : PassCfg) : Bool := cfg.shares.any fun sh => imgDescribed i cfg sh &&
  (if cfg.onMvu then decide (modeSupply cfg.portMode .mv < 16 * 2048)
    else
      let need := feedDemand (imgLayer i sh) cfg.shape cfg.interval
      decide (modeSupply cfg.portMode .af < need.1 ∨ modeSupply cfg.portMode .sf < need.2))

/-- The client of a code of WALK (R116). -/
def walkClient (code : Nat) : SpClient := if code = 0 then .af else if code = 1 then .sf else if code = 2 then .mv else if code = 3 then .rw else .vp

/-- Whether the port mode of a VPU or address-generator task gives one of its clients no slot. -/
def taskStarved (i : Image) (t : TaskCfg) : Bool := match t.kind with
  | .vpu => decide (modeSupply t.portMode .vp = 0)
  | .agen off =>
    let a := agenFixed i t off
    descHeld i t off && (if a.op = 1 then decide (modeSupply t.portMode (walkClient a.client) = 0)
      else decide (a.op = 2) && decide (modeSupply t.portMode .gx = 0 ∨ modeSupply t.portMode .xw = 0))
  | _ => false

/-- Whether a bank slot is one of a narrow slot in every mode: lane 3, phases 8 to 15, and a bank of the group that it reaches (R107, R108). -/
def narrowSlot (x : Nat × Nat) : Bool := decide (8 ≤ x.1 ∧ x.1 < 16 ∧ x.2 < 32 ∧ x.2 / 8 = (3 + x.1) % 4)

/-- Whether an allocation covers its client's rate and banks (R111). -/
def narrowFits (n : NarrowClaim) : Bool :=
  decide (n.rate ≤ n.slots.length) && n.slots.all narrowSlot && n.banks.all fun b => n.slots.any fun x => x.2 == b

/-- The fit check of R121, in the order of its table. -/
def chkFit (i : Image) : Option Status :=
  let wins := imgWins i
  let inputs := i.cams.map camBufs ++ i.batches.flatMap (batchBufs i)
  let own := stageBufs i ++ poolBufs i ++ inputs
  firstFail [
    (i.tasks.any (descBad i), stBadParam),
    (wins.any fun w => decide (w.base % 256 ≠ 0 ∨ w.bound % 256 ≠ 0), stBadParam),
    (wins.any (fun w => (windowSlices w).any fun l => ((imgOwner i) l).isSome && (imgOwner i) l != some w.part) || inputStray i, stNotAuth),
    (wins.any fun w => decide (windowSlices w ≠ [w.lreg]), stNoFit),
    (i.bufs.any (bufLost i) || (allPasses i).any (fun x => x.cfg.shares.any (shareOut i x.cfg)), stNoFit),
    ((stageBufs i).any (bufOut sliceLen) || (poolBufs i).any (bufOut (sliceLen - 8192)) || i.parts.any (stageLost i) ||
      inputs.any (bufOut sliceLen) || i.cams.any camSmall, stNoFit),
    (anyPair bufClash (i.bufs ++ own), stConflict),
    (i.tasks.any (expandLost i), stNoFit),
    ((allPasses i).any (fun x => passStarved i x.cfg) || i.tasks.any (taskStarved i), stNoFit),
    (anyPair (fun a b : NarrowClaim => a.lreg == b.lreg && a.slots.any b.slots.contains) i.narrow, stConflict),
    (!i.narrow.all narrowFits, stNoFit),
    (!i.xferSlots, stNoFit),
    (i.hasC0 && decide (i.policy.data.length > 73728), stNoFit),
    (!i.boundsFit, stNoFit),
    (i.doubleUse, stConflict)]

/-! ## Serving (R132, R140 to R142, R150) -/

/-- Whether a sparse descriptor is refused (R150). -/
def sparseBad (d : SparseDesc) : Bool :=
  decide (d.window < 64 ∨ d.window > 8192 ∨ d.window % 64 ≠ 0 ∨ d.globals.length > 64) || !decide (d.globals.Pairwise (· < ·))

/-- The checks of the serving models. -/
def chkServing (i : Image) : Option Status :=
  firstFail [
    (i.models.any fun m => m.kvNarrow || decide (kvRow m % 32 ≠ 0), stBadParam),
    (decide (i.sparse.length > 255) || i.sparse.any sparseBad, stBadParam),
    (i.parts.any fun p => decide (p.kvLen ≠ 0 ∧ p.kvBase + p.kvLen > p.lpLen), stNoFit)]

/-! ## The solver complex (R190 to R195, R203, R228) -/

/-- Whether an FP64 value is positive and finite. -/
def f64PosFin (x : DWord) : Bool := f64Fin x && f64Lt 0 x

/-- The instruction of program memory at an index (R191): the last piece of the declared contents that holds it; END where none does. -/
def progAt (prog : List (Nat × List DWord)) (k : Nat) : DWord :=
  ((prog.filter fun e => decide (e.1 ≤ k ∧ k < e.1 + e.2.length)).getLast?.map fun e => vget e.2 (k - e.1)).getD 0

/-- The instructions that a MAT_PROG or VEC_PROG field names. -/
def progOf (prog : List (Nat × List DWord)) (f : Nat) : List DWord :=
  (List.range (f / 65536)).map fun k => progAt prog (f % 65536 + k)

/-- A problem's descriptor read from its bytes (R191). -/
def probOf (prog : List (Nat × List DWord)) (x : ProbDecl) : ProbDesc :=
  let f := leField x.bytes
  let wide := fun a : Nat => BitVec.ofNat 64 (f a 8)
  { slot := x.slot, part := x.part, op := f 0 1, warm := bitOf (f 1 1) 0, keepFactor := bitOf (f 1 1) 1, pair := bitOf (f 1 1) 2, n := f 2 1,
    m := f 3 1, lane := f 4 1 % 32, cls := f 5 1, refineMax := f 6 1, staleLimit := f 7 1, iters := f 8 2, horizon := f 10 1, stepVars := f 11 1,
    tauExp := (BitVec.ofNat 8 (f 12 1)).toInt, domain := f 13 1 % 8, measSync := f 14 2, dlOffset := f 16 4, paramBase := f 20 4,
    paramLen := f 24 2, measLen := f 26 2, xInit := f 28 2, measWait := f 30 2, matProg := progOf prog (f 32 4), vecProg := progOf prog (f 36 4),
    progEnd := max (f 32 4 % 65536 + f 32 4 / 65536) (f 36 4 % 65536 + f 36 4 / 65536), epsRef := wide 40, epsAcc := wide 48, sigma := wide 56,
    rho := wide 64, outKind := f 72 8 / 2 ^ 60, outAddr := f 72 8 % 2 ^ 60, outSync := f 80 2, outSignal := bitOf (f 82 1) 0, params := x.params,
    winStart := x.winStart, winEnd := x.winEnd, asmStart := x.asmStart, asmEnd := x.asmEnd }

/-- The problems of an image. -/
def imgProbs (i : Image) : List ProbDesc := i.problems.map (probOf i.program)

/-- The footprint F of a problem (R192). -/
def footprint (d : ProbDesc) : Nat :=
  if d.op = 3 then 16 * d.n ^ 2 + 64 * d.n
  else if d.op = 4 then 8 * d.n * (d.n + 1) + 8 * d.m * d.n + 64 * d.n + 48 * d.m
  else 8 * d.n * (d.n + 1) + 64 * d.n

/-- Whether an instruction of a problem's program is refused (R193 to R195): an undefined field, a target of the other program, or a run
that leaves its target. -/
def asmBad (d : ProbDesc) (mat : Bool) (w : DWord) : Bool :=
  let x := asmInstr w
  decide (x.opc > 3) || (decide (x.opc ≠ 0) &&
    (decide (x.tgt > 5) || decide (x.src = 3) || (if mat then decide (x.tgt > 1) else decide (x.tgt < 2)) ||
      decide (x.tidx + x.len > targetLen d x.tgt)))

/-- Whether a field of a problem descriptor lies outside its range (R191). -/
def probRange (d : ProbDesc) : Bool :=
  let qp := d.op == 4
  decide (d.op = 0 ∨ d.op > 4 ∨ d.slot ≥ 256 ∨ d.n = 0 ∨ d.n > 96 ∨ d.cls > 3 ∨ d.refineMax > 3 ∨ d.staleLimit = 0 ∨
    d.horizon = 0 ∨ d.horizon > 96 ∨ d.stepVars > 96 ∨ d.tauExp < -60 ∨ d.tauExp > -8 ∨
    d.horizon * d.stepVars > d.n ∨ d.paramLen > 16384 ∨ d.measLen > 1024 ∨ d.outKind > 2 ∨
    d.xInit + d.n > d.paramLen ∨ d.progEnd > 32768 ∨ d.paramBase + d.paramLen > 262144) ||
  (if qp then decide (d.m = 0 ∨ d.m > 192 ∨ d.iters = 0 ∨ d.iters > 4095) || !f64PosFin d.sigma || !f64PosFin d.rho
    else d.warm || decide (d.m ≠ 0 ∨ d.iters ≠ 0 ∨ d.sigma ≠ 0 ∨ d.rho ≠ 0)) ||
  (d.pair && decide (d.lane % 2 ≠ 0)) ||
  (if d.cls = 1 then decide (d.dlOffset = 0 ∨ d.dlOffset ≥ 2 ^ 31) else decide (d.dlOffset ≠ 0)) ||
  !f64PosFin d.epsRef || !f64PosFin d.epsAcc || f64Lt d.epsAcc d.epsRef

/-- Whether a problem is refused with BAD_PARAM. -/
def probBad (d : ProbDesc) : Bool :=
  decide (d.cls = 0) || probRange d || (decide (footprint d ≤ 262144) && d.pair != decide (footprint d > 131072)) ||
    d.matProg.any (asmBad d true) || d.vecProg.any (asmBad d false) ||
    (decide (d.outKind = 0) && decide (d.outAddr % 256 + d.n > 256))

/-- The lanes that a problem holds. -/
def probLanes (d : ProbDesc) : List Nat := if d.pair then [d.lane, d.lane + 1] else [d.lane]

/-! ## Domains and tables (R252, R253, R259, R265, R270 to R277) -/

/-- The entry points of a table that stand in a FETCH slot, spread evenly over a period (R277). -/
def placedOffsets (period ns : Nat) : List Nat :=
  let n := (ns + 19999) / 20000
  (List.range n).map fun k => k * period / n

/-- Entries merged by OFFSET; of two at one offset, the first list's stands first. -/
def mergeEntries (a : List Entry) : List Entry → List Entry
  | [] => a
  | e :: rest => mergeEntries (a.takeWhile (fun x => decide (x.offset ≤ e.offset)) ++ e :: a.dropWhile (fun x => decide (x.offset ≤ e.offset))) rest

/-- Whether an image declares FETCH entries. -/
def imgHasFetch (i : Image) : Bool := i.tables.any fun t => t.entries.any fun e => e.action == 5

/-- The declaration of a domain. -/
def imgDom (i : Image) (d : Nat) : Option DomCfg := i.domains.find? fun x => x.d == d

/-- The FETCH entries that Viruk places over a period, all of one descriptor. -/
def imgPlacedEntries (i : Image) (period ps : Nat) : List Entry :=
  (placedOffsets period (period * 2 ^ ps)).map fun o => { offset := o, action := 5, cls := 2, target := i.fetch.length }

/-- The descriptor of the placed entries: every context that the image declares (R277). -/
def imgPlacedDesc (i : Image) : FetchDesc := { mask := BitVec.ofNat 64 (total ((i.parts.flatMap PartCfg.contexts).map (2 ^ ·))) }

/-- An image with the FETCH entries that Viruk places in a declared D0 where the image has none (R277). -/
def imgPlaced (i : Image) : Image :=
  if (imgHasFetch i) then i else
    let tables := match (imgDom i) 0 with
      | none => i.tables
      | some c => i.tables.zipIdx.map fun t =>
          if c.tables.contains t.2 then { t.1 with entries := mergeEntries t.1.entries ((imgPlacedEntries i) t.1.period c.ps) } else t.1
    { i with tables := tables, fetch := i.fetch ++ [(imgPlacedDesc i)] }

/-- The table of D0 where the image does not declare D0 (R280): the placed entries alone, over the built-in period; `i` is the image
as it was before the placement. -/
def imgDefaultD0 (i : Image) : PoolTable := { entries := if (imgHasFetch i) then [] else (imgPlacedEntries i) 20000 0 }

/-- A domain's table by its place in the domain's list. -/
def imgTablesOf (i : Image) (c : DomCfg) : List TableCfg := c.tables.filterMap fun k => i.tables[k]?

/-- The table that is active at load. -/
def imgFirstTable (i : Image) (c : DomCfg) : TableCfg := (((imgTablesOf i) c).head?).getD { period := 20000 }

/-- The partition of an entry's TARGET, where it lies in one (R273). -/
def imgTargetPart (i : Image) (e : Entry) : Option Nat := match e.action with
  | 1 => (i.tasks.find? fun t => t.index == e.target).map TaskCfg.part
  | 2 => (i.problems.find? fun p => p.slot == e.target).map ProbDecl.part
  | 3 => (i.latches.find? fun l => l.index == e.target).map LatchCfg.part
  | 4 => ((i.cans.flatMap CanCfg.class1 ++ i.eths.flatMap EthCfg.class1).find? fun f => f.source == e.target).map BusTx.part
  | 7 => (i.safety.golden.find? fun g => g.index == e.target).map GoldenCfg.part
  | 8 => (imgOwner i) e.target
  | 9 => (i.groups.find? fun g => g.g == e.target).map GroupCfg.part
  | _ => none

/-- Whether an entry is refused with BAD_PARAM in a domain of a source and with a period (R273, R373). -/
def entryBad (source period : Nat) (e : Entry) : Bool :=
  decide (e.action = 0 ∨ e.action > 9 ∨ e.offset ≥ period ∨ e.div = 0 ∨ e.sel ≥ e.div ∨ e.div > 255 ∨ e.cls > 3 ∨ e.part > 7 ∨ e.stage > 7) ||
    (e.action == 9 && decide (e.cls ≠ 0 ∨ source ≠ 0 ∨ e.wdMin ≠ 0 ∨ e.wdMax ≠ 0)) ||
    (decide (e.cls ≤ 1 ∧ e.wdMax = 0) && [1, 2, 3, 4, 7, 8].contains e.action) ||
    (decide (e.cls = 1 ∧ e.stage = 0) && [1, 2, 3, 4, 7].contains e.action)

/-- Whether some entry stands before an earlier offset. -/
def outOfOrder (es : List Entry) : Bool := !decide (es.Pairwise fun a b => a.offset ≤ b.offset)

/-- Whether two entries stand less than 8 ns apart (R273), in phase units of 2^PS ns. -/
def tooClose (ps : Nat) (es : List Entry) : Bool :=
  anyPair (fun a b : Entry => decide ((b.offset - a.offset) * 2 ^ ps < 8)) es

/-- The loops that read an encoder port, or a sample port. -/
def imgReadsEnc (i : Image) (e : Nat) : Bool := i.slots.any fun x => x.io.getLsbD 4 && x.io.toNat % 16 == e
/-- The loops that read a sample port. -/
def imgReadsSpi (i : Image) (p : Nat) : Bool := i.slots.any fun x => x.io.getLsbD 15 && bitsOf x.io.toNat 8 3 == p

/-- Whether a domain's selectors and limits lie outside the values of R253 and R286. -/
def domRange (c : DomCfg) : Bool :=
  let sels := match c.source with
    | 1 => 16
    | 2 => 32
    | 3 => 8
    | 4 => 14
    | _ => 32
  decide (c.sel ≥ sels ∨ c.word > 5 ∨ c.disc > 3 ∨ c.discSel > 15 ∨ c.ztol > 15 ∨ c.maxRate ≥ 2 ^ 24 ∨ c.loss > 255) ||
    decide (c.source ≥ 2 ∧ c.loss = 0) || decide (c.source = 0 ∧ c.disc = 2 ∧ c.discSel > 7) || decide (c.source = 0 ∧ c.disc = 3 ∧ c.discSel > 3)

/-- Whether a domain's declaration is refused with BAD_PARAM (R252, R253, R255, R259, R286). -/
def domBad (i : Image) (c : DomCfg) : Bool :=
  domRange c ||
  let ssi := i.encs.any fun e => e.e == c.sel && e.cfg.toNat % 4 == 2
  decide (c.d > 7 ∨ c.source > 4 ∨ c.owner > 7) || (decide (c.source = 0) && decide (c.ps > 20)) ||
    (decide (c.source ≠ 0) && decide (c.maxRate = 0)) ||
    (decide (c.source = 1) && ssi && !(imgReadsEnc i) c.sel) || (decide (c.source = 3) && !(imgReadsSpi i) c.sel) ||
    ((imgTablesOf i) c).any fun t => decide (t.period = 0 ∨ t.period > 2 ^ 30)

/-- The domains that hold SERVO entries. -/
def imgServoDoms (i : Image) : List DomCfg := i.domains.filter fun c => ((imgTablesOf i) c).any fun t => t.entries.any fun e => e.action == 9

/-- The checks of the domains and their entries. -/
def chkDomains (i : Image) : Option Status :=
  let each := fun f : DomCfg → TableCfg → Bool => i.domains.any fun c => ((imgTablesOf i) c).any (f c)
  let firsts := (i.domains.map fun c => ((imgFirstTable i) c).entries.length) ++ [if ((imgDom i) 0).isNone then (imgDefaultD0 i).entries.length else 0]
  firstFail [
    (i.domains.any (domBad i), stBadParam),
    (dup (i.domains.map DomCfg.d), stConflict),
    (each fun c t => t.entries.any (entryBad c.source t.period), stBadParam),
    (each fun _ t => outOfOrder t.entries, stBadParam),
    (each fun _ t => t.entries.any fun e => ((imgTargetPart i) e).any fun p => p != e.part, stNotAuth),
    (each fun c t => t.entries.any (fun e => e.action == 9) && tooClose c.ps t.entries, stConflict),
    (anyPair (fun a b : DomCfg => a.disc != b.disc || a.discSel != b.discSel) (imgServoDoms i), stConflict),
    (decide (total firsts > 4096), stNoFit)]

/-! ## Firings of the TIME domains in their common time (R277, R386) -/

/-- The nanoseconds of a period. -/
def periodNs (c : DomCfg) (t : TableCfg) : Nat := t.period * 2 ^ c.ps

/-- After how long a table fires again as at the load: its period times the least common multiple of its entries' DIVs. -/
def cycleNs (c : DomCfg) (t : TableCfg) : Nat := periodNs c t * (t.entries.foldl (fun n e => Nat.lcm n e.div) 1)

/-- The nanoseconds after the load at which entries of a table that meet a test fire, over `span`. -/
def firingsNs (c : DomCfg) (t : TableCfg) (span : Nat) (f : Entry → Bool) : List Nat :=
  (List.range (span / max 1 (periodNs c t))).flatMap fun k =>
    ((t.entries.filter f).filter fun e => k % e.div == e.sel).map fun e => k * periodNs c t + e.offset * 2 ^ c.ps

/-- The TIME domains with the tables that are active at load. -/
def imgTimeTables (i : Image) : List (DomCfg × TableCfg) := (i.domains.filter fun c => c.source == 0).map fun c => (c, (imgFirstTable i) c)

/-- A number put into a list in ascending order. -/
def inOrder (n : Nat) (l : List Nat) : List Nat := l.takeWhile (· < n) ++ n :: l.dropWhile (· < n)

/-- Whether the firings of the entries that meet a test, `n` on from each other, lie at most `gap` ns apart, taken over all TIME domains,
whose first periods begin together at the load (R280). -/
def imgOften (i : Image) (n gap : Nat) (f : Entry → Bool) : Bool :=
  let span := (imgTimeTables i).foldl (fun m x => Nat.lcm m (max 1 (cycleNs x.1 x.2))) 1
  let ts := ((imgTimeTables i).flatMap fun x => firingsNs x.1 x.2 span f).foldr inOrder []
  decide (ts ≠ []) && (List.range ts.length).all fun k =>
    decide (ts.getD ((k + n) % ts.length) 0 + span * ((k + n) / ts.length) ≤ ts.getD k 0 + gap)

/-- Whether a context is served often enough (R277); one that only the placed entries of an undeclared D0 serve is. -/
def imgServed (i : Image) (c : Nat) : Bool :=
  (imgOften i) 1 1000000 fun e => e.action == 5 && (i.fetch[e.target]?).any fun x => maskBit x.mask c

/-- Whether every slice of a region's test set gets two slots in any 100 ms: 80 SELFTEST slots for 40 slices (R384, R386). -/
def imgTested (i : Image) (l : Nat) : Bool := (imgOften i) 80 100000000 fun e => e.action == 8 && e.target == l

/-- The checks of the fetch slots and the self-test slots; `i` is the image as it is loaded, `placing` says that the image declares no
FETCH entries of its own. -/
def chkSlots (i : Image) (placing : Bool) : Option Status :=
  let d0Time := ((imgDom i) 0).all fun c => c.source == 0
  firstFail [
    (placing && !d0Time, stNoFit),
    (!placing && !(i.parts.flatMap PartCfg.contexts).all (imgServed i), stNoFit),
    (!(List.range i.regions).all (imgTested i), stNoFit)]

/-! ## The control engine and motion I/O (R218 to R220, R236 to R242) -/

/-- The SERVO entries of a group in every table of the image, with their domains and the tables' places in the domains' lists. -/
def imgServosOf (i : Image) (g : Nat) : List (DomCfg × TableCfg × Entry) :=
  i.domains.flatMap fun c => (imgTablesOf i c).flatMap fun t =>
    (t.entries.filter fun e => e.action == 9 && e.target == g).map fun e => (c, t, e)

/-- The first latch and the period of a SERVO entry in ns. -/
def servoNs (x : DomCfg × TableCfg × Entry) : Nat × Nat :=
  ((x.2.2.sel * x.2.1.period + x.2.2.offset) * 2 ^ x.1.ps, x.2.2.div * periodNs x.1 x.2.1)

/-- Whether a group's latches do not come from one entry of one TIME domain every 15.625 µs to 125 µs (R219): every table of that
domain holds exactly one SERVO entry of the group, no table of another domain holds one. -/
def imgServoBad (i : Image) (g : Nat) : Bool :=
  let xs := imgServosOf i g
  match xs with
  | [] => true
  | x :: _ =>
    xs.any (fun y => decide (y.1.d ≠ x.1.d ∨ y.1.source ≠ 0 ∨ (servoNs y).2 < 15625 ∨ (servoNs y).2 > 125000)) ||
      (imgTablesOf i x.1).any fun t => decide (countIf (fun e : Entry => e.action == 9 && e.target == g) t.entries ≠ 1)

/-- By how much the origin of a table can move against PCOUNT periods of it, in ns: swaps start it after periods of the domain's other
tables, so by multiples of this (R279); 0 where all are of one length. -/
def tableShift (i : Image) (c : DomCfg) (t : TableCfg) : Nat :=
  (imgTablesOf i c).foldl (fun m u => Nat.gcd m (max (periodNs c u) (periodNs c t) - min (periodNs c u) (periodNs c t))) 0

/-- Whether latches of two entries can come less than 160 cycles, 640 ns, apart in the servo set's common time (R220, R281): those of one
table keep their places, those of two domains' tables can also move by `shift`. Entries of two tables of one domain never stand together. -/
def latchClash (a b : Nat × Nat) (shift : Nat) : Bool :=
  let m := Nat.gcd (Nat.gcd a.2 b.2) shift
  let r := (a.1 + m * b.1 - b.1) % m
  decide (min r (m - r) < 640)

/-- The same of two entries as they stand in their tables. -/
def servoClash (i : Image) (x y : DomCfg × TableCfg × Entry) : Bool :=
  if x.1.d = y.1.d then decide (x.2.1 = y.2.1) && latchClash (servoNs x) (servoNs y) 0
  else latchClash (servoNs x) (servoNs y) (Nat.gcd (tableShift i x.1 x.2.1) (tableShift i y.1 y.2.1))

/-! ## Lane windows and admission (R190, R203) -/

/-- A window that comes again and again (R190, R203): the domain and table that it belongs to, and in phase units its start, its length
and after how many it comes again. -/
structure TimeWin where
  dom   : DomCfg
  table : Nat
  start : Nat
  len   : Nat
  every : Nat
  deriving DecidableEq, Repr

/-- Whether two windows, the second `shift` phase units on, can cover one instant when their places repeat modulo `m`. -/
def winMeet (a la b lb m : Nat) : Bool :=
  if m = 0 then overlap a la b lb
  else decide ((b % m + m - a % m) % m < la ∨ (a % m + m - b % m) % m < lb)

/-- Whether two windows overlap: in one table as they stand, in two tables of one domain never, in two TIME domains in the common time of
their origins (R281), in any others always. -/
def winClash (i : Image) (x y : TimeWin) : Bool :=
  if x.dom.d = y.dom.d then decide (x.table = y.table) && winMeet x.start x.len y.start y.len (Nat.gcd x.every y.every)
  else if x.dom.source = 0 ∧ y.dom.source = 0 then
    let move := fun w : TimeWin => (i.tables[w.table]?).elim 0 (tableShift i w.dom)
    winMeet (x.start * 2 ^ x.dom.ps) (x.len * 2 ^ x.dom.ps) (y.start * 2 ^ y.dom.ps) (y.len * 2 ^ y.dom.ps)
      (Nat.gcd (Nat.gcd (x.every * 2 ^ x.dom.ps) (y.every * 2 ^ y.dom.ps)) (Nat.gcd (move x) (move y)))
  else true

/-- Cycles in phase units of a domain, rounded up, at its declared maximum rate (R203, R253, R259). -/
def cyclesToUnits (c : DomCfg) (n : Nat) : Nat := if c.source = 0 then (4 * n + 2 ^ c.ps - 1) / 2 ^ c.ps else (n * c.maxRate + 249999) / 250000

/-- Phase units of a domain in cycles, rounded down, at its declared maximum rate. -/
def unitsToCycles (c : DomCfg) (n : Nat) : Nat := if c.source = 0 then n * 2 ^ c.ps / 4 else n * 250000 / max 1 c.maxRate

/-- The cycles of a problem's two programs and of the wait between them (R195, R203). -/
def asmWorst (d : ProbDesc) : Nat := asmCycles d.matProg + d.measWait + asmCycles d.vecProg

/-- The worst-case cycles of a run with its output (R202, R203). -/
def worstRun (d : ProbDesc) : Nat :=
  asmWorst d + tOut d.n +
    (if d.op = 4 then tG d.n d.m + tF d.op d.n + t0 d.n d.m + d.iters * (tK d.n d.m + d.refineMax * tInner d.n d.m)
      else tF d.op d.n + tS d.n + tR d.n + d.refineMax * tI d.n)

/-- The windows of a problem, of the length that a test gives: of class 1 from each of its SOLVE entries on, otherwise the declared one of every
period of its domain's tables. -/
def probWins (i : Image) (d : ProbDesc) (len : DomCfg → Nat) (start stop : Nat) : List TimeWin :=
  match imgDom i d.domain with
  | none => []
  | some c => c.tables.flatMap fun k => match i.tables[k]? with
    | none => []
    | some t =>
      if d.cls = 1 then
        (t.entries.filter fun e => e.action == 2 && e.target == d.slot).map fun e =>
          { dom := c, table := k, start := e.sel * t.period + e.offset, len := len c, every := e.div * t.period }
      else [{ dom := c, table := k, start := start, len := stop - start, every := t.period }]

/-- The lane windows of a problem: from its start to its deadline. -/
def laneWins (i : Image) (d : ProbDesc) : List TimeWin := probWins i d (fun _ => d.dlOffset) d.winStart d.winEnd

/-- The windows in which a problem's assembly engine works for it. -/
def asmWins (i : Image) (d : ProbDesc) : List TimeWin := probWins i d (fun c => cyclesToUnits c (asmWorst d)) d.asmStart d.asmEnd

/-- Whether windows of one list overlap windows of another. -/
def winsClash (i : Image) (xs ys : List TimeWin) : Bool := xs.any fun x => ys.any (winClash i x)

/-- Whether two problems hold one lane, one assembly engine or one parameter at one time (R190, R203). -/
def probClash (i : Image) (a b : ProbDesc) : Bool :=
  ((probLanes a).any (probLanes b).contains && winsClash i (laneWins i a) (laneWins i b)) ||
    (a.lane / 16 == b.lane / 16 && winsClash i (asmWins i a) (asmWins i b)) || overlap a.paramBase a.paramLen b.paramBase b.paramLen

/-- Whether the worst-case run of a class 1 problem does not end before its deadline (R203). -/
def probLate (i : Image) (d : ProbDesc) : Bool :=
  decide (d.cls = 1) && (match imgDom i d.domain with
    | some c => decide (unitsToCycles c d.dlOffset < worstRun d)
    | none => false)

/-- The checks of the problems. -/
def chkProbs (i : Image) : Option Status :=
  let probs := imgProbs i
  firstFail [
    (probs.any probBad, stBadParam),
    (probs.any fun d => decide (footprint d > 262144) || probLate i d, stNoFit),
    (dup (probs.map ProbDesc.slot) || anyPair (probClash i) probs, stConflict)]

/-- What drives a PWM output or an output frame field: kind and index of every slot that is not a channel B. -/
def imgOutClaims (i : Image) : List Nat :=
  let chanB := fun n : Nat => i.groups.any fun g => g.dual && decide (g.first ≤ n ∧ n < g.first + g.count ∧ (n - g.first) % 2 = 1)
  let slots := i.slots.filter fun x => !chanB x.n && decide (bitsOf x.io.toNat 30 2 ≠ 0)
  let compl := (i.pwms.filter fun p => p.cfg.getLsbD 2).map fun p => 64 + p.o
  slots.map (fun x => bitsOf x.io.toNat 30 2 * 64 + bitsOf x.io.toNat 24 6) ++ compl

/-- Whether an encoder port's configuration is refused (R236, R237). -/
def encBad (x : EncCfg) : Bool :=
  let n := x.cfg.toNat
  let frame := (bitsOf n 8 6 + bitsOf n 3 1 + 1) * (bitsOf n 24 8 + 1)
  decide (x.e > 15) || (match n % 4 with
    | 1 => decide (bitsOf n 16 4 > 11)
    | 2 => decide (bitsOf n 24 8 < 24 ∨ bitsOf n 8 6 < 8 ∨ bitsOf n 8 6 > 32 ∨ x.lead < frame + 12)
    | 3 => true
    | _ => false)

/-- Whether a frame and the declared monoflop time of an SSI port's encoder do not fit into the latch period of a group that reads
the port (R237). -/
def monoBad (i : Image) (x : EncCfg) : Bool :=
  let n := x.cfg.toNat
  let frameNs := 4 * (bitsOf n 8 6 + bitsOf n 3 1 + 1) * (bitsOf n 24 8 + 1)
  let reads := fun (g : GroupCfg) => i.slots.any fun c =>
    decide (g.first ≤ c.n ∧ c.n < g.first + g.count) && c.io.getLsbD 4 && c.io.toNat % 16 == x.e
  n % 4 == 2 && (i.groups.filter reads).any fun g => (imgServosOf i g.g).any fun y => decide ((servoNs y).2 < frameNs + x.monoNs)

/-- Whether a sample port's configuration is refused (R238). -/
def spiBad (x : SpiCfg) : Bool :=
  let n := x.cfg.toNat
  let bits := bitsOf n 8 7
  decide (x.p > 7 ∨ bits < 16 ∨ bits > 96 ∨ bits % 16 ≠ 0 ∨ bitsOf n 16 8 < 4 ∨
    x.lead < 4 + bitsOf n 24 8 + bits * (bitsOf n 16 8 + 1) + 2 + 12)

/-- Whether a PWM output's configuration is refused (R240, R248). -/
def pwmBad (x : PwmCfg) : Bool :=
  decide (x.o > 47 ∨ x.period ≥ 2 ^ 20 ∨ bitsOf x.cfg.toNat 4 2 = 3 ∨ x.cfg.toNat % 4 = 3) || (x.cfg.getLsbD 2 && decide (x.o % 2 = 0))

/-- Whether a group's declaration is refused with BAD_PARAM (R218, R235). -/
def groupBad (i : Image) (g : GroupCfg) : Bool :=
  decide (g.g > 15 ∨ g.count = 0 ∨ g.count > 8 ∨ g.first + g.count > 64) || (g.dual && decide (g.first % 2 ≠ 0 ∨ g.count % 2 ≠ 0)) ||
    (imgServoBad i) g.g

/-- The checks of the control engine and of motion I/O. -/
def chkControl (i : Image) : Option Status :=
  let latches := i.groups.flatMap fun g => imgServosOf i g.g
  firstFail [
    (i.groups.any (groupBad i), stBadParam),
    (dup (i.groups.map GroupCfg.g), stConflict),
    (anyPair (fun a b : GroupCfg => overlap a.first a.count b.first b.count) i.groups, stConflict),
    (anyPair (servoClash i) latches, stConflict),
    (i.encs.any (fun x => encBad x || monoBad i x) || i.spis.any spiBad || i.pwms.any pwmBad || i.flts.any fun x => decide (x.f > 15), stBadParam),
    (dup (i.encs.map EncCfg.e) || dup (i.spis.map SpiCfg.p) || dup (i.pwms.map PwmCfg.o) || dup (i.flts.map FltCfg.f), stConflict),
    (dup (i.slots.map SlotCfg.n) || dup (imgOutClaims i), stConflict)]

/-! ## Counters, capture, field buses and safety (R317, R327 to R348, R370 to R379, R465) -/

/-- The checks of image counters (R317). -/
def chkCounters (i : Image) : Option Status :=
  firstFail [
    (i.counters.any fun c => decide (c.number ≥ 16384 ∨ c.value > counterMax), stBadParam),
    (dup (i.counters.map CounterCfg.number), stConflict)]

/-- Whether the constants of a colour conversion are not all finite (R336). -/
def ppeBad (c : PpeCfg) : Bool := !(c.matrix ++ c.offs ++ c.mean ++ c.scale).all f32Fin

/-- The bits of a pixel of a data type that the part takes (R326); none of another type. -/
def pixelBits (dt : Nat) : Option Nat :=
  if dt = 0x2A then some 8 else if dt = 0x2B then some 10 else if dt = 0x2C then some 12 else if dt = 0x2D then some 14
  else if dt = 0x2E ∨ dt = 0x1E then some 16 else if dt = 0x24 then some 24 else none

/-- Whether a camera stream is refused with BAD_PARAM (R326, R327, R329, R331). -/
def camBad (i : Image) (c : CamCfg) : Bool :=
  let dom := match (imgDom i) c.stampDom with
    | some x => x.source == 0
    | none => c.stampDom == 0
  !dom || decide (c.s > 31 ∨ c.port > 7 ∨ c.vc > 15 ∨ c.band > 2 ∨ c.lanes > 3 ∨ c.nbuf < 2 ∨ c.nbuf > 4) || (pixelBits c.dt).isNone || decide (c.mark ≠ 0 ∧ (c.mark < 4 ∨ c.mark > 10 ∨ markCount c > 128)) || ppeBad c.ppe

/-- The bits per 1,000 s of a stream at its declared maxima (R327). -/
def camLoad (c : CamCfg) : Nat := c.width * c.height * ((pixelBits c.dt).getD 0) * c.maxFps

/-- Whether the streams of a port exceed its lanes × lane rate (R327, R353). -/
def portOver (i : Image) (p : Nat) : Bool :=
  let room := ((i.capPorts.find? fun x => x.p == p).map fun x => 2 ^ x.lanes * x.rate * 10 ^ 10).getD 0
  decide (total ((i.cams.filter fun c => c.port == p).map camLoad) > room)

/-- The lines of a stream's bands, and the cycles that one takes on its lanes (R338). -/
def bandCycles (c : CamCfg) : Nat :=
  let n := min (bandHeight c) c.height
  (n * c.width + 4 * (c.lanes + 1) - 1) / (4 * (c.lanes + 1)) + 64

/-- Whether a band of a stream is not converted before the next one can be complete at the declared maximum line rate (R338). -/
def bandLate (c : CamCfg) : Bool := decide (4 * bandCycles c * c.maxLines > min (bandHeight c) c.height * 10 ^ 9)

/-- Whether the streams together ask for more than the four lanes (R338): lanes × cycles of each band against the time between bands. -/
def lanesOver (i : Image) : Bool :=
  decide (total (i.cams.map fun c => (c.lanes + 1) * 4 * bandCycles c * c.maxLines / max 1 (min (bandHeight c) c.height)) > 4 * 10 ^ 9)

/-- The checks of capture and pre-processing. -/
def chkCapture (i : Image) : Option Status :=
  firstFail [
    (i.cams.any (camBad i) || i.batches.any fun b => ppeBad b.ppe || marksBad i b || decide (b.slots.length = 0 ∨ b.slots.length > 32), stBadParam),
    (dup (i.cams.map CamCfg.s), stConflict),
    (anyPair (fun a b : CamCfg => a.port == b.port && a.vc == b.vc && a.dt == b.dt) i.cams, stConflict),
    ((List.range 8).any (portOver i) || i.cams.any bandLate || lanesOver i || i.cams.any fun c => !c.fits, stNoFit)]

/-- Whether the frames of a port lack an INVALID position (R374). -/
def framesBad (fs : List BusTx) : Bool := fs.any fun f => f.invalidBit.isNone

/-- The holding registers that filters target. -/
def canHolds (c : CanCfg) : List Nat := c.filters.filterMap fun f => match f.target with
  | .holding h => some h
  | _ => none

/-- The holding registers that the filters of an Ethernet port target. -/
def ethHolds (c : EthCfg) : List Nat := c.filters.filterMap fun f => match f.target with
  | .holding h => some h
  | _ => none

/-- Whether a filter of a CAN FD controller names a queue or a holding register that it does not have (R347, R348). -/
def filterBad (c : CanCfg) (f : CanFilter) : Bool := match f.target with
  | .queue q => decide (q ≥ c.queues.length)
  | .holding h => decide (h > 15)
  | _ => false

/-- Whether a controller's timing or frames are refused (R345, R346, R348, R349, R374). -/
def canBad (c : CanCfg) : Bool :=
  let n := c.nbt.toNat
  let d := c.dbt.toNat
  let quanta := (bitsOf d 24 5 + 1) * (1 + (bitsOf d 16 5 + 1) + (bitsOf d 8 4 + 1))
  let bit := (bitsOf n 27 5 + 1) * (1 + (bitsOf n 16 8 + 1) + (bitsOf n 8 7 + 1))
  c.filters.any (filterBad c) || decide (bit < 80 ∨ bit > 4000 ∨ quanta < 10 ∨ c.tdco > 127) || decide (c.c > 3 ∨ bitsOf n 16 8 < 1 ∨ bitsOf n 8 7 < bitsOf n 0 7 ∨ c.retry = 0 ∨ c.retry > 15 ∨ c.filters.length > 64 ∨ c.queues.length > 8 ∨
    c.servo.length > 16 ∨ c.class1.length > 32) || (!c.tdcEn && decide (2 * quanta < 80)) ||
    (c.queues.any fun q => decide (q.2 < 16 ∨ q.2 > 256)) || framesBad (c.servo ++ c.class1)

/-- The quanta of 12.5 ns of a CAN FD frame with bit-rate switch at its worst-case stuffing (R9, R349, log entry 200). -/
def canFrameQuanta (c : CanCfg) (f : BusTx) : Nat :=
  let n := c.nbt.toNat
  let d := c.dbt.toNat
  let head := if f.ide then 36 else 17
  let body := 5 + 8 * f.len
  let stuff := (head - 1) / 4
  (head + stuff + 13) * ((bitsOf n 27 5 + 1) * (1 + (bitsOf n 16 8 + 1) + (bitsOf n 8 7 + 1))) +
    (body + ((head + body - 1) / 4 - stuff) + (if f.len ≤ 16 then 27 else 32)) *
      ((bitsOf d 24 5 + 1) * (1 + (bitsOf d 16 5 + 1) + (bitsOf d 8 4 + 1)))

/-- The nanoseconds of an Ethernet frame with its preamble and gap at the port's speed (R9, R478). -/
def ethFrameNs (c : EthCfg) (f : BusTx) : Nat :=
  8 * (8 + max 64 (f.len + 22) + 12) * [100, 10, 1, 1].getD (bitsOf c.cfg.toNat 4 2) 1

/-- The shortest time in ns between two firings of an entry, at its domain's declared maximum rate. -/
def entryEveryNs (c : DomCfg) (t : TableCfg) (e : Entry) : Nat :=
  if c.source = 0 then e.div * periodNs c t else e.div * t.period * 1000000 / max 1 c.maxRate

/-- The times in ns between the firings of the OUTPUT entries of an output set. -/
def outputNs (i : Image) (set : Nat) : List Nat :=
  i.domains.flatMap fun c => (imgTablesOf i c).flatMap fun t =>
    (t.entries.filter fun e => e.action == 4 && e.target == set).map (entryEveryNs c t)

/-- The shortest period in ns of the class 0 and class 1 frames of a controller or port, or 1 ms when it sends none (R379). -/
def busPeriod (i : Image) (servo class1 : List BusTx) : Nat :=
  match (servo.flatMap fun f => (imgServosOf i f.source).map fun x => (servoNs x).2) ++ class1.flatMap fun f => outputNs i f.source with
  | [] => 1000000
  | p :: rest => rest.foldl min p

/-- Whether the frames that are sent, each with one retry, do not fit the shortest period that sends them (R9, R349). -/
def busOverrun (i : Image) (ns : BusTx → Nat) (servo class1 : List BusTx) : Bool :=
  let sent := (servo.filter fun f => imgServosOf i f.source ≠ []) ++ class1.filter fun f => outputNs i f.source ≠ []
  decide (sent ≠ [] ∧ total (sent.map fun f => 2 * ns f) > busPeriod i servo class1)

/-- Whether a frame of maximal length in progress, followed by a safe-state message, does not fit that time (R379). -/
def messageOver (i : Image) (m : MsgCfg) : Bool :=
  if m.onCan then i.cans.any fun c => c.c == m.port &&
    decide ((25 * (canFrameQuanta c { index := 0, ide := true, len := 64 } + canFrameQuanta c { index := 0, ide := true, len := m.len }) + 1) / 2 >
      busPeriod i c.servo c.class1)
  else i.eths.any fun c => c.p == m.port &&
    decide (ethFrameNs c { index := 0, len := 1500 } + ethFrameNs c { index := 0, len := m.len } > busPeriod i c.servo c.class1)

/-- The checks of the field buses. -/
def chkBuses (i : Image) : Option Status :=
  let syncs := fun c : CanCfg => countIf (fun f : CanFilter => f.target == .sync) c.filters
  firstFail [
    (i.cans.any canBad || i.eths.any fun c => decide (c.p > 5 ∨ c.filters.length > 64) || framesBad (c.servo ++ c.class1), stBadParam),
    (dup (i.cans.map CanCfg.c) || dup (i.eths.map EthCfg.p), stConflict),
    (i.cans.any fun c => dup (canHolds c) || decide (syncs c > 1), stConflict),
    (i.cans.any fun c => anyPair (fun a b : Nat × Nat => overlap a.1 a.2 b.1 b.2) c.queues, stConflict),
    (i.cans.any fun c => c.queues.any fun q => decide (q.1 + q.2 > 1024), stNoFit),
    (i.eths.any fun c => dup (ethHolds c), stConflict),
    (i.cans.any (fun c => busOverrun i (fun f => (25 * canFrameQuanta c f + 1) / 2) c.servo c.class1) ||
      i.eths.any (fun c => busOverrun i (ethFrameNs c) c.servo c.class1), stNoFit)]

/-- Whether a reaction level is refused (R370, R371). -/
def reactBad (e : Nat × Nat) : Bool := match eventMin e.1 with
  | none => decide (e.2 > 2)
  | some 3 => decide (e.2 ≠ 0)
  | some m => decide (e.2 < m ∨ e.2 > 2)

/-- The checks of the safety declarations (R370, R377, R379). -/
def chkSafety (i : Image) : Option Status :=
  firstFail [
    (i.safety.react.any reactBad || decide (i.safety.hbPeriod < 10 ∨ i.safety.hbPeriod > 10000) ||
      (i.safety.messages.any fun m => decide (m.port > if m.onCan then 3 else 5)), stBadParam),
    (anyPair (fun a b : MsgCfg => a.onCan == b.onCan && a.port == b.port) i.safety.messages, stConflict),
    (i.safety.messages.any (messageOver i), stNoFit)]

/-! ## All of it -/

/-- Every check of the loader (R408 to R410 first): the status with which an image is refused, none where it loads. -/
def State.loadCheck (s : State) (i : Image) : Option Status :=
  let j := (imgPlaced i)
  firstSome [
    s.verifyStatus i.env [0x10, 0x11], s.chkPart i, chkParts i, chkQuotas i, chkLayers i, chkPasses i, chkFit i, chkServing i, chkProbs j,
    chkDomains j, chkSlots j (!(imgHasFetch i)), chkControl j, chkCounters i, chkCapture i, chkBuses j, chkSafety j]

end Sys2Proof.Machine
end

