-- ==== Sys2Proof/Machine/Security.lean ====
section
/-! DEFINITION. The rows of the husk (R399 to R423): the security commands, tamper and entropy events, zeroisation, and the
SPDM requests of the DOE mailbox. -/
namespace Sys2Proof.Machine

/-! ## Authorisations (R405) -/

/-- SEC_STATUS (R422). -/
def State.secStatus (s : State) : Word :=
  let m := s.sec.mram
  w32 (bitAt s.sec.huskReady 12 + s.sec.bootCopy % 4 * 2 ^ 8 + bitAt s.sec.rngFail 7 + bitAt m.owner.isSome 6 + bitAt m.zrec.isSome 5 +
    bitAt m.portOpen 4 + bitAt (s.sec.log.length == 1024) 3 + m.lifecycle % 8)

/-- A reply of SIGNATURE_FAIL, which SEC_SIGFAIL_CNT counts (R405, R421). -/
def State.sigFail (s : State) (r : CmdRef) : State :=
  ({ s with sec := { s.sec with sigfailCnt := satInc s.sec.sigfailCnt } }).complete r stSigFail

/-- Whether an authorisation's key is the vendor's. -/
def State.byVendor (s : State) (a : Auth) : Bool := a.keyHash == s.sec.vendorHash
/-- Whether an authorisation's key is the enrolled owner's. -/
def State.byOwner (s : State) (a : Auth) : Bool := s.sec.mram.owner == some a.keyHash

/-- The digest an authorisation signs: ACTION ‖ NONCE ‖ DEVID_HASH ‖ PARAM_DIGEST (R405). -/
def authDigest (action : Nat) (nonce : List Byte) (param : Digest) : Digest :=
  Config.sha3 (BitVec.ofNat 8 action :: nonce ++ digestBytes devidHash ++ digestBytes param)

/-- Whether an authorisation's signature verifies: it is genuine, and covers the outstanding nonce, which lapses after 60 s, the
action and the parameters of the command (R405). -/
def State.authGood (s : State) (a : Auth) (action : Nat) (param : Digest) : Bool :=
  match s.sec.nonce with
  | none => false
  | some (n, t0) => a.genuine && a.message == authDigest action n param && decide (s.time.cnt < t0 + 30000000000)

/-- A command that carries an authorisation (R405): SIGNATURE_FAIL where it does not verify, NOT_AUTHORISED where it verifies
with the wrong signer or in the wrong state, and otherwise its effect, with the nonce used. -/
def State.withAuth (s : State) (r : CmdRef) (a : Auth) (action : Nat) (param : Digest) (allowed : Bool) (run : State → State) : State :=
  if !s.authGood a action param then s.sigFail r
  else if !allowed then s.complete r stNotAuth
  else run { s with sec := { s.sec with nonce := none } }

/-- A change to MRAM. -/
def State.setMram (s : State) (m : Mram) : State := { s with sec := { s.sec with mram := m } }

/-- Slot 6 extended with a command's authorisation digest (R411). -/
def State.measureAuth (s : State) (a : Auth) : State := s.measure 6 (Config.sha3 (digestBytes a.message))

/-- Whether a context may send the security commands that only context 0 and the husk's context may send (R420). -/
def State.secCtx (s : State) (c : Nat) : Bool := c == 0 || (s.ctx c).func == 0x41

/-- The check of the sender (R420). -/
def chkSecCtx (s : State) (c : Nat) : Option Status := if s.secCtx c then none else some stNotAuth

/-- The checks of the commands that need randomness (R420). -/
def chkSecRandom (s : State) (c : Nat) : Option Status := if s.sec.rngFail || !s.secCtx c then some stNotAuth else none

/-- A request to the DRBG, of `n` bytes (R399). -/
def State.random (s : State) (n : Nat) : List Byte × State :=
  (bytesAt (Config.drbg s.free n) 0 n, { s with free := s.free + 1, sec := { s.sec with reqs := s.sec.reqs + 1 } })

/-! ## Commands (R420) -/

/-- SEC_QUERY, 0x0A01: the public keys go to host memory where an address is given. -/
def execSecQuery (c : Nat) (p : Packet) (s : State) : Out :=
  .next (s.command c p 0x0A01 (s.ctx c).cls none fun s r =>
    let keys := Config.publicKey 0 ++ Config.publicKey (1 + s.sec.mram.epoch)
    let s := if u64 p 24 = 0 then s else s.writeFunc (s.ctx c).func (u64 p 24) keys
    s.replyNow r ([s.secStatus, w32 s.sec.mram.epoch] ++ leWords (digestBytes devidHash) 3))

/-- SEC_NONCE, 0x0A02: a fresh nonce, in place of an outstanding one (R405). -/
def execSecNonce (c : Nat) (p : Packet) (s : State) : Out :=
  .next (s.command c p 0x0A02 (s.ctx c).cls (chkSecRandom s c) fun s r =>
    let (n, s) := s.random 64
    let s := { s with sec := { s.sec with nonce := some (n, s.time.cnt) } }
    (s.writeFunc (s.ctx c).func (u64 p 24) n).replyNow r)

/-- The check of SEC_ATTEST, which any context may send (R420). -/
def chkSecAttest (s : State) : Option Status := if s.sec.rngFail then some stNotAuth else none

/-- GLOBAL_ID (R36). -/
def State.globalId (s : State) : Word := if s.glob.grade44 then 0x97604401 else 0x97606001

/-- The attestation report for a verifier's nonce, with its signature by DevID (R412). -/
def State.report (s : State) (nonce : List Byte) : List Byte :=
  let m := s.sec.mram
  let body := Config.report nonce [s.globalId.toNat, m.lifecycle, m.epoch, bitAt m.portOpen 0, m.tripCnt.toNat, s.sec.log.length]
    ((List.range 16).map fun i => tblGet 0 s.sec.slots i)
  body ++ Config.sign 0 body

/-- SEC_ATTEST, 0x0A03 (R412): `h` is the 64-byte verifier nonce read from host memory. -/
def execSecAttest (c : Nat) (p : Packet) (h : HostRead) (s : State) : Out :=
  .next (s.command c p 0x0A03 (s.ctx c).cls (chkSecAttest s) fun s r =>
    match h with
    | .failed => s.complete r stEcc
    | .data b =>
      let (_, s) := s.random 0
      let rep := s.report (bytesAt b 0 64)
      (s.writeFunc (s.ctx c).func (u64 p 32) rep).replyNow r [w32 rep.length])

/-- The checks of SEC_LOG_READ. -/
def chkSecLogRead (s : State) (c : Nat) (p : Packet) : Option Status :=
  if u16 p 18 = 0 ∨ u16 p 18 > 1024 then some stBadParam else chkSecCtx s c

/-- The 80 bytes of an attestation log entry. What is read beyond the last entry is a free value (log entry 25). -/
def State.logEntry (s : State) (i : Nat) : List Byte := match s.sec.log[i]? with
  | some x => bytesAt (Config.logBytes x.slot x.code x.digest x.time) 0 80
  | none => leBytes (Config.freeNat 25 i) 80

/-- SEC_LOG_READ, 0x0A04. -/
def execSecLogRead (c : Nat) (p : Packet) (s : State) : Out :=
  .next (s.command c p 0x0A04 (s.ctx c).cls (chkSecLogRead s c p) fun s r =>
    let bytes := (List.range (u16 p 18)).flatMap fun k => s.logEntry (u16 p 16 + k)
    (s.writeFunc (s.ctx c).func (u64 p 24) bytes).replyNow r [w32 s.sec.log.length])

/-- The checks of SEC_SVN_COMMIT. -/
def chkSecSvnCommit (s : State) (c : Nat) (p : Packet) : Option Status :=
  if u8 p 16 > 15 then some stBadParam else chkSecCtx s c

/-- The SVN of the image of an SVN index that is loaded or, where none is, of the firmware of that index that runs (R408). -/
def State.runningSvn (s : State) (i : Nat) : Option Nat :=
  let loaded := s.image.toList.map fun m => (m.env.svnIndex, m.env.svn.toNat)
  ((s.sec.running.map Prod.snd ++ loaded).filter fun e => e.1 == i).getLast?.map Prod.snd

/-- SEC_SVN_COMMIT, 0x0A05 (R408): the counter rises to the SVN of the image of that index that runs or is loaded; a commit at
or below the counter changes nothing. The command carries no authorisation, so `auth` does not matter. -/
def execSecSvnCommit (c : Nat) (p : Packet) (auth : Auth) (s : State) : Out :=
  let _ := auth
  .next (s.command c p 0x0A05 (s.ctx c).cls (chkSecSvnCommit s c p) fun s r =>
    let i := u8 p 16
    let old := tblGet 0 s.sec.mram.svn i
    let new := (s.runningSvn i).getD old
    let s := if new > old then
        (s.setMram { s.sec.mram with svn := tblSet 0 s.sec.mram.svn i new }).measure 6 (Config.sha3 [BitVec.ofNat 8 i])
      else s
    s.replyNow r [w32 (tblGet 0 s.sec.mram.svn i)])

/-- SEC_OWNER_ENROL, 0x0A06 (R406): while PROVISIONED and with no owner, the key of the signature block becomes OWNER. -/
def execSecOwnerEnrol (c : Nat) (p : Packet) (auth : Auth) (h : HostRead) (s : State) : Out :=
  .next (s.command c p 0x0A06 (s.ctx c).cls (chkSecCtx s c) fun s r =>
    if h = .failed then s.complete r stEcc
    else s.withAuth r auth 0x01 0 (s.sec.mram.lifecycle == 1 && s.sec.mram.owner.isNone) fun s =>
      (s.setMram { s.sec.mram with owner := some auth.keyHash }).measureOwner.replyNow r)

/-- The checks of SEC_LIFECYCLE. -/
def chkSecLifecycle (s : State) (c : Nat) (p : Packet) : Option Status :=
  if ¬([0x02, 0x04, 0x05, 0x08].contains (u8 p 16)) then some stBadParam else chkSecCtx s c

/-- Whether a lifecycle action is allowed now, by the signer it needs (R404). -/
def State.lifecycleOk (s : State) (action : Nat) (a : Auth) : Bool :=
  let m := s.sec.mram
  if action = 0x08 then m.lifecycle == 0 && s.byVendor a
  else if action = 0x02 then m.lifecycle == 1 && s.byOwner a
  else if action = 0x04 then m.lifecycle == 3 && s.byOwner a
  else m.lifecycle != 4 && (s.byOwner a || (m.owner.isNone && s.byVendor a))

/-- A lifecycle action that has been authorised (R404). Scrapping starts the zeroisation of R416 and its reply follows that. -/
def State.lifecycleDo (s : State) (action : Nat) (a : Auth) (r : CmdRef) : State :=
  let m := s.sec.mram
  let s := s.measureAuth a
  if action = 0x08 then (s.setMram { m with lifecycle := 1, epoch := 1, puf := true, debugOpen := false }).replyNow r [1]
  else if action = 0x02 then (s.setMram { m with lifecycle := 2 }).replyNow r [2]
  else if action = 0x04 then
    (s.setMram { m with lifecycle := 2, debugOpen := false, trips := [], tripCnt := 0 }).replyNow r [2]
  else
    let s := s.setMram { m with lifecycle := 4, epoch := 0xFFFFFFFF, puf := false, debugOpen := false }
    s.beginZero (some (r, [4])) (Config.sha3 (digestBytes a.message))

/-- SEC_LIFECYCLE, 0x0A07. -/
def execSecLifecycle (c : Nat) (p : Packet) (auth : Auth) (s : State) : Out :=
  .next (s.command c p 0x0A07 (s.ctx c).cls (chkSecLifecycle s c p) fun s r =>
    s.withAuth r auth (u8 p 16) 0 (s.lifecycleOk (u8 p 16) auth) fun s => s.lifecycleDo (u8 p 16) auth r)

/-- The checks of SEC_DEBUG_OPEN (R415). -/
def chkSecDebugOpen (s : State) (c : Nat) : Option Status :=
  if s.glob.imageLoaded then some stConflict else chkSecCtx s c

/-- SEC_DEBUG_OPEN, 0x0A08 (R404, R415): zeroisation starts, and the reply follows its end. -/
def execSecDebugOpen (c : Nat) (p : Packet) (auth : Auth) (s : State) : Out :=
  .next (s.command c p 0x0A08 (s.ctx c).cls (chkSecDebugOpen s c) fun s r =>
    let m := s.sec.mram
    let allowed := (m.lifecycle == 1 && (s.byVendor auth || s.byOwner auth)) ||
      (m.lifecycle == 2 && (s.byOwner auth || (m.debugVendor && s.byVendor auth)))
    s.withAuth r auth 0x03 0 allowed fun s => s.beginZero (some (r, [])) (Config.sha3 (digestBytes auth.message)))

/-- ZEROISATION_COMPLETE (R416, R417): step 4 has ended. Step 5 makes the part PEELED with the port open and extends slots 0
and 6, except where the part is scrapped (R404); ZREC is cleared and the command that waits is replied to. At a start it
takes the place of the zero fill (R433). -/
def execZeroisationComplete (t : Nat) (s : State) : Out :=
  let s := s.advance t
  .next (if !s.powered || s.sec.mram.zrec.isNone || !s.lnk.lpTrained then s else
    let s := { s with cmp := { s.cmp with lp := [], lpPoison := [] }, pwr := { s.pwr with lpddrInit := false } }
    let m := s.sec.mram
    let s := if m.lifecycle = 4 then s.setMram { m with zrec := none } else
      let s := (s.setMram { m with lifecycle := 3, debugOpen := true, zrec := none }).measureRom
      match s.sec.zcause with
      | some d => s.measure 6 d
      | none =>
        let (v, s) := s.takeFree 24
        s.measure 6 (BitVec.ofNat 512 v)
    let cmd := s.sec.zcmd
    let s := { s with sec := { s.sec with zcmd := none, zcause := none } }
    match cmd with
    | some (r, res) => s.replyNow r res
    | none => s)

/-- The fixed responses of R400: MESH, LIGHT and RNG. -/
def policyFixed : BitVec 6 := 0b110001

/-- The checks of SEC_TAMPER_POLICY (R420). -/
def chkSecTamperPolicy (s : State) (c : Nat) (p : Packet) : Option Status :=
  if u8 p 16 ≥ 64 ∨ (BitVec.ofNat 6 (u8 p 16) ^^^ s.sec.mram.policy) &&& policyFixed ≠ 0 then some stBadParam else chkSecCtx s c

/-- SEC_TAMPER_POLICY, 0x0A09 (R400): the owner changes the responses while the part is PROVISIONED. -/
def execSecTamperPolicy (c : Nat) (p : Packet) (auth : Auth) (s : State) : Out :=
  .next (s.command c p 0x0A09 (s.ctx c).cls (chkSecTamperPolicy s c p) fun s r =>
    s.withAuth r auth 0x06 (Config.sha3 [BitVec.ofNat 8 (u8 p 16)]) (s.sec.mram.lifecycle == 1 && s.byOwner auth) fun s =>
      (s.setMram { s.sec.mram with policy := BitVec.ofNat 6 (u8 p 16) }).measureOwner.replyNow r)

/-- The checks of SEC_KEY_IMPORT that need no payload. -/
def chkSecKeyImport (s : State) (c : Nat) (p : Packet) : Option Status := if u8 p 16 > 15 then some stBadParam else chkSecRandom s c

/-- SEC_KEY_IMPORT, 0x0A0A (R410): BAD_PARAM where the AAD names another slot or algorithm, DATA_ERROR where the payload fails
decapsulation or its tag; else the key is stored wrapped. -/
def execSecKeyImport (c : Nat) (p : Packet) (auth : Auth) (h : HostRead) (s : State) : Out :=
  .next (s.command c p 0x0A0A (s.ctx c).cls (chkSecKeyImport s c p) fun s r =>
    match h with
    | .failed => s.complete r stEcc
    | .data b =>
      let b := bytesAt b 0 1636
      let slot := u8 p 16
      if leField b 1568 1 ≠ slot ∨ leField b 1569 1 ≠ 1 then s.complete r stBadParam
      else
        let allowed := (s.sec.mram.lifecycle == 1 || s.sec.mram.lifecycle == 2) && s.byOwner auth
        s.withAuth r auth 0x07 (Config.sha3 b) allowed fun s =>
          let (_, s) := s.random 0
          match Config.importKey s.sec.mram.epoch b with
          | none => s.complete r stDataError
          | some k => ((s.setMram { s.sec.mram with wrapped := tblSet [] s.sec.mram.wrapped slot k }).measureAuth auth).replyNow r)

/-- The checks of SEC_SYSTEM_SET that need no hashes. -/
def chkSecSystemSet (s : State) (c : Nat) (p : Packet) : Option Status :=
  if u8 p 16 = 0 ∨ u8 p 16 > 8 then some stBadParam else chkSecCtx s c

/-- SEC_SYSTEM_SET, 0x0A0B (R414): the owner writes SYSTEM while the part is PROVISIONED, under action TAMPER_POLICY. -/
def execSecSystemSet (c : Nat) (p : Packet) (auth : Auth) (h : HostRead) (s : State) : Out :=
  .next (s.command c p 0x0A0B (s.ctx c).cls (chkSecSystemSet s c p) fun s r =>
    match h with
    | .failed => s.complete r stEcc
    | .data b =>
      let n := u8 p 16
      let b := bytesAt b 0 (64 * n)
      s.withAuth r auth 0x06 (Config.sha3 b) (s.sec.mram.lifecycle == 1 && s.byOwner auth) fun s =>
        let hashes := (List.range n).map fun i => BitVec.ofNat 512 (leField b (64 * i) 64)
        (s.setMram { s.sec.mram with system := hashes }).measureOwner.replyNow r)

/-! ## Events -/

/-- TAMPER_TRIP (R400, R418, R419): event 0x16 first, then the record, the count and the sensor's response. A SCRAPPED part
ignores its sensors; sensor 5 trips after 64 failed reseeds; in MANUFACTURE and PEELED every response is RESET. -/
def execTamperTrip (t sensor : Nat) (s : State) : Out :=
  let s := s.advance t
  .next (let m := s.sec.mram
    if !s.powered || sensor > 5 || m.lifecycle == 4 || (sensor == 5 && s.sec.fails < 64) then s else
      let s := s.raise 0x16 0xFF sensor
      let zeroise := maskBit m.policy sensor && !(m.lifecycle == 0 || m.lifecycle == 3)
      let trip : Trip := { sensor := sensor, time := s.time.cnt, lifecycle := m.lifecycle }
      let m := { m with trips := (m.trips ++ [trip]).drop (m.trips.length + 1 - 16), tripCnt := satInc m.tripCnt }
      let s := { s.recorded 0x600014 with sec := { s.sec with mram := m, tamper := recWrite s.sec.tamper (bitAt zeroise 8 + sensor) } }
      if zeroise then s.beginZero none (Config.sha3 [BitVec.ofNat 8 sensor]) else s.reboot)

/-- DRBG_RESEED (R399, R400): due after 2^20 requests, and repeated while the health tests fail; a failed reseed stops the
DRBG. -/
def execDrbgReseed (t : Nat) (healthOk : Bool) (s : State) : Out :=
  let s := s.advance t
  .next (if !s.powered || !(s.sec.rngFail || decide (s.sec.reqs ≥ 2 ^ 20)) then s
    else if healthOk then { s with sec := { s.sec with rngFail := false, fails := 0, reqs := 0 } }
    else { s with sec := { s.sec with rngFail := true, fails := s.sec.fails + 1 } })

/-- NONCE_LAPSE (R405): an outstanding nonce lapses after 60 s, which are 30,000,000,000 ticks. -/
def execNonceLapse (t : Nat) (s : State) : Out :=
  let s := s.advance t
  .next (match s.sec.nonce with
    | none => s
    | some (_, t0) => if s.time.cnt ≥ t0 + 30000000000 then { s with sec := { s.sec with nonce := none } } else s)

/-- SEC_CLEAR_SIGFAIL (R422). -/
def execSecClearSigfail (s : State) : Out :=
  .next (s.hostWrite fun w x => { x with sec := { x.sec with sigfailCnt := sinceMark w.sec.sigfailCnt x.sec.sigfailCnt } })

/-! ## SPDM (R412) -/

/-- The latest response of the DOE mailbox. -/
def State.spdmReply (s : State) (kind : SpdmKind) (ok : Bool) (data : List Byte) : State :=
  { s with sec := { s.sec with spdm := { s.sec.spdm with reply := some { kind := kind, ok := ok, data := data } } } }

/-- What SPDM requests share: they reach the husk over the DOE mailbox of the physical function while the link is up and husk
firmware runs; one in a session that is not established, or before the negotiation has come to `need`, gets an ERROR
response (log entry 26); otherwise `run` answers. -/
def State.spdm (s : State) (kind : SpdmKind) (need : Nat) (req : SpdmReq) (run : State → State) : State :=
  if !s.powered || !s.sec.huskReady || !s.lnk.l0 then s
  else if s.sec.spdm.stage < need then s.spdmReply kind false []
  else match req.session with
    | none => run s
    | some k => if s.sec.spdm.sessions.contains k then run s else s.spdmReply kind false []

/-- Changing the SPDM state. -/
def State.setSpdm (s : State) (x : Spdm) : State := { s with sec := { s.sec with spdm := x } }

/-- GET_VERSION: version 1.4, and the negotiation starts afresh. -/
def execGetVersion (req : SpdmReq) (s : State) : Out :=
  .next (s.spdm .version 0 req fun s => (s.setSpdm { s.sec.spdm with stage := 1 }).spdmReply .version true [0x14])

/-- GET_CAPABILITIES. -/
def execGetCapabilities (req : SpdmReq) (s : State) : Out :=
  .next (s.spdm .capabilities 1 req fun s =>
    (s.setSpdm { s.sec.spdm with stage := max 2 s.sec.spdm.stage }).spdmReply .capabilities true [])

/-- NEGOTIATE_ALGORITHMS: the algorithms of R412; `ok` says that the requester offers them. -/
def execNegotiateAlgorithms (req : SpdmReq) (s : State) : Out :=
  .next (s.spdm .algorithms 2 req fun s =>
    if req.ok then (s.setSpdm { s.sec.spdm with stage := 3 }).spdmReply .algorithms true [] else s.spdmReply .algorithms false [])

/-- GET_DIGESTS: the digests of the certificate chains that are stored. -/
def execGetDigests (req : SpdmReq) (s : State) : Out :=
  .next (s.spdm .digests 3 req fun s => s.spdmReply .digests true (s.flash.certs.flatMap fun e => digestBytes (Config.sha3 e.2)))

/-- GET_CERTIFICATE: a portion of the chain of slot 0 or 1. -/
def execGetCertificate (req : SpdmReq) (s : State) : Out :=
  .next (s.spdm .certificate 3 req fun s =>
    match s.flash.certs.find? fun e => e.1 == req.slot && decide (e.1 ≤ 1) with
    | some e => s.spdmReply .certificate true ((e.2.drop req.offset).take req.length)
    | none => s.spdmReply .certificate false [])

/-- CHALLENGE: a signature by DevID over the requester's nonce and the measurement slots. -/
def execChallenge (req : SpdmReq) (s : State) : Out :=
  .next (s.spdm .challenge 3 req fun s =>
    if s.flash.certs.any fun e => e.1 == req.slot then s.spdmReply .challenge true (Config.sign 0 (s.report (bytesAt req.nonce 0 32)))
    else s.spdmReply .challenge false [])

/-- GET_MEASUREMENTS: measurement block i holds slot i. -/
def execGetMeasurements (req : SpdmReq) (s : State) : Out :=
  .next (s.spdm .measurements 3 req fun s =>
    s.spdmReply .measurements true ((List.range 16).flatMap fun i => digestBytes (tblGet 0 s.sec.slots i)))

/-- KEY_EXCHANGE: a session's handshake begins; refused while the DRBG is stopped (R420). -/
def execKeyExchange (req : SpdmReq) (s : State) : Out :=
  .next (s.spdm .keyExchange 3 req fun s =>
    if s.sec.rngFail || !req.ok then s.spdmReply .keyExchange false [] else
      let (_, s) := s.random 0
      let x := s.sec.spdm
      (s.setSpdm { x with handshake := x.handshake ++ [x.next], next := x.next + 1 }).spdmReply .keyExchange true (leBytes x.next 2))

/-- FINISH: the handshake of a session completes where its verify data is right, and fails otherwise. -/
def execFinish (req : SpdmReq) (s : State) : Out :=
  .next (if !s.powered || !s.sec.huskReady || !s.lnk.l0 then s else
    let x := s.sec.spdm
    match req.session with
    | none => s.spdmReply .finish false []
    | some k =>
      if !x.handshake.contains k then s.spdmReply .finish false []
      else if req.ok then
        (s.setSpdm { x with handshake := x.handshake.erase k, sessions := x.sessions ++ [k] }).spdmReply .finish true []
      else (s.setSpdm { x with handshake := x.handshake.erase k }).spdmReply .finish false [])

/-- END_SESSION: the session it arrives in ends. -/
def execEndSession (req : SpdmReq) (s : State) : Out :=
  .next (s.spdm .endSession 3 req fun s =>
    match req.session with
    | none => s.spdmReply .endSession false []
    | some k => (s.setSpdm { s.sec.spdm with sessions := s.sec.spdm.sessions.erase k }).spdmReply .endSession true [])

end Sys2Proof.Machine
end

