-- ==== Sys2Proof/Machine/Start.lean ====
section
/-! DEFINITION. Power, start-up and resets (R32, R381, R382, R425, R433 to R436, R452, R455). -/
namespace Sys2Proof.Machine

/-! ## Power and part resets -/

/-- PWRGOOD_RISE (R433, R436): a full start from nothing, with the boot flash that the board holds. -/
def execPwrgoodRise (flash : Flash) (s : State) : Out :=
  .next ({ s with powered := true, flash := flash }).reboot

/-- PWRGOOD_FALL (R425): the part behaves as unpowered: every pin it drives falls, and only MRAM keeps its contents. -/
def execPwrgoodFall (s : State) : Out :=
  .next ({ s with powered := false }).bare

/-- RESET_N_ASSERT (R436): a part reset, where RESET_N is low for 1 µs or more. -/
def execResetNAssert (lowNs : Nat) (s : State) : Out :=
  .next (if s.powered && decide (lowNs ≥ 1000) then s.reboot else s)

/-- The check of SRV_RESET (R445). -/
def chkSrvCtx (c : Nat) : Option Status := if c ≠ 0 then some stNotAuth else none

/-- SRV_RESET, 0x0B07 (R445): a part reset, with a reply on refusal only. -/
def execSrvReset (c : Nat) (p : Packet) (s : State) : Out :=
  .next (s.command c p 0x0B07 (s.ctx c).cls (chkSrvCtx c) fun s _ => s.reboot)

/-! ## Checker injection and SAFE_HOLD (R381, R382) -/

/-- The part is held in SAFE_HOLD (R382): the safety pins and HEARTBEAT are low, PWM pins are high-impedance, CAN FD
transmitters are recessive, and a held IMG_LOAD is refused (R32). -/
def State.enterHold (s : State) : State :=
  let s := { s with
    glob := { s.glob with safeHold := true },
    safe := { s.safe with hbRun := false, heartbeat := false },
    mio := { s.mio with pwms := tblMap {} (fun _ (x : Pwm) => { x with drive := .hiz }) s.mio.pwms },
    cans := tblMap {} (fun _ (x : Can) => { x with state := .init, onBus := none }) s.cans }
  let s := s.drivePins
  match s.cmd.queue.find? fun q => q.img.isSome with
  | none => s
  | some q => ({ s with cmd := { s.cmd with queue := s.cmd.queue.erase q } }).complete q.cmd stNotAuth

/-- SAFE_INJ_RESULT after a checker has failed (R397): DONE, with its row in R381 and its number; the first failure stays. -/
def State.injFailed (s : State) (cls inst : Nat) : State :=
  if s.safe.inj.getLsbD 31 then s
  else { s with safe := { s.safe with inj := w32 (2 ^ 31 + cls % 16 * 2 ^ 16 + inst % 65536) } }

/-- The regions of both dies released from reset: their frames begin (R32, R107). -/
def Compute.released (x : Compute) (now : Nat) : Compute :=
  { x with ports := List.foldl (fun ps k => tblSet {} ps k { tblGet {} ps k with frameOrigin := now }) x.ports (List.range 32) }

/-- HUB_READY (R32, R377, R381, R425): the hub die's checkers pass, HEARTBEAT runs, the compute dies' supplies are enabled and the dies
released; or the first checker that fails holds the part. -/
def execHubReady (t : Nat) (fail : Option (Nat × Nat)) (s : State) : Out :=
  let s := s.advance t
  .next (if !s.powered || !s.sec.booted || s.glob.hubReady || s.glob.safeHold then s else match fail with
    | some (cls, inst) => (s.injFailed cls inst).enterHold
    | none => { s with glob := { s.glob with hubReady := true }, safe := { s.safe with hbRun := true },
                       pwr := { s.pwr with railsOn := true }, cmp := s.cmp.released s.time.cnt })

/-- Whether both compute dies are up (R32). -/
def State.diesUp (s : State) : Bool := s.glob.die0Up && s.glob.die1Up

/-- DIE_UP (R32, R381): a compute die has passed its checkers, its array self-test and its network-on-chip training; one that
fails keeps the part in SAFE_HOLD. Once both dies have passed, injection has finished. -/
def execDieUp (t die : Nat) (fail : Option (Nat × Nat)) (bistOk trainOk : Bool) (s : State) : Out :=
  let s := s.advance t
  .next (if !s.powered || !s.glob.hubReady || s.glob.safeHold || die > 1 || (if die = 0 then s.glob.die0Up else s.glob.die1Up) then s
    else match fail with
    | some (cls, inst) => (s.injFailed cls inst).enterHold
    | none =>
      if !bistOk || !trainOk then s.enterHold else
        let s := if die = 0 then { s with glob := { s.glob with die0Up := true } } else { s with glob := { s.glob with die1Up := true } }
        if s.diesUp then { s with safe := { s.safe with inj := 0xC0000000 }, pwr := { s.pwr with clkDie := true } } else s)

/-! ## LPDDR (R435, R455) -/

/-- LPDDR_TRAINING_DONE (R455): the 16 channels are trained, or the first that fails keeps the part in SAFE_HOLD. -/
def execLpddrTrainingDone (t kind rate capacity : Nat) (failCh : Option Nat) (s : State) : Out :=
  let s := s.advance t
  .next (if !s.powered || !s.glob.hubReady || s.lnk.lpTrained then s else match failCh with
    | some ch => ({ s with lnk := { s.lnk with lpFailCh := ch } }).enterHold
    | none => { s with lnk := { s.lnk with lpTrained := true, lpType := kind, lpRate := rate, lpCapacity := capacity } })

/-- LPDDR_ZERO_FILL_DONE (R435): every LPDDR byte is zero under the new keys. Where a zeroisation is to be completed, its step
4 takes the place of the fill (R433). -/
def execLpddrZeroFillDone (t : Nat) (s : State) : Out :=
  let s := s.advance t
  .next (if !s.powered || !s.lnk.lpTrained || !s.pwr.lpddrInit || s.sec.mram.zrec.isSome then s
    else { s with cmp := { s.cmp with lp := [], lpPoison := [] }, pwr := { s.pwr with lpddrInit := false } })

/-! ## PCIe (R434, R436, R452) -/

/-- PERST_N_DEASSERT (R434). -/
def execPerstNDeassert (t : Nat) (s : State) : Out :=
  let s := s.advance t
  .next (if s.powered then { s with lnk := { s.lnk with perst := true } } else s)

/-- PCIE_LINK_UP (R434): training, which begins at the later of HUB_READY and the deassertion of PERST_N and after the end of a
zeroisation (R433), reaches L0, and BAR0 can be read. -/
def execPcieLinkUp (t width speed : Nat) (flit : Bool) (s : State) : Out :=
  let s := s.advance t
  .next (if s.powered && s.glob.hubReady && s.lnk.perst && s.sec.mram.zrec.isNone then
    { s with lnk := { s.lnk with width := width, speed := speed, flit := flit, l0 := true, crs := false },
             pwr := { s.pwr with clkSerdes := true } }
  else s)

/-- Every context attached to a PCIe function is detached, context 0 included (R436). -/
def State.detachPcie (s : State) : State :=
  List.foldl (fun s c => if (s.ctx c).state ≠ .detached ∧ (s.ctx c).func < 0x20 then s.detachCtx c else s) s (List.range 64)

/-- The PCIe controller, the DOE mailbox and the IDE streams reset (R436). -/
def State.resetPcie (s : State) : State :=
  let s := s.detachPcie
  { s with lnk := { s.lnk with numVfs := 0, ide := [] }, sec := { s.sec with spdm := {} } }

/-- The link is down: it trains again before BAR0 can be read. -/
def State.linkDown (s : State) : State :=
  { s with lnk := { s.lnk with width := 0, speed := 0, flit := false, l0 := false, crs := true, d3hot := false } }

/-- An outstanding nonce lapses at a reset of any kind (R405). -/
def State.lapseNonce (s : State) : State := { s with sec := { s.sec with nonce := none } }

/-- PCIE_RESET (R436): the image, class 0 and class 1 work, the firmware agents' contexts, safety state and pins are unchanged. A
function-level reset leaves the link up. -/
def execPcieReset (t : Nat) (cause : PcieCause) (s : State) : Out :=
  let s := s.advance t
  .next (if !s.powered then s else
    let s := s.resetPcie.lapseNonce
    match cause with
    | .perstLow => ({ s with lnk := { s.lnk with perst := false } }).linkDown
    | .hotReset => s.linkDown
    | .linkDown => s.linkDown
    | .pfFlr => { s with lnk := { s.lnk with d3hot := false } })

/-- Every context attached to a virtual function is reset, as CTX_RESET does (R291). -/
def State.flrVf (s : State) (vf : Nat) : State :=
  List.foldl (fun s c => if (s.ctx c).state ≠ .detached ∧ (s.ctx c).func = vf then s.resetAgain c else s) s (List.range 64)

/-- VF_FLR (R291, R436). -/
def execVfFlr (t vf : Nat) (s : State) : Out :=
  let s := s.advance t
  .next (if s.powered && decide (1 ≤ vf ∧ vf ≤ 31) then (s.flrVf vf).lapseNonce else s)

/-- Clearing NumVFs: an FLR of every virtual function (R452). -/
def State.clearVfs (s : State) : State :=
  let s := List.foldl (fun s i => s.flrVf (i + 1)) s (List.range 31)
  { s with lnk := { s.lnk with numVfs := 0 } }

/-- NUMVFS_CLEAR (R452). -/
def execNumvfsClear (t : Nat) (s : State) : Out :=
  let s := s.advance t
  .next (if s.powered then s.clearVfs else s)

/-- D3HOT_ENTRY (R452): as a PCIe reset for the contexts; the link stays in L0 (R451). -/
def execD3hotEntry (t : Nat) (s : State) : Out :=
  let s := s.advance t
  .next (if s.powered then
      let s := s.resetPcie
      { s with lnk := { s.lnk with d3hot := true } }
    else s)

/-- CONFIGURATION_REQUEST (R434, R452): until BAR0 can be read it is answered with Configuration Request Retry Status and changes
nothing; a write of NumVFs enables that many virtual functions, or clears them. -/
def execConfigurationRequest (req : CfgReq) (s : State) : Out :=
  .next (if !s.powered || s.lnk.crs then s else match req with
    | .read => s
    | .other => s
    | .setNumVfs 0 => s.clearVfs
    | .setNumVfs (n + 1) => if n + 1 ≤ 31 then { s with lnk := { s.lnk with numVfs := n + 1 } } else s)

end Sys2Proof.Machine
end

