-- ==== Sys2Proof/Machine/Install.lean ====
section
/-! DEFINITION. The image commands (R32, R306, R307): what an accepted load sets in every block, what an unload undoes
(R22, R164, R188, R228, R229, R236, R242, R251, R280, R316, R317, R325, R350, R398, R432, R450), and the held and running IMG_LOAD. -/
namespace Sys2Proof.Machine

/-- A table built from its entries. -/
def tblOf {α : Type} [DecidableEq α] (d : α) (l : List (Nat × α)) : Tbl α := List.foldl (fun t e => tblSet d t e.1 e.2) [] l

/-! ## Binding (R22) -/

/-- Regions taken in turn from two dies, the first list first; when one has none left, the rest of the other. `n` bounds their number. -/
def alternate : Nat → List Nat → List Nat → List Nat
  | 0, _, _ => []
  | _ + 1, [], [] => []
  | n + 1, a :: as, bs => a :: alternate n bs as
  | n + 1, [], b :: bs => b :: alternate n [] bs

/-- The bindings of an image of `n` logical regions. -/
def State.bindings (s : State) (n : Nat) : Tbl (Nat × Nat) :=
  let ks := alternate n (s.offered.filter (· < 16)) (s.offered.filter (16 ≤ ·))
  ks.zipIdx.map fun e => (e.2, (e.1 / 16, e.1 % 16))

/-! ## Time and tables (R251, R255 to R257, R280) -/

/-- The state in which a domain starts at the load: MAINS, EXTSYNC and ANGLE with ZSYNC wait for their first event or index. -/
def startState (c : DomCfg) : DomState := if c.source ≥ 3 ∨ (c.source = 1 ∧ c.zsync) then .acquire else .run

/-- A domain as an image configures it at tick `n`, beside what its counters and captures hold. -/
def loadedDomain (old : Domain) (c : DomCfg) (t : PoolTable) (n : Nat) : Domain :=
  let x : Domain := {
    state := startState c, source := c.source, sel := c.sel, ps := c.ps, word := c.word, zsync := c.zsync, ztol := c.ztol, disc := c.disc,
    discSel := c.discSel, owner := c.owner, loss := c.loss, maxRate := c.maxRate, rate := (if c.source = 0 then 2 * 2 ^ 48 else 0),
    baseTick := n, winTick := n, eventTick := n, mainsTick := n, active := t, skipCnt := old.skipCnt, holdCnt := old.holdCnt,
    snapPhase := old.snapPhase, snapNs := old.snapNs, snapSecLo := old.snapSecLo, snapSecHi := old.snapSecHi }
  { x with phiK := x.phase n }

/-- The tables that become active at a load, by domain, with their places in the pool one behind the other. -/
def placeTables (i : Image) (base : Nat) : List DomCfg → List (DomCfg × PoolTable)
  | [] => []
  | c :: rest =>
    let t := (imgFirstTable i) c
    (c, { index := c.tables.head?, base := base, period := t.period, entries := t.entries }) :: placeTables i (base + t.entries.length) rest

/-- The domains an image configures; D0 keeps the built-in source under the placed FETCH entries where the image does not declare it. -/
def loadedDomains (i : Image) : List (DomCfg × PoolTable) :=
  let p := imgPlaced i
  match (imgDom i) 0 with
  | some _ => placeTables p 0 p.domains
  | none => ({ d := 0 }, imgDefaultD0 i) :: placeTables p (imgDefaultD0 i).entries.length p.domains

/-- The time unit and the schedule engine after a load: one common tick for all domains, every table's first period begun. -/
def State.loadTime (s : State) (i : Image) : State :=
  let n := s.time.cnt
  let idle := (List.range 8).map fun d => (d, ({ s.dom d with state := .idle, active := {}, staged := none } : Domain))
  let doms := (loadedDomains i).map fun e => (e.1.d, loadedDomain (s.dom e.1.d) e.1 e.2 n)
  let others := idle.filter fun e => !(doms.map Prod.fst).contains e.1
  let quiet := others.map fun e => (e.1, ({ skipCnt := e.2.skipCnt, holdCnt := e.2.holdCnt, snapPhase := e.2.snapPhase, snapNs := e.2.snapNs,
                                            snapSecLo := e.2.snapSecLo, snapSecHi := e.2.snapSecHi } : Domain))
  { s with
    time := { s.time with doms := tblOf {} (doms ++ quiet) },
    sched := { s.sched with builtin := false, bank := 0, swaps := [], started := [], slices := [], fetchStart := [], records := [], resumed := [] } }

/-! ## Compute regions, memory and streams (R91, R104, R188) -/

/-- A region without work: what its counters, its records and its active registers hold stays, and a halted tile core stays halted (R95, log
entry 48). -/
def Region.quiet (x : Region) : Region :=
  { x with passes := [], mvus := [], mvuC0 := false, policy := none, clusters := tblMap {} (fun _ (c : Cluster) => { active := c.active }) x.clusters }

/-- A region's port without tasks, walks and transfers; the windows' bases and bounds stay (R104). -/
def RegionSp.quiet (x : RegionSp) : RegionSp :=
  { x with wins := tblMap { base := 0, bound := 0 } (fun _ w => { w with work := none, stopped := false }) x.wins, walks := [], xfers := [],
           agenRun := false, xferRun := false, portPending := false, portNext := 0 }

/-- No compiled work runs. -/
def State.quietCompute (s : State) : State :=
  { s with cmp := { s.cmp with works := [], regions := tblMap {} (fun _ x => Region.quiet x) s.cmp.regions,
                               ports := tblMap {} (fun _ x => RegionSp.quiet x) s.cmp.ports } }

/-- The programs and descriptors of an image's tile cores in some of its logical regions, in their local memories (R76): 32 KB each, with
counters at 0. -/
def State.loadTiles (s : State) (i : Image) (lregs : List Nat) : State :=
  List.foldl (fun s (p : TileProg) => match s.physOf p.lreg with
    | some k =>
      let x := s.region k
      if lregs.contains p.lreg then s.setRegion k { x with tiles := tblSet {} x.tiles p.tile { mem := memWrite [] 0 (p.data.take 32768) } } else s
    | none => s) s i.tiles

/-- The C0 region's MVU is reserved and its code buffer holds the policy (R91, R112), and the image's data stand in scratchpad, in LPDDR and in the
tile cores' memories. -/
def State.loadCompute (s : State) (i : Image) : State :=
  let s := match i.c0Region.bind s.physOf with
    | some k => s.setRegion k { s.region k with mvuC0 := true }
    | none => s
  let s := if i.hasC0 then { s with cmp := { s.cmp with codeBuf := i.policy.data } } else s
  let s := List.foldl (fun s d => s.spWrite d.1 d.2) s i.data
  (List.foldl (fun s d => s.lpWrite d.1 d.2) s i.lpData).loadTiles i (List.range i.regions)

/-- An IMAGE stream at its INIT, resident in the lowest slot of its pool that none holds (R168, R188). -/
def State.loadStream (s : State) (x : ImgStrm) : State := match s.strmModel x.model with
  | none => s
  | some m =>
    let slot := (s.freeSlot m).getD 0
    let y : Strm := { valid := true, resident := true, image := true, expavg := m.expavg, cls := m.cls, part := m.part, model := x.model,
                      slot := slot, home := x.home }
    ((s.setStream x.handle y).writeHome y m (initState m)).writeSlot m slot (initState m)

/-- The stream table holds the IMAGE streams alone. -/
def State.loadStreams (s : State) (i : Image) : State :=
  let s := { s with strm := { s.strm with ents := [], shown := [], states := [] } }
  let s := List.foldl State.loadStream s i.imgStrms
  (i.imgStrms.map ImgStrm.handle).foldl State.showStream s

/-! ## Solver, control engine and motion I/O (R190, R207, R218, R229, R236, R242) -/

/-- A problem slot as its descriptor sets it: the solution store holds X_INIT (R207). -/
def loadedProb (d : ProbDesc) : Prob :=
  let x : Prob := { valid := true, desc := d, active := (List.range d.paramLen).map (vget d.params), front := List.replicate d.measLen 0,
                    back := List.replicate d.measLen 0 }
  { x with store := x.initStore }

/-- A declared loop slot: OPEN, with its coefficients (R229). DUAL_B is 1 in the odd slots of a DUAL group (R235); reserved bits read
0 (R16, R246). -/
def loadedLoop (c : SlotCfg) (chanB : Bool) : Loop :=
  let l : Loop := { state := .open_, cfg := (c.cfg &&& 0xFFFFFF7F) ||| (if chanB then 0x80 else 0), ffMap := c.ffMap, io := c.io &&& 0xFF00F71F,
                    openVal := c.coefs.getD 11 0, busP := c.busP, busT := c.busT }
  { l with coefs := (List.range 12).map fun k => l.coefWord (k + 2) (c.coefs.getD k 0) }

/-- An axis group, with the domain of its SERVO entry. -/
def loadedGroup (i : Image) (g : GroupCfg) : Group :=
  { valid := true, first := g.first, count := g.count, dual := g.dual, policy := g.policy, part := g.part,
    domain := (((imgServosOf i) g.g).head?.map fun x => x.1.d).getD g.domain }

/-- The slots of an image's groups: one that no declaration configures has every field at its reset value. -/
def groupSlots (i : Image) : List (Nat × Loop) :=
  i.groups.flatMap fun g => (List.range g.count).map fun k =>
    (g.first + k, loadedLoop ((i.slots.find? fun c => c.n == g.first + k).getD { n := g.first + k }) (g.dual && k % 2 == 1))

/-- The solver complex, the control engine and motion I/O after a load. -/
def State.loadControl (s : State) (i : Image) : State :=
  let n := s.time.cnt
  let encs := i.encs.map fun c =>
    (c.e, ({ cfg := c.cfg, lead := c.lead, a := (s.enc c.e).a, b := (s.enc c.e).b } : Enc))
  { s with
    slv := { s.slv with asmEnd0 := 0, asmEnd1 := 0, probs := tblOf {} ((imgProbs i).map fun d => (d.slot, loadedProb d)) },
    cte := { s.cte with groups := tblOf {} (i.groups.map fun g => (g.g, loadedGroup i g)), loops := tblOf {} (groupSlots i) },
    mio := { s.mio with encs := tblOf {} encs,
                        spis := tblOf {} (i.spis.map fun c => (c.p, ({ cfg := c.cfg, lead := c.lead } : Spi))),
                        pwms := tblOf {} (i.pwms.map fun c => (c.o, ({ cfg := c.cfg, period := BitVec.ofNat 20 c.period, drive := .safe, restartT := n } : Pwm))),
                        flts := tblOf 0 (i.flts.map fun c => (c.f, c.cfg)) } }

/-! ## Capture and field buses (R329, R333, R350) -/

/-- A controller as an image configures it: its counters stay, it takes part in the bus (R350). -/
def loadedCan (old : Can) (c : CanCfg) : Can :=
  { state := .active, err := old.err, abandonCnt := old.abandonCnt, rxdropCnt := old.rxdropCnt, lateCnt := old.lateCnt,
    queues := tblOf {} (c.queues.zipIdx.map fun q => (q.2, ({ base := q.1.1, len := q.1.2 } : CanQueue))) }

/-- A controller at an unload: INIT, every queue and buffer empty (R350). -/
def Can.unloaded (x : Can) : Can :=
  { err := x.err, abandonCnt := x.abandonCnt, rxdropCnt := x.rxdropCnt, lateCnt := x.lateCnt }

/-- An Ethernet port without frames. -/
def Eth.emptied (x : Eth) : Eth := { x with holds := [], servo := [], class1 := [], sent := [] }

/-- Capture, pre-processing and the field buses after a load. -/
def State.loadInputs (s : State) (i : Image) : State :=
  { s with
    cap := { s.cap with cams := [], batchSeq := [] }, ppe := { s.ppe with decodes := [] },
    cans := tblOf {} (i.cans.map fun c => (c.c, loadedCan (s.can c.c) c)),
    eths := tblMap {} (fun _ x => Eth.emptied x) s.eths }

/-! ## Counters, safety and service (R317, R370, R376 to R379, R386, R398, R432) -/

/-- The image counters and the image maps (R317). -/
def State.loadSync (s : State) (i : Image) : State :=
  { s with sync := { s.sync with
    counters := tblOf {} (i.counters.map fun c => (c.number, ({ state := .live, value := c.value, part := c.part, image := true } : Counter))),
    images := tblOf [] (i.parts.map fun p => (p.id, p.imageMap)), waits := [], granted := [],
    reserved := countIf (fun d : ProbDesc => decide (d.measWait ≠ 0)) (imgProbs i) } }

/-- The levels in force: the image's, or the defaults (R370). -/
def loadedReact (i : Image) : List Nat :=
  (List.range 64).map fun code => ((i.safety.react.find? fun e => e.1 == code).map Prod.snd).getD (eventDefault code)

/-- The PACKAGE events logged while the load ran (R398). -/
def State.loadEvents (s : State) : List SafeEvt :=
  (s.safe.log.filter fun r => r.level == 2 && s.cmd.loadT.any fun t => decide (t ≤ r.time)).map fun r => ⟨r.code, r.detail, eventPlain r.code⟩

/-- The events that hold the package in safe state after a load: Reset events (R380), and those that arose during the load (R398), each with
its release condition as it stands. -/
def State.heldEvents (s : State) : List SafeEvt :=
  let new := s.loadEvents
  let old := (tblGet [] s.safe.events 8).filter fun e => eventReset e.code || new.any fun x => x.code == e.code && x.detail == e.detail
  old ++ new.filter fun x => !(old.any fun e => x.code == e.code && x.detail == e.detail)

/-- The safety supervisor after a load (R398): every partition starts outside safe state, and so does the package unless a Reset event
holds it (R380) or an event arose during the load; every region counts as covered. -/
def State.loadSafe (s : State) (i : Image) : State :=
  let held := s.safe.latched || s.loadEvents ≠ []
  let s := { s with safe := { s.safe with
    armed := true, package := held, parts := 0,
    events := (if held then [(8, s.heldEvents)] else []),
    messages := [], react := loadedReact i, pinMask := i.safety.pinMask, hbPeriod := BitVec.ofNat 20 i.safety.hbPeriod,
    safeInEn := i.safety.safeInEn, depend := tblOf 0 (i.parts.map fun p => (p.id, p.safeDepend)),
    selftest := tblOf {} ((List.range i.regions).map fun l => (l, ({ passed := List.replicate 40 s.time.cnt } : SelfTest))) } }
  let s := if held then List.foldl State.faultPartGroups s (List.range 8) else s
  s.drivePins

/-- The power cap, the service states and the sequence table after a load (R164, R432, R450). -/
def State.loadService (s : State) (i : Image) : State :=
  { s with
    pwr := { s.pwr with cap := s.pwr.capNext.getD s.pwr.cap, capNext := none, floor := i.pFloor, drained := 0, draining := 0, drainCmd := [], repairCmd := [], resumeCmd := [], rebound := [], partImage := [] },
    srv := { s.srv with ents := [], shown := [], builders := [] } }

/-- GLOBAL_MODE, GLOBAL_STATUS and the bindings after a load (R22, R33, R461). -/
def State.loadGlobal (s : State) (i : Image) : State :=
  let id := (s.sec.mram.system.findIdx? fun d => d == devidHash).getD 0
  { s with
    image := some (imgPlaced i),
    glob := { s.glob with loading := false, imageLoaded := true, lmap := s.bindings i.regions, pkgId := BitVec.ofNat 3 id,
                          pkgCount := BitVec.ofNat 3 (i.packages - 1) },
    lnk := { s.lnk with rolFault := 0 } }

/-- Everything a load that has passed its checks sets. -/
def State.installImage (s : State) (i : Image) : State :=
  let s := (s.loadGlobal i).quietCompute
  let s := (s.loadTime i).loadSync i
  let s := (s.loadCompute i).loadStreams i
  let s := (s.loadControl i).loadInputs i
  let s := (s.loadService i).loadSafe i
  s.measure 4 i.env.headerDigest

/-! ## IMG_LOAD (R32, R307, R382, R435) -/

/-- The checks of IMG_LOAD made before the image is read. -/
def chkImgLoad (s : State) (c : Nat) : Option Status :=
  if c ≠ 0 then some stNotAuth
  else if s.glob.safeHold then some stNotAuth
  else if s.glob.imageLoaded || s.glob.loading then some stConflict
  else none

/-- Whether an image load can proceed (R32). -/
def State.mayLoad (s : State) : Bool := s.glob.hubReady && s.diesUp

/-- An IMG_LOAD that passes its checks before both dies are up is held in the control queue with what its read brought (R32). -/
def State.holdLoad (s : State) (c : Nat) (p : Packet) (img : Option Image) : State :=
  if !s.powered || p.opcode.toNat != 0x0201 || (s.ctx c).state != .attached then s else
    match s.headOf c with
    | some q =>
      if q.packet ≠ p then s
      else
        let img := if s.ctxDead c then none else img
        { s with cmd := { s.cmd with queue := s.cmd.queue.map fun x => if x = q then { q with img := some img } else x } }
    | none =>
      if !s.mayFetch c || s.controlFull then s
      else if s.ctxDead c then s.ctxError c 2
      else
        let (s', r) := s.fetchOne c p (s.ctx c).cls
        match (s'.headerCheck p).orElse fun _ => s'.startCheck p none with
        | some st => s'.complete r st
        | none =>
          let q : Queued := { cmd := r, packet := p, part := (s.ctx c).part, control := true, fetchedT := s.time.cnt, img := some img }
          { s' with cmd := { s'.cmd with queue := s'.cmd.queue ++ [q] } }

/-- The load begins: GLOBAL_STATUS.LOADING is set until its reply (R307). -/
def State.acceptLoad (s : State) (q : Queued) : State :=
  { s with glob := { s.glob with loading := true }, cmd := { s.cmd with loadCmd := some q, loadT := some s.time.cnt } }

/-- IMG_LOAD, 0x0201: held until both dies are up, and then accepted; `img` is what its read of host memory brought, none where the
read failed. -/
def execImgLoad (c : Nat) (p : Packet) (img : Option Image) (s : State) : Out :=
  .next (if !s.mayLoad && (chkImgLoad s c).isNone then s.holdLoad c p img
    else s.command c p 0x0201 (s.ctx c).cls (chkImgLoad s c) fun s r =>
      s.acceptLoad { cmd := r, packet := p, part := (s.ctx c).part, control := true, fetchedT := s.time.cnt, img := some img })

/-- IMG_LOAD_ACCEPT (R32): the held IMG_LOAD is accepted in the cycle in which both dies are up; its checks are made again. -/
def execImgLoadAccept (t : Nat) (s : State) : Out :=
  let s := s.advance t
  .next (match s.headOf 0 with
    | none => s
    | some q =>
      if !s.powered || !s.mayLoad || q.img.isNone || !s.fenceOk 0 q.cmd.uid q.packet || (s.ctx 0).state != .attached then s else
        let s := { s with cmd := { s.cmd with queue := s.cmd.queue.erase q } }
        match s.startCheck q.packet (chkImgLoad s 0) with
        | some st => s.complete q.cmd st
        | none => s.acceptLoad q)

/-- The end of a load: its first failing check refuses it and changes nothing else; an image that passes is installed, and the reply
gives its bound regions and its partitions. -/
def State.finishLoad (s : State) (q : Queued) : State :=
  let s := { s with glob := { s.glob with loading := false }, cmd := { s.cmd with loadCmd := none } }
  let ended := fun s : State => { s with cmd := { s.cmd with loadT := none } }
  ended <| match q.img with
  | some (some i) => match s.loadCheck i with
    | some st => if st = stSigFail then s.sigFail q.cmd else s.complete q.cmd st
    | none => (s.installImage i).complete q.cmd stOk [w32 i.regions, w32 i.parts.length]
  | _ => s.complete q.cmd stEcc

/-- IMG_LOAD_COMPLETE (R307, R408, R435): the running load ends, at the earliest with the zero fill of LPDDR. -/
def execImgLoadComplete (t : Nat) (s : State) : Out :=
  let s := s.advance t
  .next (match s.cmd.loadCmd with
    | none => s
    | some q => if !s.powered || s.pwr.lpddrInit then s else s.finishLoad q)

/-! ## IMG_UNLOAD (R159, R181, R243, R307) -/

/-- Whether sequences, streams or closed loops forbid an unload. -/
def State.imageBusy (s : State) : Bool :=
  (s.srv.ents.any fun e => e.2.state != .free) || (s.strm.ents.any fun e => e.2.valid && !e.2.image) ||
    s.cte.loops.any fun e => e.2.state == .closing || e.2.state == .closed

/-- The checks of IMG_UNLOAD. -/
def chkImgUnload (s : State) (c : Nat) : Option Status :=
  if c ≠ 0 then some stNotAuth
  else if s.glob.loading then some stConflict
  else if s.glob.imageLoaded && s.imageBusy then some stConflict
  else none

/-- The commands that wait for something an unload ends: waits on counters, tasks, solves, swaps of tables, drains, repairs and
resumptions. -/
def State.awaiting (s : State) : List CmdRef :=
  (s.sync.waits.filterMap fun w => match w.who with
    | .cmd r => some r
    | _ => none) ++
  s.cmd.running.map Running.cmd ++ (s.slv.probs.flatMap fun e => (e.2.cmd.toList.map Prod.fst) ++ e.2.outs.filterMap fun o => o.cmd.map Prod.fst) ++
  s.sched.swaps.filterMap Swap.cmd ++ s.pwr.drainCmd.map Prod.snd ++ s.pwr.resumeCmd.map Prod.snd ++
  s.pwr.repairCmd.map Prod.fst

/-- The decode tasks that context 0 still has are dropped without replies (R303, R344). -/
def State.dropDecodeCmds (s : State) : State :=
  let mine := fun r : Running => s.ppe.decodes.any fun d => d.id == .cmd r.cmd.ctx r.cmd.tag
  let gone := (s.cmd.running.filter mine).map fun r => r.cmd.uid
  let x := s.ctx 0
  State.setCtx { s with cmd := { s.cmd with running := s.cmd.running.filter fun r => !mine r } } 0 { x with inflight := x.inflight.filter fun u => !gone.contains u }

/-- What an unload does to contexts and counters (R325): every counter is freed, with every mapping, and none is abandoned; every context but 0
is detached, and what context 0 still waits for ends with OWNER_LOST. -/
def State.unloadContexts (s : State) : State :=
  let s := { s with sync := { s.sync with counters := [] }, cmd := { s.cmd with ctxs := tblMap {} (fun _ x => { x with vids := [] }) s.cmd.ctxs } }
  let s := List.foldl (fun s c => if (s.ctx (c + 1)).state ≠ .detached then s.detachCtx (c + 1) else s) s (List.range 63)
  let s := s.dropDecodeCmds
  let lost := s.awaiting
  let left := s.cmd.leaving.map Prod.snd
  let s := List.foldl (fun s r => s.complete r stOk) s left
  let s := { s with sync := { s.sync with waits := [], granted := [], images := [], reserved := 0 },
                    cmd := { s.cmd with running := [], leaving := [] } }
  List.foldl (fun s r => s.complete r stOwnerLost) s lost

/-- D1 to D7 return to IDLE and D0 to the built-in table (R280), from this tick on; D0's time value runs on. -/
def State.unloadTime (s : State) : State :=
  let old := s.dom 0
  let keep := old.source == 0 && old.state != .idle
  let d0 : Domain := { builtinD0 with
    rate := (if keep then old.rate else 2 * 2 ^ 48), offset := (if keep then old.offset else 0), baseTick := s.time.cnt,
    skipCnt := old.skipCnt, holdCnt := old.holdCnt, snapPhase := old.snapPhase, snapNs := old.snapNs, snapSecLo := old.snapSecLo,
    snapSecHi := old.snapSecHi }
  let quiet := (List.range 7).map fun d =>
    let x := s.dom (d + 1)
    (d + 1, ({ skipCnt := x.skipCnt, holdCnt := x.holdCnt, snapPhase := x.snapPhase, snapNs := x.snapNs, snapSecLo := x.snapSecLo,
               snapSecHi := x.snapSecHi } : Domain))
  { s with
    time := { s.time with doms := tblOf {} ((0, { d0 with phiK := d0.phase s.time.cnt }) :: quiet) },
    sched := { s.sched with builtin := true, swaps := [], started := [], slices := [], fetchStart := [], records := [], resumed := [] } }

/-- The stream table after an unload (R181): its IMAGE streams leave at the next stream-step boundary. -/
def Streams.unloaded (x : Streams) : Streams :=
  { x with ents := tblMap {} (fun _ (y : Strm) => if y.image then { y with dropped := true } else {}) x.ents }

/-- Solver, control engine, motion I/O, inputs and buses without an image (R242, R350). -/
def State.unloadBlocks (s : State) : State :=
  { s with
    slv := { s.slv with probs := [] }, cte := { s.cte with groups := [], loops := [] },
    mio := { s.mio with encs := tblOf {} (s.mio.encs.map fun e => (e.1, ({ a := e.2.a, b := e.2.b } : Enc))), spis := [], pwms := [], flts := [] },
    srv := { s.srv with ents := [], shown := [], builders := [] }, strm := s.strm.unloaded,
    cap := { s.cap with cams := [], batchSeq := [] }, ppe := { s.ppe with decodes := [] },
    cans := tblMap {} (fun _ x => Can.unloaded x) s.cans, eths := tblMap {} (fun _ x => Eth.emptied x) s.eths }

/-- Everything an accepted unload does; the drains end and the image store is freed (R450). -/
def State.unloadImage (s : State) : State :=
  let s := s.unloadContexts.unloadTime.unloadBlocks.quietCompute
  let s := { s with
    image := none, glob := { s.glob with imageLoaded := false, lmap := [] },
    safe := { s.safe with selftest := [], messages := [] },
    pwr := { s.pwr with drained := 0, draining := 0, drainCmd := [], repairCmd := [], resumeCmd := [], rebound := [],
                        partImage := [], floor := 0 } }
  s.measure 4 (BitVec.allOnes 512)

/-- IMG_UNLOAD, 0x0202: with no image loaded it changes nothing. -/
def execImgUnload (c : Nat) (p : Packet) (s : State) : Out :=
  .next (s.command c p 0x0202 (s.ctx c).cls (chkImgUnload s c) fun s r =>
    (if s.glob.imageLoaded then s.unloadImage else s).replyNow r)

/-- The check of IMG_QUERY. -/
def chkImgQuery (c : Nat) : Option Status := if c ≠ 0 then some stNotAuth else none

/-- IMG_QUERY, 0x0203: identifier, logical regions and packages; zeros with no image loaded. -/
def execImgQuery (c : Nat) (p : Packet) (s : State) : Out :=
  .next (s.command c p 0x0203 (s.ctx c).cls (chkImgQuery c) fun s r =>
    s.replyNow r (match s.image with
      | none => [0, 0, 0, 0]
      | some i => [w32 i.ident.toNat, w32 (i.ident.toNat / 2 ^ 32), w32 i.regions, w32 i.packages]))

end Sys2Proof.Machine
end

