-- ==== Sys2Proof/Machine/Service.lean ====
section
/-! DEFINITION. Drain, repair and return to service of a partition, and the partition image (R437 to R441), with SRV_QUERY (R445). -/
namespace Sys2Proof.Machine

/-! ## Drain (R437) -/

/-- Whether the image declares a partition. -/
def State.hasPart (s : State) (q : Nat) : Bool := s.parts.any fun c => c.id == q

/-- The partition that SRV_DRAIN means. -/
def State.drainPart (s : State) (p : Packet) : Option Nat :=
  if u8 p 16 = 0 then (if s.hasPart (u8 p 17) then some (u8 p 17) else none)
  else if u8 p 16 = 1 then s.partOf (u8 p 17) else none

/-- Whether some active table holds class 0 or class 1 entries of a partition. -/
def State.holdsHard (s : State) (q : Nat) : Bool :=
  s.time.doms.any fun d => d.2.active.entries.any fun e => e.part == q && decide (e.cls ≤ 1)

/-- The checks of SRV_DRAIN. -/
def chkSrvDrain (s : State) (c : Nat) (p : Packet) : Option Status := match s.drainPart p with
  | none => some stBadParam
  | some q =>
    if c ≠ 0 then some stNotAuth
    else if !s.noWork q && s.holdsHard q && !s.partSafe q then some stConflict
    else none

/-- The solves of a partition that wait for their window are answered BUSY. -/
def State.busySolves (s : State) (q : Nat) : State :=
  List.foldl (fun s e => match e.2.cmd with
    | some (r, _) => if e.2.desc.part = q ∧ e.2.run.isNone then (s.setProb e.1 { e.2 with cmd := none }).complete r stBusy else s
    | none => s) s s.slv.probs

/-- SRV_DRAIN, 0x0B01: the drain begins, or goes on where one runs; a drained partition is left as it is. -/
def execSrvDrain (c : Nat) (p : Packet) (s : State) : Out :=
  .next (s.command c p 0x0B01 (s.ctx c).cls (chkSrvDrain s c p) fun s r => match s.drainPart p with
    | none => s
    | some q =>
      if maskBit s.pwr.drained q then s.replyNow r else
        let s := { s with pwr := { s.pwr with draining := maskSet s.pwr.draining q, drainCmd := s.pwr.drainCmd ++ [(q, r)] } }
        s.busySolves q)

/-- The physical regions of a partition. -/
def State.physParts (s : State) (q : Nat) : List Nat := (s.partCfg q).regions.filterMap s.physOf

/-- Whether every region of a partition is idle: no step, pass, transfer, task or self-test slice runs, and its streams are out. -/
def State.partIdle (s : State) (q : Nat) : Bool :=
  !(s.builder q).running && !(s.cmp.works.any fun w => w.part == q) &&
    !(s.strm.ents.any fun e => e.2.part == q && e.2.valid && (e.2.resident || e.2.move != .none)) &&
    (s.physParts q).all (fun k => (s.region k).all.isEmpty && !(s.port k).agenRun && (s.port k).xfers.isEmpty) &&
    (s.partCfg q).regions.all fun l => !(s.selfTest l).running

/-- DRAIN_COMPLETE (R437, R438): every region of a draining partition is idle; its sequences stand parked, no window watchdog of it is
armed, and the drains of it are replied to. -/
def execDrainComplete (t part : Nat) (s : State) : Out :=
  let s := s.advance t
  .next (if !s.powered || !maskBit s.pwr.draining part || !s.partIdle part then s else
    let s := s.seqBoundary {} part (s.retiring part)
    let done := (s.pwr.drainCmd.filter fun e => e.1 == part).map Prod.snd
    let disarm := fun w : Started => if w.entry.part = part then { w with armed := false } else w
    let s := { s with
      pwr := { s.pwr with draining := maskClear s.pwr.draining part, drained := maskSet s.pwr.drained part,
                          drainCmd := s.pwr.drainCmd.filter fun e => e.1 != part },
      sched := { s.sched with started := s.sched.started.map disarm } }
    List.foldl (fun s r => s.replyNow r) s done)

/-! ## Repair (R439) -/

/-- The checks of SRV_REPAIR. -/
def chkSrvRepair (s : State) (c : Nat) (p : Packet) : Option Status := match s.partOf (u8 p 16) with
  | none => some stBadParam
  | some q =>
    if u8 p 17 > 63 ∧ u8 p 17 ≠ 0xFF then some stBadParam
    else if c ≠ 0 then some stNotAuth
    else if !maskBit s.pwr.drained q then some stConflict
    else if u8 p 17 ≠ 0xFF ∧ s.sec.mram.repair.length ≥ 8192 then some stNoFit
    else none

/-- SRV_REPAIR, 0x0B02: the repair runs until REPAIR_COMPLETE. -/
def execSrvRepair (c : Nat) (p : Packet) (s : State) : Out :=
  .next (s.command c p 0x0B02 (s.ctx c).cls (chkSrvRepair s c p) fun s r =>
    { s with pwr := { s.pwr with repairCmd := s.pwr.repairCmd ++ [(r, u8 p 16, u8 p 17)] } })

/-- The repair records that a repair of physical region `k` writes: of the tile named, or of what the tests found. -/
def repairRecords (k tile : Nat) (found : RepairFound) : List Repair :=
  let d := k / 16
  let r := k % 16
  if tile ≠ 0xFF then [⟨1, d, r, tile⟩]
  else found.tiles.map (fun x => ⟨1, d, r, x⟩) ++ (if found.other then [⟨2, d, r, 0xFF⟩] else []) ++ found.links.map fun _ => ⟨3, d, r, 0xFF⟩

/-- GLOBAL_LMAPn (R36). -/
def State.lmapWord (s : State) (l : Nat) : Word := match (s.glob.lmap.find? fun e => e.1 == l).map Prod.snd with
  | none => 0
  | some (d, r) => w32 (2 ^ 31 + d % 2 * 16 + r % 16)

/-- A logical region rebound to the lowest-numbered available region of its die that no logical region holds, else of the other die;
where none is left it is unbound. -/
def State.rebind (s : State) (l k : Nat) : State :=
  let rest := tblErase s.glob.lmap l
  let free := s.offered.filter fun x => !rest.any fun e => rkey e.2.1 e.2.2 == x
  let pick := (free.find? fun x => x / 16 == k / 16).orElse fun _ => free.head?
  let s := { s with
    glob := { s.glob with lmap := (match pick with
      | none => rest
      | some x => tblInsert rest l (x / 16, x % 16)) },
    pwr := { s.pwr with rebound := if s.pwr.rebound.contains l then s.pwr.rebound else s.pwr.rebound ++ [l] } }
  match pick with
  | some x => if (s.region k).mvuC0 then (s.setRegion k { s.region k with mvuC0 := false }).setRegion x { s.region x with mvuC0 := true } else s
  | none => s

/-- What a repair of a logical region meets of the release conditions of its partition (R371): a fault of the region's self-test, and of
its units. A unit that is no region of the partition (a link, a solver lane, a counter) counts as repaired with any of them
(log entry 31). -/
def State.repairMet (s : State) (q l k : Nat) : State :=
  let mine := s.physParts q
  let met := fun e : SafeEvt =>
    if (e.code = 0x0A ∧ e.detail = l) ∨ e.code = 0x09 ∨ (e.code = 0x08 ∧ (e.detail = k ∨ !mine.contains e.detail)) then { e with met := true } else e
  { s with safe := { s.safe with events := tblUpd [] s.safe.events q (fun l => l.map met) } }

/-- REPAIR_COMPLETE (R371, R439): the tests end; records are written to MRAM and the region is rebound, and the reply counts the records
and gives the region's binding. -/
def execRepairComplete (t part : Nat) (found : RepairFound) (s : State) : Out :=
  let s := s.advance t
  .next (match s.pwr.repairCmd.find? fun e => s.partOf e.2.1 == some part with
    | none => s
    | some (r, l, tile) =>
      if !s.powered then s else
        let s := { s with pwr := { s.pwr with repairCmd := s.pwr.repairCmd.erase (r, l, tile) } }
        match s.physOf l with
        | none => s.replyNow r [0, 0]
        | some k =>
          let recs := repairRecords k tile found
          if s.sec.mram.repair.length + recs.length > 8192 then s.complete r stNoFit
          else
            let s := s.repairMet part l k
            if recs = [] then s.replyNow r [0, s.lmapWord l]
            else
              let s := (s.setMram { s.sec.mram with repair := s.sec.mram.repair ++ recs }).rebind l k
              s.replyNow r [w32 recs.length, s.lmapWord l])

/-! ## Partition image (R441) -/

/-- The declarations of a partition in an image that is placed in another: its regions, contexts and windows stay what they are. -/
def mergePart (old : PartCfg) (j : Image) : PartCfg := match j.parts.find? fun c => c.id == old.id with
  | none => old
  | some c => { c with regions := old.regions, contexts := old.contexts, lpBase := old.lpBase, lpLen := old.lpLen }

/-- The loaded image with the compiled work of a partition replaced by a partition image's. -/
def mergeImage (i j : Image) (q : Nat) : Image :=
  let regions := ((i.parts.find? fun c => c.id == q).getD { id := q }).regions
  let other := fun m : Nat => !(i.strmModels.any fun x => x.index == m && x.part == q)
  { i with
    parts := i.parts.map (fun c => if c.id = q then mergePart c j else c),
    tasks := i.tasks.filter (fun t => t.part != q) ++ j.tasks,
    tiles := i.tiles.filter (fun x => !regions.contains x.lreg) ++ j.tiles,
    models := i.models.filter (fun m => m.part != q) ++ j.models, sparse := i.sparse ++ j.sparse,
    strmModels := i.strmModels.filter (fun m => m.part != q) ++ j.strmModels,
    imgStrms := i.imgStrms.filter (fun x => other x.model) ++ j.imgStrms,
    problems := i.problems.filter (fun d => d.part != q) ++ j.problems, program := i.program ++ j.program,
    fetch := i.fetch ++ j.fetch, latches := i.latches.filter (fun x => x.part != q) ++ j.latches,
    safety := { i.safety with golden := i.safety.golden.filter (fun g => g.part != q) ++ j.safety.golden },
    bufs := i.bufs.filter (fun b => !regions.contains b.lreg) ++ j.bufs,
    narrow := i.narrow.filter (fun b => !regions.contains b.lreg) ++ j.narrow,
    data := i.data.filter (fun d => !regions.contains (d.1 / sliceLen)) ++ j.data, lpData := i.lpData ++ j.lpData,
    xferSlots := j.xferSlots, boundsFit := j.boundsFit, doubleUse := j.doubleUse }

/-- The tables that a partition image stages: its domains' first tables, numbered behind the image's. -/
def partTables (i j : Image) : List (Nat × Nat × TableCfg) := j.domains.filterMap fun c => match c.tables with
  | [] => none
  | k :: _ => (j.tables[k]?).map fun t => (c.d, i.tables.length + k, t)

/-- The image with the tables of a partition image added, each domain being given those that it may stage. -/
def withPartTables (i j : Image) : Image :=
  let more := fun d : Nat => (j.domains.filter fun c => c.d == d).flatMap fun c => c.tables.map (· + i.tables.length)
  { i with tables := i.tables ++ j.tables, domains := i.domains.map fun c => { c with tables := c.tables ++ more c.d } }

/-- Whether the tables of a partition image were admitted against the active tables of the domains that it leaves as they are, and find
no staged table. -/
def State.partAdmitted (s : State) (ts : List (Nat × Nat × TableCfg)) : Bool :=
  ts.all fun x => (s.dom x.1).staged.isNone && (s.dom x.1).state != .idle && (List.range 8).all fun d =>
    ts.any (fun y => y.1 == d) || (match (s.dom d).state, (s.dom d).active.index with
      | .idle, _ => true
      | _, none => true
      | _, some k => x.2.2.admitted.contains (d, k))

/-- Tables staged one after another; none where they do not fit the pool. -/
def State.stageAll (s : State) : List (Nat × Nat × TableCfg) → Option State
  | [] => some s
  | (d, k, t) :: rest => match s.poolFit t.entries.length with
    | none => none
    | some b => State.stageAll (s.setDom d { s.dom d with staged := some { index := some k, base := b, period := t.period, entries := t.entries } }) rest

/-- The staging of a partition image that another one of the same partition replaces is undone. -/
def State.unstagePart (s : State) (q : Nat) : State := match s.pwr.partImage.find? fun e => e.1 == q with
  | none => s
  | some (_, j) => List.foldl (fun s c => s.setDom c.d { s.dom c.d with staged := none }) s j.domains

/-- Whether a partition holds a sequence, or a stream that is not an IMAGE stream. -/
def State.partBusy (s : State) (q : Nat) : Bool := s.seqsOf q ≠ [] || s.strm.ents.any fun e => e.2.valid && e.2.part == q && !e.2.image

/-- Whether the resources of a partition image lie beyond those of the partition (R441). -/
def partTooBig (old : PartCfg) (j : Image) : Bool :=
  let uses := j.tasks.map TaskCfg.lreg ++ (imgPasses j).flatMap (fun cfg => cfg.shares.map Share.lreg) ++ j.strmModels.map StrmModel.lreg ++
    j.safety.golden.map GoldenCfg.lreg ++ j.tiles.map TileProg.lreg
  uses.any (fun l => !old.regions.contains l) ||
    j.parts.any fun c => c.id == old.id && decide (c.seqQuota > old.seqQuota ∨ c.strmQuota > old.strmQuota ∨ c.stageSlots > old.stageSlots ∨
      c.kvBase < old.kvBase ∨ c.kvBase + c.kvLen > old.kvBase + old.kvLen)

/-- Whether a partition image declares work of another partition. -/
def partForeign (j : Image) (q : Nat) : Bool :=
  (j.tasks.any fun t => t.part != q) || (j.models.any fun m => m.part != q) || (j.strmModels.any fun m => m.part != q) ||
    (j.problems.any fun d : ProbDecl => d.part != q) || j.latches.any (fun x => x.part != q) || j.safety.golden.any fun g => g.part != q

/-- The checks of SRV_PART_LOAD on the image that it reads. -/
def State.partCheck (s : State) (i j : Image) (q : Nat) : Option Status :=
  let m := mergeImage (withPartTables i j) j q
  firstSome [
    s.verifyStatus j.env [0x10],
    firstFail [(decide (j.extends_ ≠ i.ident), stConflict), (!(s.unstagePart q).partAdmitted (partTables i j), stConflict), (s.partBusy q, stConflict)],
    firstFail [(partForeign j q, stNotAuth), (partTooBig (s.partCfg q) j, stNoFit)],
    chkLayers m, chkPasses m, chkFit m, chkServing m, chkProbs m, chkDomains m, chkSlots m (!(imgHasFetch m)), chkControl m,
    if ((s.unstagePart q).stageAll (partTables i j)).isNone then some stNoFit else none]

/-- The checks of SRV_PART_LOAD before its read: a partition that is not drained cannot take one. -/
def chkSrvPartLoad (s : State) (c : Nat) (p : Packet) : Option Status :=
  if !s.hasPart (u8 p 16) then some stBadParam
  else if c ≠ 0 then some stNotAuth
  else if !maskBit s.pwr.drained (u8 p 16) then some stConflict
  else none

/-- SRV_PART_LOAD, 0x0B04: the image is measured and its tables are staged; its work waits for the resumption. -/
def execSrvPartLoad (c : Nat) (p : Packet) (img : Option Image) (s : State) : Out :=
  .next (s.command c p 0x0B04 (s.ctx c).cls (chkSrvPartLoad s c p) fun s r =>
    let q := u8 p 16
    match img, s.image with
    | some j, some i => match s.partCheck i j q with
      | some st => if st = stSigFail then s.sigFail r else s.complete r st
      | none => match (s.unstagePart q).stageAll (partTables i j) with
        | none => s.complete r stNoFit
        | some s =>
          let s := { s with image := some (withPartTables i j), pwr := { s.pwr with partImage := tblInsert (tblErase s.pwr.partImage q) q j } }
          (s.measure 4 j.env.headerDigest).replyNow r
    | _, _ => s.complete r stEcc)

/-- The compiled work of a partition image takes the place of the partition's at the resumption: its problems, its
image map, and a swap of its tables at the following boundaries (R279, R441). -/
def State.takePartImage (s : State) (q : Nat) : State := match s.pwr.partImage.find? fun e => e.1 == q, s.image with
  | some (_, j), some i =>
    let gone := s.strm.ents.filter fun e => !(e.2.image && e.2.part == q)
    let probs := s.slv.probs.filter fun e => e.2.desc.part != q
    let doms := (j.domains.filter fun c => (s.dom c.d).staged.isSome).map DomCfg.d
    let m := mergeImage i j q
    let swap : List Swap := match doms with
      | [] => []
      | d :: _ => [{ todo := doms, lead := d }]
    { s with
      image := some m, strm := { s.strm with ents := gone },
      slv := { s.slv with probs := List.foldl (fun t d => tblSet {} t d.slot (loadedProb d)) probs (imgProbs j) },
      sched := { s.sched with swaps := s.sched.swaps ++ swap },
      sync := { s.sync with images := tblSet [] s.sync.images q ((m.parts.find? fun c => c.id == q).elim [] PartCfg.imageMap),
                            reserved := countIf (fun d : ProbDesc => decide (d.measWait ≠ 0)) (imgProbs m) },
      cmp := { s.cmp with lp := List.foldl (fun m d => memWrite m d.1 d.2) s.cmp.lp j.lpData },
      pwr := { s.pwr with partImage := tblErase s.pwr.partImage q } }
  | _, _ => s

/-- The IMAGE streams of a partition image that has taken its place. -/
def State.openPartStreams (s : State) (j : Option Image) : State := match j with
  | none => s
  | some j =>
    let s := List.foldl State.loadStream s j.imgStrms
    (j.imgStrms.map ImgStrm.handle).foldl State.showStream s

/-! ## Resume (R440) -/

/-- The checks of SRV_RESUME. -/
def chkSrvResume (s : State) (c : Nat) (p : Packet) : Option Status :=
  let q := u8 p 16
  if !s.hasPart q then some stBadParam
  else if c ≠ 0 then some stNotAuth
  else if !maskBit s.pwr.drained q then some stConflict
  else if (s.partCfg q).regions.any fun l => (s.physOf l).isNone then some stNoFit
  else none

/-- SRV_RESUME, 0x0B03: the reload, the tests and the swaps-in run until RESUME_COMPLETE. -/
def execSrvResume (c : Nat) (p : Packet) (s : State) : Out :=
  .next (s.command c p 0x0B03 (s.ctx c).cls (chkSrvResume s c p) fun s r =>
    { s with pwr := { s.pwr with resumeCmd := s.pwr.resumeCmd ++ [(u8 p 16, r)] } })

/-- A partition's slices as the image store has them: its data stand in scratchpad and in its tile cores' memories, no line is poisoned, no tile
core is halted (R95, R122, R440). -/
def State.reloadSlices (s : State) (q : Nat) : State :=
  let ks := s.physParts q
  let s := List.foldl (fun s k => s.setRegion k { s.region k with halted := 0 }) s ks
  let s := { s with cmp := { s.cmp with spPoison := s.cmp.spPoison.filter fun a => !ks.contains (a * 256 / sliceLen) } }
  let data := ((s.image.map Image.data).getD []).filter fun d => (s.partCfg q).regions.contains (d.1 / sliceLen)
  let s := List.foldl (fun s d => s.spWrite d.1 d.2) s data
  match s.image with
  | some i => s.loadTiles i (s.partCfg q).regions
  | none => s

/-- The test of a repaired or rebound region at the resumption: it counts as covered from now on, or a failing one raises SELFTEST_FAIL
(R384, R386, R440). -/
def State.coverNow (s : State) (fail : List Nat) (l : Nat) : State :=
  let s := { s with pwr := { s.pwr with rebound := s.pwr.rebound.erase l } }
  if fail.contains l then
    let s := { s with safe := { s.safe with stFail := satInc s.safe.stFail } }
    s.raise 0x0A ((s.partOf l).getD 0xFF) l
  else
    let s := s.setSelfTest l { s.selfTest l with passed := List.replicate 40 s.time.cnt, late := false }
    s.meetCond 0x0B (some l)

/-- The links of the dies that hold a partition's regions, back in service at its resumption (R37). -/
def State.restoreLinks (s : State) (q : Nat) : State :=
  List.foldl (fun s k => { s with glob := { s.glob with linkDown := maskClear (maskClear s.glob.linkDown (k / 16)) (2 + k / 16) } }) s (s.physParts q)

/-- A partition that leaves its drain: streams that the drain swapped out come back, and class 1 entries wait for their domain's next
boundary. -/
def State.endDrain (s : State) (q : Nat) : State :=
  let s := ((s.strm.ents.filter fun e => e.2.part == q && e.2.back).map Prod.fst).foldl State.swapBack s
  let marks := (List.range 8).map fun d => (q, d, (s.dom d).pcount)
  { s with
    sched := { s.sched with resumed := s.sched.resumed.filter (fun r => r.1 != q) ++ marks },
    pwr := { s.pwr with drained := maskClear s.pwr.drained q } }

/-- RESUME_COMPLETE (R440): the reload and the tests end. Where the image store cannot be read, the partition stays drained. -/
def execResumeComplete (t part : Nat) (storeOk : Bool) (testFail : List Nat) (s : State) : Out :=
  let s := s.advance t
  .next (match s.pwr.resumeCmd.find? fun e => e.1 == part with
    | none => s
    | some (q, r) =>
      if !s.powered then s else
        let s := { s with pwr := { s.pwr with resumeCmd := s.pwr.resumeCmd.erase (q, r) } }
        if !storeOk then s.complete r stEcc
        else
          let j := (s.pwr.partImage.find? fun e => e.1 == q).map Prod.snd
          let s := ((s.takePartImage q).reloadSlices q).openPartStreams j
          let due := (s.partCfg q).regions.filter s.pwr.rebound.contains
          let s := List.foldl (fun s l => s.coverNow testFail l) s due
          ((s.restoreLinks q).endDrain q).replyNow r)

/-! ## Query (R445) -/

/-- PWR_REPAIR_CNT (R447). -/
def State.repairCnt (s : State) : Word := w32 (s.sec.mram.repair.length % 2 ^ 14)

/-- SRV_QUERY, 0x0B09. -/
def execSrvQuery (c : Nat) (p : Packet) (s : State) : Out :=
  .next (s.command c p 0x0B09 (s.ctx c).cls none fun s r => s.replyNow r [s.pwrStatus, s.pwrSvc, s.repairCnt])

end Sys2Proof.Machine
end

