-- ==== Sys2Proof/Machine/Firmware.lean ====
section
/-! DEFINITION. New hub firmware while the part serves, and the boot flash (R409, R411, R442, R467). -/
namespace Sys2Proof.Machine

/-- The checks of SRV_FW_UPDATE and SRV_FLASH_WRITE before their read: while one of either kind runs, a second is answered BUSY (R443). -/
def chkSrvFirmware (s : State) (c : Nat) : Option Status :=
  if s.pwr.handover != .none || s.pwr.flashCmd.isSome then some stBusy else if c ≠ 0 then some stNotAuth else none

/-- A firmware image that a service command has read, refused where it does not verify and otherwise used. -/
def State.withFirmware (s : State) (r : CmdRef) (env : Option Envelope) (types : List Nat) (run : State → Envelope → State) : State :=
  match env with
  | none => s.complete r stEcc
  | some e => match s.verifyStatus e types with
    | some st => if st = stSigFail then s.sigFail r else s.complete r st
    | none => run s e

/-- SRV_FW_UPDATE, 0x0B05: core 2 holds the verified firmware, and takes over at the end of the next fetch slot. -/
def execSrvFwUpdate (c : Nat) (p : Packet) (env : Option Envelope) (s : State) : Out :=
  .next (s.command c p 0x0B05 (s.ctx c).cls (chkSrvFirmware s c) fun s r =>
    s.withFirmware r env [0x01] fun s e => { s with pwr := { s.pwr with handover := .loaded, fwCmd := some (r, e) } })

/-- FW_HANDOVER_TAKEOVER (R442): core 2 takes command processing with the new firmware, which is measured and counts as running; the
queues and the commands in flight stay. -/
def execFwHandoverTakeover (t : Nat) (s : State) : Out :=
  let s := s.advance t
  .next (match s.pwr.handover, s.pwr.fwCmd with
    | .loaded, some (_, e) => if s.powered then ({ s with pwr := { s.pwr with handover := .core2 } }).runFirmware 1 e else s
    | _, _ => s)

/-- FW_HANDOVER_RETURN (R442): cores 0 and 1 take command processing back, and the reply is written. -/
def execFwHandoverReturn (t : Nat) (s : State) : Out :=
  let s := s.advance t
  .next (match s.pwr.handover, s.pwr.fwCmd with
    | .core2, some (r, _) =>
      if s.powered then ({ s with pwr := { s.pwr with handover := .none, fwCmd := none } }).replyNow r else s
    | _, _ => s)

/-- SRV_FLASH_WRITE, 0x0B06: the copies are written until FLASH_WRITE_COMPLETE. -/
def execSrvFlashWrite (c : Nat) (p : Packet) (env : Option Envelope) (s : State) : Out :=
  .next (s.command c p 0x0B06 (s.ctx c).cls (chkSrvFirmware s c) fun s r =>
    s.withFirmware r env [0x01, 0x02, 0x03, 0x04] fun s e => { s with pwr := { s.pwr with flashCmd := some (r, e) } })

/-- A copy of a TYPE written to the boot flash. -/
def flashPut (f : Flash) (copy : FlashCopy) : Flash :=
  { f with copies := f.copies.filter (fun x => !(x.type == copy.type && x.copyB == copy.copyB)) ++ [copy] }

/-- FLASH_WRITE_COMPLETE (R442, R467): copy B and copy A are written and verified and the directory lists both; where copy B does not
read back as written, copy A is left alone, and the body that copy B then holds is a free value (log entry 32). -/
def execFlashWriteComplete (t : Nat) (ok : Bool) (s : State) : Out :=
  let s := s.advance t
  .next (match s.pwr.flashCmd with
    | none => s
    | some (r, e) =>
      if !s.powered then s else
        let s := { s with pwr := { s.pwr with flashCmd := none } }
        let b : FlashCopy := { type := e.type.toNat, copyB := true, env := e }
        let a : FlashCopy := { type := e.type.toNat, copyB := false, env := e }
        if ok then ({ s with flash := { flashPut (flashPut s.flash b) a with dirOk := true } }).replyNow r [2]
        else
          let (v, s) := s.takeFree 32
          let bad : FlashCopy := { b with env := { e with bodyHash := BitVec.ofNat 512 v } }
          ({ s with flash := flashPut s.flash bad }).complete r stDataError)

end Sys2Proof.Machine
end

