-- ==== Sys2Proof/Machine/Telemetry.lean ====
section
/-! DEFINITION. Telemetry streams (R312, R444, R445). -/
namespace Sys2Proof.Machine

/-- CMD_LOAD (R322). -/
def State.loadWord (s : State) : Word := w32 (s.cmd.decim % 8 * 2 ^ 24 + s.cmd.qfill % 128 * 2 ^ 16 + s.cmd.load % 128)

/-- A telemetry stream, none where it is closed. -/
def State.tlm (s : State) (i : Nat) : Option Tlm := tblGet none s.pwr.tlms i
/-- Changing a telemetry stream. -/
def State.setTlm (s : State) (i : Nat) (x : Option Tlm) : State := { s with pwr := { s.pwr with tlms := tblSet none s.pwr.tlms i x } }

/-- The lowest closed stream. -/
def State.freeTlm (s : State) : Option Nat := (List.range 8).find? fun i => (s.tlm i).isNone

/-- The checks of TLM_OPEN: BUSY while all 8 streams are open (R445). -/
def chkTlmOpen (s : State) (p : Packet) : Option Status :=
  if s.freeTlm.isNone then some stBusy
  else if u8 p 16 > 3 ∨ u8 p 17 = 0 ∨ u8 p 18 < 6 ∨ u8 p 18 > 16 then some stBadParam
  else none

/-- The droop entries of the physical regions, by logical region. -/
def State.droops (s : State) : List (Nat × Nat) :=
  (List.range 32).map fun l => (l, match s.physOf l with
    | some k => (s.port k).droopCnt.toNat
    | none => 0)

/-- TLM_OPEN, 0x0C01. -/
def execTlmOpen (c : Nat) (p : Packet) (s : State) : Out :=
  .next (s.command c p 0x0C01 (s.ctx c).cls (chkTlmOpen s p) fun s r =>
    let i := s.freeTlm.getD 0
    let x : Tlm := { ctx := c, kind := u8 p 16, period := u8 p 17, log2 := u8 p 18, ring := u64 p 24, droop0 := s.droops }
    (s.setTlm i (some x)).replyNow r [w32 i])

/-- The checks of TLM_CLOSE. -/
def chkTlmClose (s : State) (c : Nat) (p : Packet) : Option Status :=
  match (if u8 p 16 > 7 then none else s.tlm (u8 p 16)) with
  | none => some stBadParam
  | some x => if x.ctx ≠ c then some stNotAuth else none

/-- TLM_CLOSE, 0x0C02. -/
def execTlmClose (c : Nat) (p : Packet) (s : State) : Out :=
  .next (s.command c p 0x0C02 (s.ctx c).cls (chkTlmClose s c p) fun s r => (s.setTlm (u8 p 16) none).replyNow r)

/-- A rail as PWR_RAIL_VI shows it: current and voltage, 0xFFFF where it is not measured (R447). -/
def State.railVi (s : State) (k : Nat) : Nat × Nat := match (s.pwr.rails.find? fun e => e.1 == k).map Prod.snd with
  | some (mv, i) => (i, mv)
  | none => (0xFFFF, 0xFFFF)

/-- The 48 bytes of a record's PAYLOAD (R444). -/
def State.tlmPayload (s : State) (x : Tlm) (m : TlmSamples) : List Byte :=
  let droop := fun l : Nat =>
    let now := ((s.droops.find? fun e => e.1 == l).map Prod.snd).getD 0
    let old := ((x.droop0.find? fun e => e.1 == l).map Prod.snd).getD 0
    BitVec.ofNat 8 (min 255 (if now < old then now else now - old))
  bytesAt (match x.kind with
    | 0 => leBytes s.pwr.pkgMw 4 ++ leBytes s.pwr.throttle 1 ++ [0, 0, 0] ++ (List.range 10).flatMap (fun k => leBytes (s.railVi k).1 2) ++
        (List.range 10).flatMap fun k => leBytes (s.railVi k).2 2
    | 1 => (m.thermal.take 16).flatMap fun v => leBytes v.toNat 2
    | 2 => (List.range 32).map droop
    | _ => wordBytes [s.loadWord, s.cmd.busyCnt, s.cmd.fetchCnt]) 0 48

/-- A record of a stream, after the period that ends now: `seq` records have been produced, this one included. -/
def State.tlmRecord (s : State) (x : Tlm) (m : TlmSamples) (seq : Word) : List Byte :=
  [BitVec.ofNat 8 x.kind, BitVec.ofNat 8 (2 ^ s.cmd.decim), 0, 0] ++ leBytes seq.toNat 4 ++ leBytes s.time.cnt 8 ++ s.tlmPayload x m

/-- TELEMETRY_RECORD (R312, R444): a stream's period ends and a record is produced; it is written where SEQ is a multiple of D and the ring
has room by the consumer index read last, but not while core 2 loads new firmware (R442). A write that fails puts the context into
ERROR (R302, R453). -/
def execTelemetryRecord (t stream : Nat) (samples : TlmSamples) (s : State) : Out :=
  let s := s.advance t
  .next (match s.tlm stream with
    | none => s
    | some x =>
      if !s.powered then s else
        let seq := x.seq + 1
        let y := { x with seq := seq, droop0 := s.droops }
        let room := decide ((BitVec.ofNat 16 x.prod - BitVec.ofNat 16 x.cons).toNat < 2 ^ x.log2 - 1)
        if seq.toNat % 2 ^ s.cmd.decim ≠ 0 || !room || s.pwr.handover == .loaded then s.setTlm stream (some y)
        else
          let f := (s.ctx x.ctx).func
          if !samples.writeOk || s.ctxDead x.ctx then (s.setTlm stream (some y)).ctxError x.ctx 3
          else
            let rec_ := s.tlmRecord x samples seq
            let s := s.writeFunc f (x.ring + 64 + 64 * (x.prod % 2 ^ x.log2)) rec_
            let s := s.writeFunc f x.ring (leBytes ((x.prod + 1) % 65536) 4)
            s.setTlm stream (some { y with prod := (x.prod + 1) % 65536 }))

end Sys2Proof.Machine
end

