-- ==== Sys2Proof/Machine/Fetch.lean ====
section
/-! DEFINITION. Command-fetch slots (R295 to R298, R302, R304, R310, R311): what a FETCH entry fetches from the contexts it serves, and
where a fetched command goes. -/
namespace Sys2Proof.Machine

/-! ## The checks of a fetched packet (R298) -/

/-- What a check that needs the command's host buffer is given at the fetch, before that buffer is read. -/
def noBuffer : HostRead := .data []

/-- The own checks of the session, image, execution, serving and stream commands. -/
def State.fetchCheckLow (s : State) (c : Nat) (p : Packet) : Option Status := match p.opcode.toNat with
  | 0x0101 => chkCtxAttach s c p
  | 0x0102 | 0x0104 | 0x0105 => chkSession c p
  | 0x0103 => chkCtxReset s c p
  | 0x0106 => chkCtxQuery c p
  | 0x0201 => chkImgLoad s c
  | 0x0202 => chkImgUnload s c
  | 0x0203 => chkImgQuery c
  | 0x0301 => chkExecTask s c p
  | 0x0310 => chkSeqAdmit s c p
  | 0x0311 => chkSeqAppend s c p
  | 0x0312 | 0x0313 => chkSeqNamed s c p
  | 0x0320 => chkStrmOpen s c p
  | 0x0321 => chkStrmPush s c p noBuffer
  | 0x0322 | 0x0324 => chkStrmSwapOut s c p
  | 0x0323 => chkStrmSwapIn s c p
  | 0x0325 => chkStrmNamed s c p
  | 0x0326 => chkStrmState s c p noBuffer
  | 0x0401 | 0x0402 | 0x0403 => chkMem s c p
  | _ => none

/-- The own checks of the synchronisation, time, control and solver commands. -/
def State.fetchCheckMid (s : State) (c : Nat) (p : Packet) : Option Status := match p.opcode.toNat with
  | 0x0501 => chkSyncCreate s c p
  | 0x0502 => chkSyncMap s c p
  | 0x0503 => chkSyncUnmap s c p
  | 0x0504 => chkSyncSignal s c p
  | 0x0505 => chkSyncWait s c p
  | 0x0506 => chkSyncTake s c p
  | 0x0507 => chkSyncInit s c p
  | 0x0508 => chkSyncQuery s c p
  | 0x0601 => chkPhaseRead s p
  | 0x0602 => chkTblStage s c p
  | 0x0603 => chkTblSwap s c p
  | 0x0604 => chkDomAdj s c p
  | 0x0701 => chkCteOpen s c p
  | 0x0702 => chkCteClose s c p
  | 0x0703 => chkCteCoef s c p noBuffer
  | 0x0704 => chkSlot s c (u8 p 16)
  | 0x0705 => chkCteAck s c p
  | 0x0801 => chkSlvSolve s c p noBuffer
  | 0x0802 => chkSlvParam s c p noBuffer
  | 0x0803 | 0x0804 => chkProb s c p
  | _ => none

/-- The own checks of the safety, security, service and telemetry commands. -/
def State.fetchCheckHigh (s : State) (c : Nat) (p : Packet) : Option Status := match p.opcode.toNat with
  | 0x0902 | 0x0903 => chkSafeScope s c p
  | 0x0904 => chkSafeLogRead p
  | 0x0A02 => chkSecRandom s c
  | 0x0A03 => chkSecAttest s
  | 0x0A04 => chkSecLogRead s c p
  | 0x0A05 => chkSecSvnCommit s c p
  | 0x0A06 => chkSecCtx s c
  | 0x0A07 => chkSecLifecycle s c p
  | 0x0A08 => chkSecDebugOpen s c
  | 0x0A09 => chkSecTamperPolicy s c p
  | 0x0A0A => chkSecKeyImport s c p
  | 0x0A0B => chkSecSystemSet s c p
  | 0x0B01 => chkSrvDrain s c p
  | 0x0B02 => chkSrvRepair s c p
  | 0x0B03 => chkSrvResume s c p
  | 0x0B04 => chkSrvPartLoad s c p
  | 0x0B05 | 0x0B06 => chkSrvFirmware s c
  | 0x0B07 => chkSrvCtx c
  | 0x0B08 => chkPwrCapSet s c p
  | 0x0C01 => chkTlmOpen s p
  | 0x0C02 => chkTlmClose s c p
  | _ => none

/-- The own checks of a packet, judged when it is fetched (R298). -/
def State.fetchCheck (s : State) (c : Nat) (p : Packet) : Option Status :=
  if family p.opcode.toNat ≤ 4 then s.fetchCheckLow c p
  else if family p.opcode.toNat ≤ 8 then s.fetchCheckMid c p
  else s.fetchCheckHigh c p

/-- The class that a packet runs in (R304). -/
def State.fetchClass (s : State) (c : Nat) (p : Packet) : Nat :=
  let op := p.opcode.toNat
  if op = 0x0310 ∨ op = 0x0320 then openClass s c p
  else if 0x0311 ≤ op ∧ op ≤ 0x0313 then seqClass s c p
  else if 0x0321 ≤ op ∧ op ≤ 0x0326 then strmClass s c p
  else (s.ctx c).cls

/-! ## One packet (R298, R310, R311) -/

/-- One packet fetched from a context: refused by the first check that fails, answered BUSY where its pending queue is full, and put into
its queue otherwise. -/
def State.fetchPacket (s : State) (c : Nat) (p : Packet) : State :=
  let (s, r) := s.fetchOne c p (s.fetchClass c p)
  match (s.headerCheck p).orElse fun _ => s.startCheck p (s.fetchCheck c p) with
  | some st =>
    let s := s.complete r st
    if st = stPinned ∧ p.opcode = 0x0322 then { s with strm := { s.strm with pinnedCnt := satInc s.strm.pinnedCnt } } else s
  | none =>
    if s.queueFull c r.cls p then s.complete r stBusy
    else
      let q : Queued := { cmd := r, packet := p, part := (s.ctx c).part, control := controlFamily p.opcode.toNat, fetchedT := s.time.cnt }
      { s with cmd := { s.cmd with queue := s.cmd.queue ++ [q] } }

/-! ## One context (R295, R296, R302, R311) -/

/-- Packets fetched from a context, CMD_CI moving with each; how many are left of the slot. A context that may not be fetched from, or
whose next command finds the control queue full, is left; an entry that cannot be read puts it into ERROR. -/
def State.fetchList (s : State) (c left : Nat) : List (Option Packet) → State × Nat
  | [] => (s, left)
  | q :: rest =>
    if !s.mayFetch c then (s, left)
    else match q with
      | none => (s.ctxError c 2, left)
      | some p =>
        if controlFamily p.opcode.toNat && s.controlFull then (s, left)
        else
          let s := s.fetchPacket c p
          let x := s.ctx c
          State.fetchList (s.setCtx c { x with cmdCi := x.cmdCi + 1 }) c (left - 1) rest

/-- One context served in a slot: CMD_PI is read and judged, packets are fetched, CMD_CI is written. -/
def State.serveCtx (s : State) (perCtx left : Nat) (r : CtxRead) : State × Nat :=
  let c := r.c
  let x := s.ctx c
  match (if s.ctxDead c then none else r.cmdPi) with
  | none => (s.ctxError c 2, left)
  | some pi =>
    if (pi - x.cmdCi).toNat > 2 ^ x.cmdLog2 then (s.ctxError c 1, left)
    else
      let (s, left) := s.fetchList c left (r.packets.take (min (min perCtx left) (pi - x.cmdCi).toNat))
      let y := s.ctx c
      if y.state ≠ .attached then (s, left)
      else if !r.ciOk then (s.ctxError c 3, left)
      else (s.writeFunc y.func (y.rcb + 4) (leBytes y.cmdCi.toNat 4), left)

/-! ## The slot (R155, R295, R444) -/

/-- The descriptor of a FETCH entry: that of the built-in table serves every context (R295). -/
def State.fetchDesc (s : State) (target : Nat) : FetchDesc :=
  if s.sched.builtin then { mask := BitVec.allOnes 64 } else ((s.image.map Image.fetch).getD [])[target]?.getD { mask := 0 }

/-- The key under which a descriptor keeps where its previous firing began; the built-in one is none of the image's. -/
def State.fetchKey (s : State) (target : Nat) : Nat := if s.sched.builtin then 2 ^ 16 else target

/-- The contexts of a slot, in the order in which it serves them: ascending, from behind the context at which the previous firing of the
descriptor began. -/
def State.slotOrder (s : State) (target : Nat) : List Nat :=
  let cs := (List.range 64).filter fun c => maskBit (s.fetchDesc target).mask c && (s.ctx c).state == .attached
  let last := tblGet 0 s.sched.fetchStart (s.fetchKey target)
  cs.filter (fun c => c ≥ last) ++ cs.filter fun c => c < last

/-- The contexts of a slot served in turn until TOTAL is spent. -/
def State.serveAll (s : State) (perCtx : Nat) (reads : List CtxRead) : Nat → List Nat → State
  | _, [] => s
  | left, c :: rest =>
    if left = 0 then s
    else match reads.find? fun r => r.c == c with
      | none => State.serveAll s perCtx reads left rest
      | some r =>
        let (s, left) := s.serveCtx perCtx left r
        State.serveAll s perCtx reads left rest

/-- A consumer index that the slot reads for a ring of one of its contexts. -/
def State.readRing (s : State) (cs : List Nat) (r : RingRead) : State :=
  if r.seq < 4096 then
    let x := s.seq r.seq
    if x.state ≠ .free ∧ cs.contains x.ctx then s.setSeq r.seq { x with cons := r.consumer } else s
  else match s.tlm (r.seq - 4096) with
    | none => s
    | some x => if cs.contains x.ctx then s.setTlm (r.seq - 4096) (some { x with cons := r.consumer.toNat }) else s

/-- What a slot fetches and reads. -/
def State.fetchSlot (s : State) (target : Nat) (reads : List CtxRead) (rings : List RingRead) : State :=
  let desc := s.fetchDesc target
  let cs := s.slotOrder target
  let s := match cs with
    | [] => s
    | c :: _ => { s with sched := { s.sched with fetchStart := tblSet 0 s.sched.fetchStart (s.fetchKey target) (c + 1) } }
  let s := s.serveAll desc.perCtx reads desc.total cs
  List.foldl (fun s r => s.readRing cs r) s rings

/-- FETCH (R275 to R277, R295): the entry fires and its slot fetches; an entry with watchdog values is watched until TASK_COMPLETE, and
overruns while its previous slot has not ended. -/
def execFetch (t d e : Nat) (reads : List CtxRead) (rings : List RingRead) (s : State) : Out :=
  let s := s.advance t
  .next (match s.fires d e 5 with
    | none => s
    | some en =>
      let s := s.markFired d e
      if (s.startedOf d e).isSome then s.overrun d e en
      else
        let s := if en.wdMin = 0 ∧ en.wdMax = 0 then s else s.startEntry d e en
        s.fetchSlot en.target reads rings)

end Sys2Proof.Machine
end

