-- ==== Sys2Proof/Machine/Links.lean ====
section
/-! DEFINITION. The rows of the host link's encryption, of host memory failures, of LPDDR errors and of Rolink (R414, R453, R454,
R457, R459 to R463). -/
namespace Sys2Proof.Machine

/-! ## IDE (R413, R454) -/

/-- The key of an IDE stream in the table of streams. -/
def ideKey : IdeStream → Nat
  | .link => 8
  | .selective i => i % 8

/-- IDE_KM (R454): in an established SPDM session the host keys a stream. -/
def execIdeKm (req : SpdmReq) (stream : IdeStream) (s : State) : Out :=
  .next (s.spdm .vendorDefined 3 req fun s =>
    if req.session.isNone || !req.ok then s.spdmReply .vendorDefined false []
    else
      let s := { s with lnk := { s.lnk with ide := tblSet .unkeyed s.lnk.ide (ideKey stream) .secure } }
      s.spdmReply .vendorDefined true [])

/-- IDE_CHECK_FAIL (R454): the TLP is discarded and its keyed stream enters Insecure. -/
def execIdeCheckFail (t : Nat) (stream : IdeStream) (s : State) : Out :=
  let s := s.advance t
  .next (if s.powered && tblGet .unkeyed s.lnk.ide (ideKey stream) == .secure then
    { s with lnk := { s.lnk with ide := tblSet .unkeyed s.lnk.ide (ideKey stream) .insecure } } else s)

/-! ## Failed requests to host memory (R453) -/

/-- A command whose own host buffer failed completes with ECC_UNCORRECTABLE, and its work ends. -/
def State.bufferFailed (s : State) (c : Nat) (tag : Word) : State :=
  match s.cmd.running.find? fun r => r.cmd.ctx == c && r.cmd.tag == tag with
  | none => s
  | some r =>
    let s := { s with cmd := { s.cmd with running := s.cmd.running.erase r },
                      ppe := { s.ppe with decodes := s.ppe.decodes.filter fun x => x.id != WorkId.cmd c tag } }
    (s.dropWork (.cmd c tag)).complete r.cmd stEcc

/-- A failed request: a ring or ring control block access puts the context into ERROR (R302). -/
def State.hostFailed (s : State) (target : HostTarget) : State :=
  if !s.powered then s else match target with
    | .ringRead c => s.ctxError c 2
    | .ringWrite c => s.ctxError c 3
    | .buffer c tag => s.bufferFailed c tag

/-- COMPLETION_TIMEOUT (R453). -/
def execCompletionTimeout (t : Nat) (target : HostTarget) (s : State) : Out := .next ((s.advance t).hostFailed target)

/-- HOST_COMPLETION_ERROR (R453): an Unsupported Request, a Completer Abort or a poisoned completion. -/
def execHostCompletionError (t : Nat) (target : HostTarget) (s : State) : Out := .next ((s.advance t).hostFailed target)

/-! ## LPDDR (R456, R457) -/

/-- The channel of an LPDDR address (R456). -/
def lpChannel (a : Nat) : Nat := a / 256 % 16

/-- LPDDR_READ_ECC_ERROR (R457): the read is retried once, and the retry counted; a single-bit error is corrected and counted
instead (log entry 161). -/
def execLpddrReadEccError (t channel addr : Nat) (single : Bool) (s : State) : Out :=
  let s := s.advance t
  .next (if s.powered && s.lnk.lpTrained && channel == lpChannel addr then
      if single then { s with lnk := { s.lnk with lpCe := satInc s.lnk.lpCe } }
      else { s with lnk := { s.lnk with lpRetry := satInc s.lnk.lpRetry } }
    else s)

/-- LPDDR_RETRY_FAIL (R457): the data is poisoned, and LNK_LP_UE records its channel. -/
def execLpddrRetryFail (t channel addr : Nat) (s : State) : Out :=
  let s := s.advance t
  .next (if s.powered && s.lnk.lpTrained && channel == lpChannel addr then
      let w := addr / 64
      { s.recorded 0xF00010 with lnk := { s.lnk with lpUe := recWrite s.lnk.lpUe channel },
                                 cmp := { s.cmp with lpPoison := if s.cmp.lpPoison.contains w then s.cmp.lpPoison else s.cmp.lpPoison ++ [w] } }
    else s)

/-! ## Rolink (R414, R459 to R463) -/

/-- ROLINK_LINK_UP (R414, R460, R461): from HUB_READY on, a port that trains is keyed when the exchange is good and the peer's
DevID hash stands in SYSTEM under its number; a refused peer leaves the port without traffic. -/
def execRolinkLinkUp (t port peer : Nat) (devId : Digest) (keyOk : Bool) (s : State) : Out :=
  let s := s.advance t
  .next (if !s.powered || !s.glob.hubReady || port > 3 || maskBit s.lnk.rolFault port then s
    else if keyOk && s.sec.mram.system[peer]? == some devId then
      { s with lnk := { s.lnk with rolUp := maskSet s.lnk.rolUp port, rolPeer := tblSet 0 s.lnk.rolPeer port peer } }
    else { s with lnk := { s.lnk with rolUp := maskClear s.lnk.rolUp port } })

/-- ROLINK_KEY_RENEW (R414): the keys of a port change without interrupting its traffic; a renewal that fails leaves the port
without keys (log entry 29). -/
def execRolinkKeyRenew (t port : Nat) (ok : Bool) (s : State) : Out :=
  let s := s.advance t
  .next (if s.powered && s.rolOk port && !ok then { s with lnk := { s.lnk with rolUp := maskClear s.lnk.rolUp port } } else s)

/-- ROLINK_FLIT_CRC_FAIL (R463): the flit is resent and the retry counted. -/
def execRolinkFlitCrcFail (port : Nat) (s : State) : Out :=
  .next (if s.powered && s.rolOk port then { s with lnk := { s.lnk with rolRetry := satInc s.lnk.rolRetry } } else s)

/-- ROLINK_RETRY_FAIL (R463): the port is declared faulty. -/
def execRolinkRetryFail (t port : Nat) (s : State) : Out :=
  let s := s.advance t
  .next (if s.powered && s.rolOk port then { s with lnk := { s.lnk with rolFault := maskSet s.lnk.rolFault port } } else s)

/-- ROLINK_FORWARD (R460): a flit for another package leaves again in the slot reserved for it and changes nothing here. -/
def execRolinkForward (port dest : Nat) (s : State) : Out :=
  let _ := (port, dest)
  .next s

/-- REMOTE_ACCESS_RECEIVE (R462): accepted only where the addressed SPA is bound and lies in a slice of the sender's partition;
otherwise the slice's RGN_SP_BOUND_ERR records the refusal with KIND 4 and nothing is written. -/
def execRemoteAccessReceive (t : Nat) (acc : RemoteAcc) (s : State) : Out :=
  let s := s.advance t
  .next (if !s.powered || acc.length = 0 then s
    else if s.spaBound acc.spa acc.length && s.spaOf acc.part acc.spa acc.length then match acc.write with
      | some bs => s.spWrite acc.spa (bytesAt bs 0 acc.length)
      | none => s
    else match s.spaKey acc.spa with
      | some a => s.boundRecord (a / sliceLen) 67 4 (acc.spa % sliceLen)
      | none => s)

/-! ## Clears (R478) -/

/-- LNK_CLEAR.ROL_RETRY. -/
def execLnkClearRolRetry (s : State) : Out :=
  .next (s.hostWrite fun w x => { x with lnk := { x.lnk with rolRetry := sinceMark w.lnk.rolRetry x.lnk.rolRetry } })
/-- LNK_CLEAR.LP_RETRY. -/
def execLnkClearLpRetry (s : State) : Out :=
  .next (s.hostWrite fun w x => { x with lnk := { x.lnk with lpRetry := sinceMark w.lnk.lpRetry x.lnk.lpRetry } })
/-- LNK_CLEAR.LP_CE. -/
def execLnkClearLpCe (s : State) : Out :=
  .next (s.hostWrite fun w x => { x with lnk := { x.lnk with lpCe := sinceMark w.lnk.lpCe x.lnk.lpCe } })

end Sys2Proof.Machine
end

