-- ==== Sys2Proof/Machine/Regs.lean ====
section
/-! DEFINITION. What every register of BAR0 reads as (R13 to R16, R35, R69, R97, R124, R162, R186, R215, R245, R247, R285, R287, R321,
R323, R352 to R357, R396, R421, R446 to R449, R477, R480 to R484): one function for each block, of the offset in the block. -/
namespace Sys2Proof.Machine

/-- A field of a register: `v` modulo 2^w at bit `lo`. -/
def fld (v lo w : Nat) : Nat := v % 2 ^ w * 2 ^ lo

/-! ## Hub blocks -/

/-- GLOBAL (R35, R36). -/
def State.readGlobal (s : State) (o : Nat) : Word :=
  let g := s.glob
  let avail := fun d : Nat => w32 (total ((List.range 16).map fun r => bitAt (s.available (rkey d r)) r))
  match o with
  | 0x00 => s.globalId
  | 0x04 => w32 (fld g.pkgCount.toNat 8 3 + fld g.pkgId.toNat 4 3 + bitAt g.det 0)
  | 0x08 => w32 (bitAt g.modeRefused 8 + bitAt g.loading 5 + bitAt g.safeHold 4 + bitAt g.imageLoaded 3 + bitAt g.die1Up 2 + bitAt g.die0Up 1 + bitAt g.hubReady 0)
  | 0x0C => avail 0
  | 0x10 => avail 1
  | 0x14 => w32 (fld g.lmap.length 8 6 + (if g.die0Up && g.die1Up then fld s.offered.length 0 6 else 0))
  | 0x18 => g.nocRetry0
  | 0x1C => g.nocRetry1
  | 0x20 => g.fault.zeroExtend 32
  | _ => if 0x100 ≤ o ∧ o < 0x180 then s.lmapWord ((o - 0x100) / 4) else 0

/-- CMD_STATUS (R322). -/
def State.cmdStatus (s : State) : Word :=
  let any := s.cmd.ctxs.any fun e => e.2.state == .error
  w32 (fld s.cmd.ctx0Cause.toNat 18 2 + bitAt s.cmd.ctx0Fail 17 + bitAt s.cmd.bootRefused 16 + bitAt any 8 + bitAt ((s.ctx 0).state != .detached) 0)

/-- The serving registers (R163); the selected entry shows as at the latest step boundary (R128). -/
def State.readServing (s : State) (o : Nat) : Word :=
  let x := tblGet {} s.srv.shown s.srv.seqSel.toNat
  match o with
  | 0x800 => w32 (fld (countIf (fun e : Nat × SeqEntry => e.2.slot.isSome) s.srv.ents) 16 13 + fld (countIf (fun e : Nat × SeqEntry => e.2.state != .free) s.srv.ents) 0 13)
  | 0x804 => s.srv.steps
  | 0x808 => s.srv.seqSel.zeroExtend 32
  | 0x80C => w32 (x.status.toNat * 2 ^ 16 + fld x.ctx 8 6 + (if x.state = .free then 0 else fld x.cls 4 2) + x.state.code)
  | 0x810 => w32 (fld x.length 0 18)
  | 0x814 => s.srv.retireCnt
  | 0x818 => s.srv.holdCnt
  | 0x81C => s.srv.flushCnt
  | 0x820 => s.srv.partSel.zeroExtend 32
  | 0x824 => w32 (s.kvLargest s.srv.partSel.toNat)
  | _ => 0

/-- The stream registers (R187); the selected entry shows as at the latest stream-step boundary of its region (R166). -/
def State.readStreams (s : State) (o : Nat) : Word :=
  let x := tblGet {} s.strm.shown s.strm.sel.toNat
  match o with
  | 0x900 => w32 (countIf (fun e : Nat × Strm => e.2.valid) s.strm.ents)
  | 0x904 => w32 (countIf (fun e : Nat × Strm => e.2.resident) s.strm.ents)
  | 0x908 => s.strm.sel.zeroExtend 32
  | 0x90C => w32 (x.status.toNat * 2 ^ 16 + fld x.chunks.length 8 8 + bitAt x.valid 7 + (if x.valid then fld x.cls 4 2 else 0) + bitAt x.faulted 3 +
      bitAt x.image 2 + bitAt x.expavg 1 + bitAt x.resident 0)
  | 0x910 => w32 x.step.toNat
  | 0x914 => s.strm.pinnedCnt
  | 0x918 => s.strm.swapCnt
  | 0x91C => s.strm.resyncCnt
  | 0x920 => s.strm.resyncMiss
  | _ => 0

/-- CMD (R321, R322), with the serving and stream registers. -/
def State.readCmd (s : State) (o : Nat) : Word := match o with
  | 0x00 => s.cmdStatus
  | 0x08 => w32 s.cmd.bootRcb.toNat
  | 0x0C => w32 (s.cmd.bootRcb.toNat / 2 ^ 32)
  | 0x10 => s.loadWord
  | 0x14 => s.cmd.busyCnt
  | 0x18 => s.cmd.fetchCnt
  | 0x1C => s.cmd.refusedCnt
  | _ =>
    if 0x400 ≤ o ∧ o < 0x600 then (if o % 8 = 0 then s.ctxStateWord ((o - 0x400) / 8) else s.ctxCountWord ((o - 0x400) / 8))
    else if 0x800 ≤ o ∧ o < 0x82C then s.readServing o
    else s.readStreams o

/-- The number of a domain state (R286). -/
def DomState.code : DomState → Nat
  | .idle => 0
  | .acquire => 1
  | .run => 2
  | .holdover => 3

/-- The window of a domain in TIME (R286). -/
def State.readDomain (s : State) (d o : Nat) : Word :=
  let x := s.dom d
  match o with
  | 0x00 => w32 (fld x.ztol 28 4 + fld x.discSel 24 4 + fld x.ps 16 5 + fld x.word 13 3 + bitAt x.zsync 12 + fld x.disc 9 2 + fld x.sel 4 5 + fld x.source 0 3)
  | 0x04 => w32 (fld x.owner 8 3 + bitAt x.servo 6 + bitAt x.unref 5 + bitAt x.overspeed 4 + bitAt x.locked 3 + x.state.code)
  | 0x08 => if x.state = .idle then 0 else x.phase s.time.cnt
  | 0x0C => if x.state = .idle then 0 else w32 (fld x.active.period 0 31)
  | 0x10 => w32 x.pcount.toNat
  | 0x14 => BitVec.ofInt 32 x.rate
  | 0x18 => BitVec.ofInt 32 (x.rate / 2 ^ 32)
  | 0x1C => x.snapPhase
  | 0x20 => x.snapNs
  | 0x24 => x.snapSecLo
  | 0x28 => x.snapSecHi
  | 0x2C => x.skipCnt
  | 0x30 => x.holdCnt
  | 0x34 => w32 (fld x.loss 24 8 + (if x.source = 0 then 0 else fld x.maxRate 0 24))
  | _ => 0

/-- TIME (R285, R286). -/
def State.readTime (s : State) (o : Nat) : Word := match o with
  | 0x00 => w32 s.time.cnt
  | 0x04 => s.time.cntHi
  | 0x10 => s.time.event
  | _ => if 0x100 ≤ o ∧ o < 0x300 then s.readDomain ((o - 0x100) / 0x40) (o % 0x40) else 0

/-- SCHED (R287, R288). -/
def State.readSched (s : State) (o : Nat) : Word := match o with
  | 0x00 => w32 (bitAt s.sched.builtin 24 + fld (total ((List.range 8).map fun d => bitAt (s.swapPending d) d)) 16 8 + fld s.poolUsed 0 13)
  | 0x04 => s.sched.bank.zeroExtend 32
  | 0x08 => s.sched.overrunCnt
  | 0x0C => s.sched.earlyCnt
  | 0x10 => s.sched.lateCnt
  | 0x14 => s.sched.missedCnt
  | 0x18 => s.sched.wdErr
  | _ =>
    if 0x100 ≤ o ∧ o < 0x120 then
      let x := s.dom ((o - 0x100) / 4)
      w32 (fld x.active.base 16 12 + fld x.active.entries.length 0 13)
    else 0

/-- The window of a loop slot in CTE (R245, R246). -/
def State.readLoop (s : State) (n o : Nat) : Word :=
  let l := s.loop n
  match o with
  | 0x00 => l.cfg
  | 0x04 => l.stateWord
  | 0x38 => l.ffMap
  | 0x3C => l.io &&& 0xFF00F71F
  | _ => l.coef (o / 4)

/-- CTE (R245, R246). -/
def State.readCte (s : State) (o : Nat) : Word := match o with
  | 0x00 => s.cteStatus
  | 0x04 => s.cte.holdCnt
  | 0x08 => s.cte.staleCnt
  | 0x0C => s.cte.clampCnt
  | 0x10 => s.cte.feCnt
  | 0x14 => s.cte.dualCnt
  | _ =>
    if 0x100 ≤ o ∧ o < 0x140 then (s.group ((o - 0x100) / 4)).word
    else if 0x1000 ≤ o ∧ o < 0x2000 then s.readLoop ((o - 0x1000) / 0x40) (o % 0x40)
    else 0

/-- SLV (R215, R216). -/
def State.readSlv (s : State) (o : Nat) : Word := match o with
  | 0x00 => s.slvLaneRun
  | 0x04 => s.slv.laneFault
  | 0x08 => s.slvAsmStatus
  | 0x0C => s.slv.regCnt
  | 0x10 => s.slv.staleCnt
  | 0x14 => s.slv.missCnt
  | 0x18 => s.slv.nonfinite
  | 0x1C => s.slv.refcapCnt
  | 0x20 => s.slv.measLate
  | 0x24 => s.slv.eccCe
  | 0x28 => s.slv.probSel.zeroExtend 32
  | 0x2C => s.slvProbState
  | 0x30 => (s.prob s.slv.probSel.toNat).runs
  | _ => 0

/-- SAFE_ST_STATE (R397): the age of the oldest slice in ms of 500,000 ticks. -/
def State.stState (s : State) : Word :=
  let l := s.safe.stSel.toNat
  if (s.physOf l).isNone then 0 else
    let x := s.selfTest l
    w32 (bitAt (s.covered l) 31 + fld (min 127 ((s.time.cnt - x.oldest) / 500000)) 16 7 + fld x.next 0 6)

/-- SAFE (R396, R397). SAFE_REACTe keeps its reset value until an image has set the levels (R370). -/
def State.readSafe (s : State) (o : Nat) : Word := match o with
  | 0x00 => s.safeStatus
  | 0x04 => s.safePartState
  | 0x08 => s.safe.cause
  | 0x0C => s.safe.evtCnt
  | 0x10 => s.safe.inj
  | 0x14 => w32 (bitAt s.safe.safeInEn 31 + s.safe.hbPeriod.toNat)
  | 0x18 => s.safe.stSel.zeroExtend 32
  | 0x1C => s.stState
  | 0x20 => s.safe.stAbandon
  | 0x24 => s.safe.stFail
  | 0x28 => s.safe.diagLate
  | 0x2C => s.safe.gfRun
  | 0x30 => s.safe.gfFail
  | _ =>
    if 0x100 ≤ o ∧ o < 0x200 ∧ s.safe.react ≠ [] then
      let e := (o - 0x100) / 4
      w32 (fld ((eventMin e).getD 0) 4 2 + fld (s.reactLevel e) 0 2)
    else 0

/-- SEC (R421, R422). -/
def State.readSec (s : State) (o : Nat) : Word :=
  let m := s.sec.mram
  let active := fun i : Nat => tblGet .unkeyed s.lnk.ide i == .secure
  match o with
  | 0x00 => s.secStatus
  | 0x04 => w32 m.epoch
  | 0x08 => w32 (fld s.sec.reasonR 16 8 + fld s.sec.reasonB 8 8 + fld s.sec.reasonA 0 8)
  | 0x0C => s.sec.svnSel.zeroExtend 32
  | 0x10 => w32 (tblGet 0 m.svn s.sec.svnSel.toNat)
  | 0x14 => s.sec.tamper
  | 0x18 => m.tripCnt
  | 0x1C => w32 (policyFixed.toNat * 2 ^ 8 + m.policy.toNat)
  | 0x20 => s.sec.sigfailCnt
  | 0x24 => w32 (s.lnk.rolUp.toNat * 2 ^ 16 + total ((List.range 8).map fun i => bitAt (active i) (4 + i)) + bitAt (active 8) 0)
  | _ => 0

/-- PWR (R446, R447). -/
def State.readPwr (s : State) (o : Nat) : Word := match o with
  | 0x00 => s.pwrStatus
  | 0x04 => w32 (fld s.pwr.cap 0 17)
  | 0x08 => w32 (fld s.pwr.floor 0 17)
  | 0x0C => w32 (fld s.pwr.pkgMw 0 17)
  | 0x10 => s.pwr.railSel.zeroExtend 32
  | 0x14 => w32 (fld (s.railVi s.pwr.railSel.toNat).1 16 16 + fld (s.railVi s.pwr.railSel.toNat).2 0 16)
  | 0x18 => w32 (BitVec.ofInt 16 s.pwr.tjMax).toNat
  | 0x1C => s.pwrSvc
  | 0x20 => s.repairCnt
  | 0x24 => s.pwr.capExceed
  | 0x28 => w32 (bitAt s.pwr.clkSerdes 2 + bitAt s.pwr.clkDie 1 + bitAt s.pwr.clkHub 0)
  | _ => 0

/-- The window of a camera stream in CAP (R353). -/
def State.readCam (s : State) (i o : Nat) : Word :=
  match ((s.image.map Image.cams).getD []).find? fun c => c.s == i with
  | none => 0
  | some c => match o with
    | 0x0 => w32 (2 ^ 31 + fld c.lanes 28 2 + fld c.port 24 3 + fld c.band 20 2 + fld c.vc 16 4 + fld c.dt 8 6 + fld c.stampDom 4 3 + fld c.mark 0 4)
    | 0x4 => w32 (fld c.height 16 16 + fld c.width 0 16)
    | 0x8 => (tblGet {} s.cap.cams i).last
    | _ => w32 c.maxAge

/-- CAP (R352, R353). -/
def State.readCap (s : State) (o : Nat) : Word := match o with
  | 0x00 => s.cap.portUp.zeroExtend 32
  | 0x04 => s.cap.err
  | 0x08 => s.cap.frameCnt
  | 0x0C => s.cap.staleCnt
  | 0x10 => s.cap.corruptCnt
  | 0x14 => s.cap.eccCe
  | _ =>
    if 0x40 ≤ o ∧ o < 0x60 then match ((s.image.map Image.capPorts).getD []).find? fun c => c.p == (o - 0x40) / 4 with
      | none => 0
      | some c => w32 (2 ^ 31 + fld (if c.lanes = 1 then 0 else if c.lanes = 2 then 1 else 2) 16 2 + fld c.rate 0 9)
    else if 0x100 ≤ o ∧ o < 0x300 then s.readCam ((o - 0x100) / 0x10) (o % 0x10)
    else 0

/-- Whether a band of some stream waits for its conversion. -/
def State.converting (s : State) : Bool := s.cap.cams.any fun e => e.2.frames.any fun f => !f.waiting.isEmpty

/-- PPE (R354, R355). Which lanes convert is the image's compiled choice: a free value while any does (log entry 33). -/
def State.readPpe (s : State) (o : Nat) : Word := match o with
  | 0x00 => w32 (bitAt (!s.ppe.decodes.isEmpty) 4 + (if s.converting then Config.freeNat 33 s.free % 16 else 0))
  | 0x04 => s.ppe.err
  | 0x08 => s.ppe.bandCnt
  | 0x0C => s.ppe.decodeCnt
  | 0x10 => s.ppe.boundsCnt
  | 0x14 => s.ppe.dataerr
  | _ => 0

/-- The window of a CAN FD controller (R356, R357). -/
def State.readCan (s : State) (c o : Nat) : Word :=
  let x := s.can c
  let cfg := ((s.image.map Image.cans).getD []).find? fun k => k.c == c
  match o with
  | 0x04 => x.status
  | 0x08 => (cfg.elim 0 CanCfg.nbt) &&& 0xF8FF7F7F
  | 0x0C => (cfg.elim 0 CanCfg.dbt) &&& 0x1F1F0F0F
  | 0x10 => w32 (bitAt (cfg.elim false CanCfg.tdcEn) 31 + x.tdcv.toNat * 2 ^ 16 + fld (cfg.elim 0 CanCfg.tdco) 0 7)
  | 0x14 => x.err
  | 0x18 => x.abandonCnt
  | 0x1C => x.rxdropCnt
  | 0x20 => x.lateCnt
  | _ =>
    if 0x80 ≤ o ∧ o < 0x100 then
      let q := tblGet {} x.queues ((o - 0x80) / 0x10)
      match o % 0x10 with
      | 0x0 => w32 (fld q.len 16 9 + fld q.base 0 10)
      | 0x4 => q.pi.zeroExtend 32
      | 0x8 => q.ack.zeroExtend 32
      | _ => 0
    else if 0x200 ≤ o ∧ o < 0x600 then
      let y := tblGet {} x.txs ((o - 0x200) / 0x80)
      let k := o % 0x80
      if k = 0 then y.hdr else if k = 4 then y.cmd else if 0x40 ≤ k then tblGet 0 y.words ((k - 0x40) / 4) else 0
    else 0

/-- CAN (R356): the controllers' windows, and the receive entries. -/
def State.readCans (s : State) (o : Nat) : Word :=
  if o < 0x4000 then s.readCan (o / 0x1000) (o % 0x1000)
  else if 0x20000 ≤ o ∧ o < 0xA0000 then w32 (leNat (memRead (s.can ((o - 0x20000) / 0x20000)).store (o % 0x20000) 4))
  else 0

/-- ETH (R477, R478). -/
def State.readEth (s : State) (o : Nat) : Word :=
  if o = 0 then w32 (total ((List.range 6).map fun p => bitAt (s.eth p).link p))
  else if 0x100 ≤ o ∧ o < 0x1C0 then
    let p := (o - 0x100) / 0x20
    let x := s.eth p
    match o % 0x20 with
    | 0x00 => (((s.image.map Image.eths).getD []).find? fun c => c.p == p).elim 0 fun c => (c.cfg &&& 0x333) ||| 0x80000000
    | 0x04 => x.rxCnt
    | 0x08 => x.rxdropCnt
    | 0x0C => x.fcsCnt
    | 0x10 => x.lateCnt
    | _ => 0
  else 0

/-- MIO (R247, R248). -/
def State.readMio (s : State) (o : Nat) : Word :=
  if o = 0 then s.mio.fltState.zeroExtend 32
  else if o = 4 then s.mio.fltSeen.zeroExtend 32
  else if o = 8 then s.mio.encErr
  else if 0x100 ≤ o ∧ o < 0x200 then
    let x := s.enc ((o - 0x100) / 0x10)
    match o % 0x10 with
    | 0x0 => x.cfg &&& 0xFF0F3F0F
    | 0x4 => w32 (fld x.lead 0 16)
    | 0x8 => x.pos
    | _ => x.idx
  else if 0x200 ≤ o ∧ o < 0x280 then
    let x := tblGet {} s.mio.spis ((o - 0x200) / 0x10)
    match o % 0x10 with
    | 0x0 => x.cfg &&& 0xFFFF7F03
    | 0x4 => w32 (fld x.lead 0 16)
    | 0x8 => w32 ((x.words.getD 1 0).toNat * 2 ^ 16 + (x.words.getD 0 0).toNat)
    | _ => 0
  else if 0x400 ≤ o ∧ o < 0x700 then
    let x := tblGet {} s.mio.pwms ((o - 0x400) / 0x10)
    match o % 0x10 with
    | 0x0 => x.cfg &&& 0x00FFFF37
    | 0x4 => x.period.zeroExtend 32
    | 0x8 => x.cmp.zeroExtend 32
    | _ => 0
  else if 0x800 ≤ o ∧ o < 0x840 then tblGet 0 s.mio.flts ((o - 0x800) / 4)
  else 0

/-- SYNC (R323, R324). -/
def State.readSync (s : State) (o : Nat) : Word := match o with
  | 0x00 => w32 (countIf (fun e : Nat × Counter => e.2.state != .free) s.sync.counters)
  | 0x04 => w32 (fld s.sync.waits.length 0 13)
  | 0x08 => s.sync.sel.zeroExtend 32
  | 0x0C => s.syncValue s.sync.sel.toNat
  | 0x10 => s.syncState s.sync.sel.toNat
  | 0x14 => s.sync.underflowCnt
  | 0x18 => s.sync.abandonCnt
  | 0x1C => s.sync.timeoutCnt
  | _ => 0

/-- LNK (R477, R478). -/
def State.readLnk (s : State) (o : Nat) : Word :=
  let x := s.lnk
  match o with
  | 0x00 => w32 (bitAt x.flit 12 + bitAt x.l0 8 + fld x.speed 4 3 + fld x.width 0 4)
  | 0x04 => w32 (bitAt x.lpTrained 31 + fld x.lpFailCh 24 4 + fld x.lpRate 16 4 + fld x.lpCapacity 8 7 + fld x.lpType 0 2)
  | 0x08 => x.lpCe
  | 0x0C => x.lpRetry
  | 0x10 => x.lpUe
  | 0x14 => w32 (x.rolFault.toNat * 2 ^ 24 + x.rolUp.toNat * 2 ^ 16 + total ((List.range 4).map fun p => fld (tblGet 0 x.rolPeer p) (4 * p) 3))
  | 0x18 => x.rolRetry
  | _ => 0

/-! ## Region blocks -/

/-- RGN_ARRAY_STATUS (R98): what each cluster and the region's sequencer do in this cycle. -/
def State.arrayStatus (s : State) (k : Nat) : Nat :=
  let x := s.region k
  let now := s.cycleOf k
  let bits := fun (f : Cluster → Bool) => total ((List.range 4).map fun c => bitAt (f (x.cluster c)) c)
  bits (fun c => c.full now) * 2 ^ 16 + bits (fun c => c.inFlight (latency x.shape x.dirBack) now) * 2 ^ 8 +
    bitAt (decide (now < x.shapeEnd)) 1 + bitAt (x.passes.any RunPass.ready) 0

/-- RGN_MVU_STATUS (R98): the product that runs, or the policy's of one vector in the C0 region. -/
def Region.mvuStatus (x : Region) : Nat :=
  let now := (x.mvus.find? fun p => p.began.isSome && !p.isAttn).map fun p => p.vecs.length
  let v := if x.policy.isSome then some 1 else now
  bitAt x.mvuC0 12 + fld (v.getD 0) 8 4 + fld x.mvuMode 4 3 + bitAt v.isSome 0

/-- RGN_TCORE_RUN_LO and _HI (R98). -/
def State.coresRun (s : State) (k from_ : Nat) : Nat := total ((List.range 32).map fun t => bitAt (s.coreRuns k (from_ + t)) t)

/-- The array, MVU and tile-core registers (R97, R98) and the numeric registers (R69, R70) of a region. -/
def State.readArray (s : State) (k o : Nat) : Word :=
  let x := s.region k
  match o with
  | 0x000 => w32 (bitAt x.dirBack 12 + fld x.interval 8 3 + fld x.mode 4 3 + fld x.shape 0 2)
  | 0x004 => w32 (s.arrayStatus k)
  | 0x008 => w32 (bitAt (x.tcoreFault != 0) 8 + x.parity.toNat)
  | 0x00C => x.swapCnt
  | 0x010 => x.busyCyc
  | 0x014 => x.gateRow
  | 0x018 => w32 (min 0xFFFFFFFF (x.gateCells / 1024))
  | 0x100 => w32 x.mvuStatus
  | 0x104 => x.mvuBusy
  | 0x108 => w32 (bitAt x.mvuParity 0)
  | 0x140 => w32 (s.coresRun k 0)
  | 0x144 => w32 (s.coresRun k 32)
  | 0x148 => w32 x.tcoreFault.toNat
  | 0x14C => w32 (x.tcoreFault.toNat / 2 ^ 32)
  | 0x800 => x.ovfCnt
  | 0x804 => x.lossCnt
  | 0x80C => x.trip
  | 0x810 => x.rerunCnt
  | 0x814 => x.nonfinite
  | _ => 0

/-- The scratchpad registers (R124, R125) and the droop registers (R448, R449) of a region. -/
def State.readPort (s : State) (k o : Nat) : Word :=
  let x := s.port k
  let win := s.winOf k x.winSel.toNat
  match o with
  | 0x400 => w32 (bitAt x.portPending 8 + fld x.portNext 4 3 + fld x.portMode 0 3)
  | 0x404 => x.winSel.zeroExtend 32
  | 0x408 => w32 (fld win.base 0 28)
  | 0x40C => w32 (bitAt win.work.isSome 31 + fld win.bound 0 23)
  | 0x410 => x.boundErr
  | 0x414 => x.boundOfs
  | 0x418 => x.boundCnt
  | 0x41C => x.eccCe
  | 0x420 => x.eccUe
  | 0x424 => w32 (x.agenDone.toNat * 2 ^ 16 + fld x.agenOp 4 3 + bitAt x.agenRun 0)
  | 0x428 => w32 (x.xferDone.toNat * 2 ^ 16 + fld x.xferKind 8 3 + bitAt x.xferRun 0)
  | 0x42C => x.xferErr
  | 0xC00 => w32 (bitAt x.stretched 0)
  | 0xC04 => x.droopCnt
  | 0xC08 => x.cycCount s.time.cnt
  | _ => 0

/-- A region block (R14, R481). -/
def State.readRegion (s : State) (k o : Nat) : Word :=
  if !s.enabled k then 0
  else if (0x400 ≤ o ∧ o < 0x800) ∨ 0xC00 ≤ o then s.readPort k o else s.readArray k o

/-! ## BAR0 -/

/-- A hub block by its number, its base divided by 1 MB (R480). -/
def State.readBlock (s : State) (b o : Nat) : Word := match b with
  | 0 => s.readGlobal o
  | 1 => s.readCmd o
  | 2 => s.readTime o
  | 3 => s.readCte o
  | 4 => s.readSlv o
  | 5 => s.readSafe o
  | 6 => s.readSec o
  | 7 => s.readPwr o
  | 8 => s.readCap o
  | 9 => s.readPpe o
  | 10 => s.readCans o
  | 11 => s.readEth o
  | 12 => s.readMio o
  | 13 => s.readSched o
  | 14 => s.readSync o
  | _ => s.readLnk o

/-- A register by its address in BAR0, a multiple of 4. Addresses from 0x0200_0000 on are reserved. -/
def State.readReg (s : State) (addr : Nat) : Word :=
  if addr < 0x1000000 then s.readBlock (addr / 0x100000) (addr % 0x100000)
  else if addr < 0x2000000 then s.readRegion ((addr - 0x1000000) / 0x80000) (addr % 0x80000)
  else 0

/-- A host read of BAR0 (R13): one that is not an aligned 32-bit access returns ones, any other the register as it stood at the start
of the cycle (R483). -/
def State.readBar (s : State) (addr size : Nat) : Word :=
  if size = 4 ∧ addr % 4 = 0 ∧ addr < 0x4000000 then s.cycleStart.readReg addr else 0xFFFFFFFF

end Sys2Proof.Machine
end

