-- ==== Sys2Proof/Machine/Registers.lean ====
section
/-! DEFINITION. Host writes of BAR0 (R13, R15, R16, R480, R481, R483): the clears of SAFE_CLEAR and PWR_CLEAR (R397, R447), the
selectors, the W1C bits, and every register that has rows of its own, which a write by address reaches through those rows. -/
namespace Sys2Proof.Machine

/-! ## SAFE_CLEAR (R397) and PWR_CLEAR (R447) -/

/-- SAFE_CLEAR.GF_FAIL. -/
def execSafeClearGfFail (s : State) : Out :=
  .next (s.hostWrite fun w x => { x with safe := { x.safe with gfFail := sinceMark w.safe.gfFail x.safe.gfFail } })
/-- SAFE_CLEAR.GF_RUN. -/
def execSafeClearGfRun (s : State) : Out :=
  .next (s.hostWrite fun w x => { x with safe := { x.safe with gfRun := sinceMark w.safe.gfRun x.safe.gfRun } })
/-- SAFE_CLEAR.DIAG_LATE. -/
def execSafeClearDiagLate (s : State) : Out :=
  .next (s.hostWrite fun w x => { x with safe := { x.safe with diagLate := sinceMark w.safe.diagLate x.safe.diagLate } })
/-- SAFE_CLEAR.ST_FAIL. -/
def execSafeClearStFail (s : State) : Out :=
  .next (s.hostWrite fun w x => { x with safe := { x.safe with stFail := sinceMark w.safe.stFail x.safe.stFail } })
/-- SAFE_CLEAR.ST_ABANDON. -/
def execSafeClearStAbandon (s : State) : Out :=
  .next (s.hostWrite fun w x => { x with safe := { x.safe with stAbandon := sinceMark w.safe.stAbandon x.safe.stAbandon } })
/-- SAFE_CLEAR.EVT. -/
def execSafeClearEvt (s : State) : Out :=
  .next (s.hostWrite fun w x => { x with safe := { x.safe with evtCnt := sinceMark w.safe.evtCnt x.safe.evtCnt } })
/-- PWR_CLEAR.CAP_EXCEED. -/
def execPwrClearCapExceed (s : State) : Out :=
  .next (s.hostWrite fun w x => { x with pwr := { x.pwr with capExceed := sinceMark w.pwr.capExceed x.pwr.capExceed } })

/-! ## Writes by address -/

/-- The state that a row's meaning leaves. -/
def State.via (s : State) (f : State → Out) : State := match f s with
  | .next s' => s'
  | _ => s

/-- A write of a clear register: the row of each bit that is written 1, from bit 0 up. -/
def State.clearBits (s : State) (v : Word) (rows : List (State → Out)) : State :=
  (List.foldl (fun (a : State × Nat) f => (if v.getLsbD a.2 then a.1.via f else a.1, a.2 + 1)) (s, 0) rows).1

/-- A record register at an address that is written: whether the cycle has put a record there (R126). -/
def State.w1cRecAt (s : State) (addr : Nat) (old v : Word) : Word := w1cRec (s.records.contains addr) old v

/-- Writes of GLOBAL (R36). -/
def State.writeGlobal (s : State) (o : Nat) (v : Word) : State := match o with
  | 0x04 => s.via (execGlobalModeWrite v)
  | 0x08 => s.hostWrite fun w x => { x with glob := { x.glob with modeRefused := w1cBit w.glob.modeRefused x.glob.modeRefused (v.getLsbD 8) } }
  | 0x20 => s.hostWrite fun w x => { x with glob := { x.glob with fault := w1c w.glob.fault x.glob.fault 0xF (v.truncate 4) } }
  | _ => s

/-- Writes of CMD (R163, R187, R322). CMD_CTRL is written by the rows ATTACH0 and RESET0, which carry what is read. -/
def State.writeCmd (s : State) (o : Nat) (v : Word) : State := match o with
  | 0x000 => s.hostWrite fun w x => { x with cmd := { x.cmd with
      ctx0Fail := w1cBit w.cmd.ctx0Fail x.cmd.ctx0Fail (v.getLsbD 17), bootRefused := w1cBit w.cmd.bootRefused x.cmd.bootRefused (v.getLsbD 16) } }
  | 0x008 => s.via (execBootRcbWrite false v)
  | 0x00C => s.via (execBootRcbWrite true v)
  | 0x020 => s.clearBits v [execCmdClearBusy, execCmdClearFetch, execCmdClearRefused]
  | 0x808 => s.hostWrite fun _ x => { x with srv := { x.srv with seqSel := v.truncate 12 } }
  | 0x820 => s.hostWrite fun _ x => { x with srv := { x.srv with partSel := v.truncate 3 } }
  | 0x828 => s.clearBits v [execCmdSrvClearSteps, execCmdSrvClearHold, execCmdSrvClearFlush, execCmdSrvClearRetire]
  | 0x908 => s.hostWrite fun _ x => { x with strm := { x.strm with sel := v.truncate 16 } }
  | 0x924 => s.clearBits v [execCmdStrmClearPinned, execCmdStrmClearSwap, fun s => .next s, execCmdStrmClearResync]
  | _ => s

/-- Writes of TIME (R286). -/
def State.writeTime (s : State) (o : Nat) (v : Word) : State := match o with
  | 0x08 => s.via (execTimeSnap s.time.cnt v)
  | 0x0C => s.clearBits v [execTimeClearSkip, execTimeClearHold]
  | 0x10 => s.hostWrite fun w x => { x with time := { x.time with event := w1c w.time.event x.time.event 0xFFFFFFFF v } }
  | _ => s

/-- Writes of CTE (R245, R246). -/
def State.writeCte (s : State) (o : Nat) (v : Word) : State :=
  if o = 0 then s.hostWrite fun w x => { x with cte := { x.cte with coefRefused := w1cBit w.cte.coefRefused x.cte.coefRefused (v.getLsbD 8) } }
  else if o = 0x18 then s.clearBits v [execCteClearHold, execCteClearStale, execCteClearClamp, execCteClearFe, execCteClearDual]
  else if 0x1000 ≤ o ∧ o < 0x2000 ∧ 8 ≤ o % 0x40 ∧ o % 0x40 < 0x38 then s.via (execCteCoefRegWrite ((o - 0x1000) / 0x40) (o % 0x40 / 4) v)
  else s

/-- Writes of SLV (R216). -/
def State.writeSlv (s : State) (o : Nat) (v : Word) : State := match o with
  | 0x04 => s.hostWrite fun w x => { x with slv := { x.slv with laneFault := w1c w.slv.laneFault x.slv.laneFault 0xFFFFFFFF v } }
  | 0x28 => s.hostWrite fun _ x => { x with slv := { x.slv with probSel := v.truncate 8 } }
  | 0x34 => s.clearBits v [execSlvClearReg, execSlvClearStale, execSlvClearMiss, execSlvClearNonfinite, execSlvClearRefcap,
      execSlvClearMeasLate, execSlvClearEcc]
  | _ => s

/-- Writes of SAFE (R397). -/
def State.writeSafe (s : State) (o : Nat) (v : Word) : State := match o with
  | 0x08 => s.hostWrite fun _ x => { x with safe := { x.safe with cause := s.w1cRecAt 0x500008 x.safe.cause v } }
  | 0x18 => s.hostWrite fun _ x => { x with safe := { x.safe with stSel := v.truncate 5 } }
  | 0x34 => s.clearBits v [execSafeClearEvt, execSafeClearStAbandon, execSafeClearStFail, execSafeClearDiagLate, execSafeClearGfRun,
      execSafeClearGfFail]
  | _ => s

/-- Writes of SEC (R422). -/
def State.writeSec (s : State) (o : Nat) (v : Word) : State := match o with
  | 0x0C => s.hostWrite fun _ x => { x with sec := { x.sec with svnSel := v.truncate 4 } }
  | 0x14 => s.hostWrite fun _ x => { x with sec := { x.sec with tamper := s.w1cRecAt 0x600014 x.sec.tamper v } }
  | 0x28 => s.clearBits v [execSecClearSigfail]
  | _ => s

/-- Writes of PWR (R447): a rail above 9 is stored as 9. -/
def State.writePwr (s : State) (o : Nat) (v : Word) : State := match o with
  | 0x10 => s.hostWrite fun _ x => { x with pwr := { x.pwr with railSel := BitVec.ofNat 4 (min 9 (v.toNat % 16)) } }
  | 0x2C => s.clearBits v [execPwrClearCapExceed]
  | _ => s

/-- Writes of CAP (R353). -/
def State.writeCap (s : State) (o : Nat) (v : Word) : State := match o with
  | 0x04 => s.hostWrite fun _ x => { x with cap := { x.cap with err := s.w1cRecAt 0x800004 x.cap.err v } }
  | 0x18 => s.clearBits v [execCapClearFrame, execCapClearStale, execCapClearCorrupt, execCapClearEcc]
  | _ => s

/-- Writes of PPE (R355). -/
def State.writePpe (s : State) (o : Nat) (v : Word) : State := match o with
  | 0x04 => s.hostWrite fun _ x => { x with ppe := { x.ppe with err := s.w1cRecAt 0x900004 x.ppe.err v } }
  | 0x18 => s.clearBits v [execPpeClearBand, execPpeClearDecode, execPpeClearBounds, execPpeClearDataerr]
  | _ => s

/-- A write of TXb_CMD: REQ = 1 sends, REQ = 0 cancels (R357). -/
def State.writeTxCmd (s : State) (c b : Nat) (v : Word) : State :=
  if v.getLsbD 31 then s.via (execCanTxReq s.time.cnt c b v) else s.via (execCanTxCancel c b v)

/-- Writes of CAN (R357). -/
def State.writeCan (s : State) (o : Nat) (v : Word) : State :=
  let c := o / 0x1000
  let k := o % 0x1000
  if o ≥ 0x4000 then s
  else if k = 0 then s.clearBits v [execCanRecover c]
  else if k = 0x14 then s.hostWrite (Blocks.onCan c fun w x =>
    { x with err := s.w1cRecAt (canErrAddr c) (w1c w.err x.err 0x300 v) v })
  else if k = 0x24 then s.clearBits v [execCanClearAbandon c, execCanClearRxdrop c, execCanClearLate c]
  else if 0x80 ≤ k ∧ k < 0x100 ∧ k % 0x10 = 8 then s.via (execCanAckWrite c ((k - 0x80) / 0x10) v)
  else if 0x200 ≤ k ∧ k < 0x600 then
    let b := (k - 0x200) / 0x80
    let j := (k - 0x200) % 0x80
    if j = 0 then s.via (execCanTxBufferWrite c b 0 v)
    else if j = 4 then s.writeTxCmd c b v
    else if 0x40 ≤ j then s.via (execCanTxBufferWrite c b ((j - 0x40) / 4 + 1) v)
    else s
  else s

/-- Writes of ETH (R478). -/
def State.writeEth (s : State) (o : Nat) (v : Word) : State :=
  if o = 4 then s.clearBits v [execEthClearRx, execEthClearRxdrop, execEthClearFcs, execEthClearLate] else s

/-- MIO_ENC_ERR written: QERR cleared lets the domains of its port follow again (R248, R263). -/
def State.writeEncErr (s : State) (v : Word) : State :=
  let old := s.mio.encErr
  let s := s.hostWrite fun w x => { x with mio := { x.mio with encErr := w1c w.mio.encErr x.mio.encErr 0xFFFFFFFF v } }
  List.foldl (fun s e => if old.getLsbD e && !s.mio.encErr.getLsbD e then s.qerrCleared e else s) s (List.range 16)

/-- Writes of MIO (R248). -/
def State.writeMio (s : State) (o : Nat) (v : Word) : State :=
  if o = 4 then s.hostWrite fun w x => { x with mio := { x.mio with fltSeen := w1c w.mio.fltSeen x.mio.fltSeen 0xFFFF (v.truncate 16) } }
  else if o = 8 then s.writeEncErr v
  else s

/-- Writes of SCHED (R288). -/
def State.writeSched (s : State) (o : Nat) (v : Word) : State := match o with
  | 0x18 => s.hostWrite fun _ x => { x with sched := { x.sched with wdErr := s.w1cRecAt 0xD00018 x.sched.wdErr v } }
  | 0x1C => s.clearBits v [execSchedClearOverrun, execSchedClearEarly, execSchedClearLate, execSchedClearMissed]
  | _ => s

/-- Writes of SYNC (R324). -/
def State.writeSync (s : State) (o : Nat) (v : Word) : State := match o with
  | 0x08 => s.hostWrite fun _ x => { x with sync := { x.sync with sel := v.truncate 14 } }
  | 0x20 => s.clearBits v [execSyncClearUnderflow, execSyncClearAbandon, execSyncClearTimeout]
  | _ => s

/-- Writes of LNK (R478). -/
def State.writeLnk (s : State) (o : Nat) (v : Word) : State := match o with
  | 0x10 => s.hostWrite fun _ x => { x with lnk := { x.lnk with lpUe := s.w1cRecAt 0xF00010 x.lnk.lpUe v } }
  | 0x1C => s.clearBits v [execLnkClearLpCe, execLnkClearLpRetry, execLnkClearRolRetry]
  | _ => s

/-- The low and the high word of a 64-bit W1C mask: bits written 1 in that half are cleared. -/
def w1cHalf (was old : BitVec 64) (hi : Bool) (v : Word) : BitVec 64 :=
  w1c was old (BitVec.ofNat 64 (2 ^ 64 - 1)) (if hi then BitVec.ofNat 64 (v.toNat * 2 ^ 32) else BitVec.ofNat 64 v.toNat)

/-- Writes of a region block (R70, R98, R125, R449, R481); the window selector stores a slot above 68 as 68. -/
def State.writeRegion (s : State) (d r o : Nat) (v : Word) : State :=
  let k := rkey d r
  match o with
  | 0x008 => s.rgnWrite k fun w x => { x with parity := w1c w.parity x.parity 0xF (v.truncate 4) }
  | 0x01C => s.clearBits v [execRgnArrayClearSwap d r, execRgnArrayClearBusy d r, execRgnArrayClearGate d r]
  | 0x108 => s.rgnWrite k fun w x => { x with mvuParity := w1cBit w.mvuParity x.mvuParity (v.getLsbD 0) }
  | 0x148 => s.rgnWrite k fun w x => { x with tcoreFault := w1cHalf w.tcoreFault x.tcoreFault false v }
  | 0x14C => s.rgnWrite k fun w x => { x with tcoreFault := w1cHalf w.tcoreFault x.tcoreFault true v }
  | 0x404 => s.portWrite k fun _ x => { x with winSel := BitVec.ofNat 7 (min 68 (v.toNat % 128)) }
  | 0x410 => s.portWrite k fun _ x => { x with boundErr := s.w1cRecAt (rgnAddr k + 0x410) x.boundErr v }
  | 0x420 => s.portWrite k fun _ x => { x with eccUe := s.w1cRecAt (rgnAddr k + 0x420) x.eccUe v }
  | 0x42C => s.portWrite k fun _ x => { x with xferErr := s.w1cRecAt (rgnAddr k + 0x42C) x.xferErr v }
  | 0x430 => s.clearBits v [execRgnSpClearBound d r, execRgnSpClearEcc d r, execRgnSpClearXfer d r]
  | 0x808 => s.clearBits v [execRgnNumClearAnchor d r, execRgnNumClearRerun d r, execRgnNumClearNonfinite d r]
  | 0x80C => s.rgnWrite k fun w x => { x with trip := w1cTrip (s.records.contains (rgnAddr k + 0x80C)) w.trip x.trip v }
  | 0xC0C => s.clearBits v [execRgnDroopClearCnt d r, execRgnDroopClearCyc d r]
  | _ => s

/-- Writes of a hub block by its number, its base divided by 1 MB (R480). -/
def State.writeBlock (s : State) (b o : Nat) (v : Word) : State := match b with
  | 0 => s.writeGlobal o v
  | 1 => s.writeCmd o v
  | 2 => s.writeTime o v
  | 3 => s.writeCte o v
  | 4 => s.writeSlv o v
  | 5 => s.writeSafe o v
  | 6 => s.writeSec o v
  | 7 => s.writePwr o v
  | 8 => s.writeCap o v
  | 9 => s.writePpe o v
  | 10 => s.writeCan o v
  | 11 => s.writeEth o v
  | 12 => s.writeMio o v
  | 13 => s.writeSched o v
  | 14 => s.writeSync o v
  | _ => s.writeLnk o v

/-- A write of a register by its address in BAR0, a multiple of 4. -/
def State.writeReg (s : State) (addr : Nat) (v : Word) : State :=
  if addr < 0x1000000 then s.writeBlock (addr / 0x100000) (addr % 0x100000) v
  else if addr < 0x2000000 then
    let k := (addr - 0x1000000) / 0x80000
    s.writeRegion (k / 16) (k % 16) (addr % 0x80000) v
  else s

/-- REGISTER_WRITE (R13, R15, R16, R480): an access that is not an aligned 32-bit word has no effect, a reserved address has none,
and any other register takes the value under its access code. -/
def execRegisterWrite (t addr size : Nat) (value : Word) (s : State) : Out :=
  let s := s.advance t
  .next (if s.powered && size == 4 && addr % 4 == 0 then s.writeReg addr value else s)

end Sys2Proof.Machine
end

