-- ==== Sys2Proof/Machine/Dispatch.lean ====
section
/-! DEFINITION. Which meaning each command and event has: one arm for each constructor. -/
namespace Sys2Proof.Machine

/-- The effect of a command or event on everything but the queue. -/
def exec (i : Instr) (s : State) : Host.Outcome State Fault Refusal :=
  match i with
  | .pwrgoodRise flash => Sys2Proof.Machine.execPwrgoodRise flash s
  | .pwrgoodFall => Sys2Proof.Machine.execPwrgoodFall s
  | .resetNAssert lowNs => Sys2Proof.Machine.execResetNAssert lowNs s
  | .hubReady t fail => Sys2Proof.Machine.execHubReady t fail s
  | .dieUp t die fail bistOk trainOk => Sys2Proof.Machine.execDieUp t die fail bistOk trainOk s
  | .lpddrTrainingDone t kind rate capacity failCh => Sys2Proof.Machine.execLpddrTrainingDone t kind rate capacity failCh s
  | .lpddrZeroFillDone t => Sys2Proof.Machine.execLpddrZeroFillDone t s
  | .perstNDeassert t => Sys2Proof.Machine.execPerstNDeassert t s
  | .pcieLinkUp t width speed flit => Sys2Proof.Machine.execPcieLinkUp t width speed flit s
  | .pcieReset t cause => Sys2Proof.Machine.execPcieReset t cause s
  | .vfFlr t vf => Sys2Proof.Machine.execVfFlr t vf s
  | .numvfsClear t => Sys2Proof.Machine.execNumvfsClear t s
  | .d3hotEntry t => Sys2Proof.Machine.execD3hotEntry t s
  | .registerWrite t addr size value => Sys2Proof.Machine.execRegisterWrite t addr size value s
  | .timeCntLoRead t => Sys2Proof.Machine.execTimeCntLoRead t s
  | .timeSnap t value => Sys2Proof.Machine.execTimeSnap t value s
  | .globalModeWrite value => Sys2Proof.Machine.execGlobalModeWrite value s
  | .attach0 rcb => Sys2Proof.Machine.execAttach0 rcb s
  | .reset0 rcb => Sys2Proof.Machine.execReset0 rcb s
  | .bootRcbWrite hi value => Sys2Proof.Machine.execBootRcbWrite hi value s
  | .cteCoefRegWrite slot index value => Sys2Proof.Machine.execCteCoefRegWrite slot index value s
  | .rgnNumClearNonfinite d r => Sys2Proof.Machine.execRgnNumClearNonfinite d r s
  | .rgnNumClearRerun d r => Sys2Proof.Machine.execRgnNumClearRerun d r s
  | .rgnNumClearAnchor d r => Sys2Proof.Machine.execRgnNumClearAnchor d r s
  | .rgnArrayClearGate d r => Sys2Proof.Machine.execRgnArrayClearGate d r s
  | .rgnArrayClearBusy d r => Sys2Proof.Machine.execRgnArrayClearBusy d r s
  | .rgnArrayClearSwap d r => Sys2Proof.Machine.execRgnArrayClearSwap d r s
  | .rgnSpClearXfer d r => Sys2Proof.Machine.execRgnSpClearXfer d r s
  | .rgnSpClearEcc d r => Sys2Proof.Machine.execRgnSpClearEcc d r s
  | .rgnSpClearBound d r => Sys2Proof.Machine.execRgnSpClearBound d r s
  | .rgnDroopClearCyc d r => Sys2Proof.Machine.execRgnDroopClearCyc d r s
  | .rgnDroopClearCnt d r => Sys2Proof.Machine.execRgnDroopClearCnt d r s
  | .cmdSrvClearRetire => Sys2Proof.Machine.execCmdSrvClearRetire s
  | .cmdSrvClearFlush => Sys2Proof.Machine.execCmdSrvClearFlush s
  | .cmdSrvClearHold => Sys2Proof.Machine.execCmdSrvClearHold s
  | .cmdSrvClearSteps => Sys2Proof.Machine.execCmdSrvClearSteps s
  | .cmdStrmClearResync => Sys2Proof.Machine.execCmdStrmClearResync s
  | .cmdStrmClearSwap => Sys2Proof.Machine.execCmdStrmClearSwap s
  | .cmdStrmClearPinned => Sys2Proof.Machine.execCmdStrmClearPinned s
  | .slvClearEcc => Sys2Proof.Machine.execSlvClearEcc s
  | .slvClearMeasLate => Sys2Proof.Machine.execSlvClearMeasLate s
  | .slvClearRefcap => Sys2Proof.Machine.execSlvClearRefcap s
  | .slvClearNonfinite => Sys2Proof.Machine.execSlvClearNonfinite s
  | .slvClearMiss => Sys2Proof.Machine.execSlvClearMiss s
  | .slvClearStale => Sys2Proof.Machine.execSlvClearStale s
  | .slvClearReg => Sys2Proof.Machine.execSlvClearReg s
  | .cteClearDual => Sys2Proof.Machine.execCteClearDual s
  | .cteClearFe => Sys2Proof.Machine.execCteClearFe s
  | .cteClearClamp => Sys2Proof.Machine.execCteClearClamp s
  | .cteClearStale => Sys2Proof.Machine.execCteClearStale s
  | .cteClearHold => Sys2Proof.Machine.execCteClearHold s
  | .timeClearHold => Sys2Proof.Machine.execTimeClearHold s
  | .timeClearSkip => Sys2Proof.Machine.execTimeClearSkip s
  | .schedClearMissed => Sys2Proof.Machine.execSchedClearMissed s
  | .schedClearLate => Sys2Proof.Machine.execSchedClearLate s
  | .schedClearEarly => Sys2Proof.Machine.execSchedClearEarly s
  | .schedClearOverrun => Sys2Proof.Machine.execSchedClearOverrun s
  | .cmdClearRefused => Sys2Proof.Machine.execCmdClearRefused s
  | .cmdClearFetch => Sys2Proof.Machine.execCmdClearFetch s
  | .cmdClearBusy => Sys2Proof.Machine.execCmdClearBusy s
  | .syncClearTimeout => Sys2Proof.Machine.execSyncClearTimeout s
  | .syncClearAbandon => Sys2Proof.Machine.execSyncClearAbandon s
  | .syncClearUnderflow => Sys2Proof.Machine.execSyncClearUnderflow s
  | .capClearEcc => Sys2Proof.Machine.execCapClearEcc s
  | .capClearCorrupt => Sys2Proof.Machine.execCapClearCorrupt s
  | .capClearStale => Sys2Proof.Machine.execCapClearStale s
  | .capClearFrame => Sys2Proof.Machine.execCapClearFrame s
  | .ppeClearDataerr => Sys2Proof.Machine.execPpeClearDataerr s
  | .ppeClearBounds => Sys2Proof.Machine.execPpeClearBounds s
  | .ppeClearDecode => Sys2Proof.Machine.execPpeClearDecode s
  | .ppeClearBand => Sys2Proof.Machine.execPpeClearBand s
  | .canClearLate ctl => Sys2Proof.Machine.execCanClearLate ctl s
  | .canClearRxdrop ctl => Sys2Proof.Machine.execCanClearRxdrop ctl s
  | .canClearAbandon ctl => Sys2Proof.Machine.execCanClearAbandon ctl s
  | .safeClearGfFail => Sys2Proof.Machine.execSafeClearGfFail s
  | .safeClearGfRun => Sys2Proof.Machine.execSafeClearGfRun s
  | .safeClearDiagLate => Sys2Proof.Machine.execSafeClearDiagLate s
  | .safeClearStFail => Sys2Proof.Machine.execSafeClearStFail s
  | .safeClearStAbandon => Sys2Proof.Machine.execSafeClearStAbandon s
  | .safeClearEvt => Sys2Proof.Machine.execSafeClearEvt s
  | .secClearSigfail => Sys2Proof.Machine.execSecClearSigfail s
  | .pwrClearCapExceed => Sys2Proof.Machine.execPwrClearCapExceed s
  | .lnkClearRolRetry => Sys2Proof.Machine.execLnkClearRolRetry s
  | .lnkClearLpRetry => Sys2Proof.Machine.execLnkClearLpRetry s
  | .lnkClearLpCe => Sys2Proof.Machine.execLnkClearLpCe s
  | .ethClearLate => Sys2Proof.Machine.execEthClearLate s
  | .ethClearFcs => Sys2Proof.Machine.execEthClearFcs s
  | .ethClearRxdrop => Sys2Proof.Machine.execEthClearRxdrop s
  | .ethClearRx => Sys2Proof.Machine.execEthClearRx s
  | .nocFlitCrcFail link => Sys2Proof.Machine.execNocFlitCrcFail link s
  | .nocRetryFail t link => Sys2Proof.Machine.execNocRetryFail t link s
  | .layerPassEnd t pass => Sys2Proof.Machine.execLayerPassEnd t pass s
  | .wideRerunComplete t pass => Sys2Proof.Machine.execWideRerunComplete t pass s
  | .swapRequest d r cluster who => Sys2Proof.Machine.execSwapRequest d r cluster who s
  | .swapStrobe t d r clusters parityBad => Sys2Proof.Machine.execSwapStrobe t d r clusters parityBad s
  | .shapeChange d r shape => Sys2Proof.Machine.execShapeChange d r shape s
  | .directionChange d r backward => Sys2Proof.Machine.execDirectionChange d r backward s
  | .tileCoreHalt t d r tile cause => Sys2Proof.Machine.execTileCoreHalt t d r tile cause s
  | .spAccess t d r acc => Sys2Proof.Machine.execSpAccess t d r acc s
  | .portModeApply t d r => Sys2Proof.Machine.execPortModeApply t d r s
  | .xferStart t d r => Sys2Proof.Machine.execXferStart t d r s
  | .xferComplete t d r h => Sys2Proof.Machine.execXferComplete t d r h s
  | .xferFail t d r status rows => Sys2Proof.Machine.execXferFail t d r status rows s
  | .agenComplete t d r offset => Sys2Proof.Machine.execAgenComplete t d r offset s
  | .seqAdmit c p h => Sys2Proof.Machine.execSeqAdmit c p h s
  | .seqAppend c p h => Sys2Proof.Machine.execSeqAppend c p h s
  | .seqStop c p => Sys2Proof.Machine.execSeqStop c p s
  | .seqQuery c p => Sys2Proof.Machine.execSeqQuery c p s
  | .stepStart t part => Sys2Proof.Machine.execStepStart t part s
  | .stepBoundary t part parks writes => Sys2Proof.Machine.execStepBoundary t part parks writes s
  | .poolWorkListReceive t model work grants => Sys2Proof.Machine.execPoolWorkListReceive t model work grants s
  | .strmOpen c p => Sys2Proof.Machine.execStrmOpen c p s
  | .strmPush c p h => Sys2Proof.Machine.execStrmPush c p h s
  | .strmSwapOut c p => Sys2Proof.Machine.execStrmSwapOut c p s
  | .strmSwapIn c p => Sys2Proof.Machine.execStrmSwapIn c p s
  | .strmClose c p => Sys2Proof.Machine.execStrmClose c p s
  | .strmQuery c p => Sys2Proof.Machine.execStrmQuery c p s
  | .strmState c p h => Sys2Proof.Machine.execStrmState c p h s
  | .streamStepBoundary t lreg model poison => Sys2Proof.Machine.execStreamStepBoundary t lreg model poison s
  | .streamResync t handle torn => Sys2Proof.Machine.execStreamResync t handle torn s
  | .streamSwapComplete t handle failed => Sys2Proof.Machine.execStreamSwapComplete t handle failed s
  | .streamChunkDeadline t handle => Sys2Proof.Machine.execStreamChunkDeadline t handle s
  | .slvSolve c p h => Sys2Proof.Machine.execSlvSolve c p h s
  | .slvParam c p h => Sys2Proof.Machine.execSlvParam c p h s
  | .slvQuery c p => Sys2Proof.Machine.execSlvQuery c p s
  | .slvReset c p => Sys2Proof.Machine.execSlvReset c p s
  | .solverRunStart t slot => Sys2Proof.Machine.execSolverRunStart t slot s
  | .vectorProgramStart t slot => Sys2Proof.Machine.execVectorProgramStart t slot s
  | .measWaitExpire t slot => Sys2Proof.Machine.execMeasWaitExpire t slot s
  | .solverRunComplete t slot ecc => Sys2Proof.Machine.execSolverRunComplete t slot ecc s
  | .solverDeadline t slot => Sys2Proof.Machine.execSolverDeadline t slot s
  | .solverOutputWritten t slot => Sys2Proof.Machine.execSolverOutputWritten t slot s
  | .servo t d e latched => Sys2Proof.Machine.execServo t d e latched s
  | .residualReturn t g res => Sys2Proof.Machine.execResidualReturn t g res s
  | .policyMissing t g => Sys2Proof.Machine.execPolicyMissing t g s
  | .controlLaw t g => Sys2Proof.Machine.execControlLaw t g s
  | .outputPhase t g => Sys2Proof.Machine.execOutputPhase t g s
  | .cteOpen c p => Sys2Proof.Machine.execCteOpen c p s
  | .cteClose c p => Sys2Proof.Machine.execCteClose c p s
  | .cteCoef c p h => Sys2Proof.Machine.execCteCoef c p h s
  | .cteQuery c p => Sys2Proof.Machine.execCteQuery c p s
  | .cteAck c p => Sys2Proof.Machine.execCteAck c p s
  | .encoderEdge t port a b => Sys2Proof.Machine.execEncoderEdge t port a b s
  | .encoderIndexEdge t port => Sys2Proof.Machine.execEncoderIndexEdge t port s
  | .ssiFrameStart t port => Sys2Proof.Machine.execSsiFrameStart t port s
  | .ssiFrameComplete t port bits => Sys2Proof.Machine.execSsiFrameComplete t port bits s
  | .sampleFrameStart t port => Sys2Proof.Machine.execSampleFrameStart t port s
  | .sampleFrameComplete t port lines => Sys2Proof.Machine.execSampleFrameComplete t port lines s
  | .faultInputAssert t f => Sys2Proof.Machine.execFaultInputAssert t f s
  | .faultInputRelease t f => Sys2Proof.Machine.execFaultInputRelease t f s
  | .periodBoundary t d => Sys2Proof.Machine.execPeriodBoundary t d s
  | .task t d e => Sys2Proof.Machine.execTask t d e s
  | .solve t d e => Sys2Proof.Machine.execSolve t d e s
  | .latch t d e => Sys2Proof.Machine.execLatch t d e s
  | .output t d e => Sys2Proof.Machine.execOutput t d e s
  | .fetch t d e reads rings => Sys2Proof.Machine.execFetch t d e reads rings s
  | .slice t d e => Sys2Proof.Machine.execSlice t d e s
  | .golden t d e => Sys2Proof.Machine.execGolden t d e s
  | .selftest t d e guardPassed => Sys2Proof.Machine.execSelftest t d e guardPassed s
  | .taskComplete t work status words => Sys2Proof.Machine.execTaskComplete t work status words s
  | .watchdogLate t d e => Sys2Proof.Machine.execWatchdogLate t d e s
  | .lineStart t stream line => Sys2Proof.Machine.execLineStart t stream line s
  | .frameStart t stream line => Sys2Proof.Machine.execFrameStart t stream line s
  | .frameEnd t stream line => Sys2Proof.Machine.execFrameEnd t stream line s
  | .bandConverted t stream pixels => Sys2Proof.Machine.execBandConverted t stream pixels s
  | .syncInEdge t n => Sys2Proof.Machine.execSyncInEdge t n s
  | .sourceLost t d => Sys2Proof.Machine.execSourceLost t d s
  | .rateWindow t d => Sys2Proof.Machine.execRateWindow t d s
  | .timeExchange t d result => Sys2Proof.Machine.execTimeExchange t d result s
  | .ptpTimeout t inst => Sys2Proof.Machine.execPtpTimeout t inst s
  | .phaseRead c p => Sys2Proof.Machine.execPhaseRead c p s
  | .tblStage c p => Sys2Proof.Machine.execTblStage c p s
  | .tblSwap c p => Sys2Proof.Machine.execTblSwap c p s
  | .domAdj c p => Sys2Proof.Machine.execDomAdj c p s
  | .replyWrite t c rplCi ok => Sys2Proof.Machine.execReplyWrite t c rplCi ok s
  | .busyAgeExpire t c tag => Sys2Proof.Machine.execBusyAgeExpire t c tag s
  | .commandDeadlineExpire t c tag => Sys2Proof.Machine.execCommandDeadlineExpire t c tag s
  | .loadWindow t load => Sys2Proof.Machine.execLoadWindow t load s
  | .ctxAttach c p rcb => Sys2Proof.Machine.execCtxAttach c p rcb s
  | .ctxDetach c p => Sys2Proof.Machine.execCtxDetach c p s
  | .ctxReset c p rcb => Sys2Proof.Machine.execCtxReset c p rcb s
  | .ctxSuspend c p => Sys2Proof.Machine.execCtxSuspend c p s
  | .ctxResume c p => Sys2Proof.Machine.execCtxResume c p s
  | .ctxQuery c p => Sys2Proof.Machine.execCtxQuery c p s
  | .nop c p => Sys2Proof.Machine.execNop c p s
  | .imgLoad c p img => Sys2Proof.Machine.execImgLoad c p img s
  | .imgLoadAccept t => Sys2Proof.Machine.execImgLoadAccept t s
  | .imgLoadComplete t => Sys2Proof.Machine.execImgLoadComplete t s
  | .imgUnload c p => Sys2Proof.Machine.execImgUnload c p s
  | .imgQuery c p => Sys2Proof.Machine.execImgQuery c p s
  | .execTask c p => Sys2Proof.Machine.execExecTask c p s
  | .decodeInputComplete t c tag input => Sys2Proof.Machine.execDecodeInputComplete t c tag input s
  | .memWrite c p h => Sys2Proof.Machine.execMemWrite c p h s
  | .memRead c p => Sys2Proof.Machine.execMemRead c p s
  | .memFill c p => Sys2Proof.Machine.execMemFill c p s
  | .syncCreate c p => Sys2Proof.Machine.execSyncCreate c p s
  | .syncMap c p => Sys2Proof.Machine.execSyncMap c p s
  | .syncUnmap c p => Sys2Proof.Machine.execSyncUnmap c p s
  | .syncSignal c p => Sys2Proof.Machine.execSyncSignal c p s
  | .syncWait c p => Sys2Proof.Machine.execSyncWait c p s
  | .syncWaitTimeout t c tag => Sys2Proof.Machine.execSyncWaitTimeout t c tag s
  | .syncTake c p => Sys2Proof.Machine.execSyncTake c p s
  | .syncInit c p => Sys2Proof.Machine.execSyncInit c p s
  | .syncQuery c p => Sys2Proof.Machine.execSyncQuery c p s
  | .canFrameReceive t ctl frame => Sys2Proof.Machine.execCanFrameReceive t ctl frame s
  | .canFramePresent t ctl => Sys2Proof.Machine.execCanFramePresent t ctl s
  | .canTxResult t ctl result => Sys2Proof.Machine.execCanTxResult t ctl result s
  | .canRecover ctl => Sys2Proof.Machine.execCanRecover ctl s
  | .canRecoveryComplete t ctl => Sys2Proof.Machine.execCanRecoveryComplete t ctl s
  | .canAckWrite ctl q value => Sys2Proof.Machine.execCanAckWrite ctl q value s
  | .canTxReq t ctl b value => Sys2Proof.Machine.execCanTxReq t ctl b value s
  | .canTxCancel ctl b value => Sys2Proof.Machine.execCanTxCancel ctl b value s
  | .canTxBufferWrite ctl b index value => Sys2Proof.Machine.execCanTxBufferWrite ctl b index value s
  | .aliveTimeout t => Sys2Proof.Machine.execAliveTimeout t s
  | .safeInLow t => Sys2Proof.Machine.execSafeInLow t s
  | .heartbeatToggle t => Sys2Proof.Machine.execHeartbeatToggle t s
  | .selftestSliceEnd t d e pass => Sys2Proof.Machine.execSelftestSliceEnd t d e pass s
  | .coverLoss t lreg => Sys2Proof.Machine.execCoverLoss t lreg s
  | .goldenCompare t d e result => Sys2Proof.Machine.execGoldenCompare t d e result s
  | .clockMonitorTrip t clk lockLost => Sys2Proof.Machine.execClockMonitorTrip t clk lockLost s
  | .voltageMonitorTrip t rail millivolts => Sys2Proof.Machine.execVoltageMonitorTrip t rail millivolts s
  | .temperatureTrip t sensor tj16 => Sys2Proof.Machine.execTemperatureTrip t sensor tj16 s
  | .safeQuery c p => Sys2Proof.Machine.execSafeQuery c p s
  | .safeEnter c p => Sys2Proof.Machine.execSafeEnter c p s
  | .safeRelease c p safeIn => Sys2Proof.Machine.execSafeRelease c p safeIn s
  | .safeLogRead c p => Sys2Proof.Machine.execSafeLogRead c p s
  | .tamperTrip t sensor => Sys2Proof.Machine.execTamperTrip t sensor s
  | .drbgReseed t healthOk => Sys2Proof.Machine.execDrbgReseed t healthOk s
  | .nonceLapse t => Sys2Proof.Machine.execNonceLapse t s
  | .secQuery c p => Sys2Proof.Machine.execSecQuery c p s
  | .secNonce c p => Sys2Proof.Machine.execSecNonce c p s
  | .secAttest c p h => Sys2Proof.Machine.execSecAttest c p h s
  | .secLogRead c p => Sys2Proof.Machine.execSecLogRead c p s
  | .secSvnCommit c p auth => Sys2Proof.Machine.execSecSvnCommit c p auth s
  | .secOwnerEnrol c p auth h => Sys2Proof.Machine.execSecOwnerEnrol c p auth h s
  | .secLifecycle c p auth => Sys2Proof.Machine.execSecLifecycle c p auth s
  | .secDebugOpen c p auth => Sys2Proof.Machine.execSecDebugOpen c p auth s
  | .zeroisationComplete t => Sys2Proof.Machine.execZeroisationComplete t s
  | .secTamperPolicy c p auth => Sys2Proof.Machine.execSecTamperPolicy c p auth s
  | .secKeyImport c p auth h => Sys2Proof.Machine.execSecKeyImport c p auth h s
  | .secSystemSet c p auth h => Sys2Proof.Machine.execSecSystemSet c p auth h s
  | .getVersion req => Sys2Proof.Machine.execGetVersion req s
  | .getCapabilities req => Sys2Proof.Machine.execGetCapabilities req s
  | .negotiateAlgorithms req => Sys2Proof.Machine.execNegotiateAlgorithms req s
  | .getDigests req => Sys2Proof.Machine.execGetDigests req s
  | .getCertificate req => Sys2Proof.Machine.execGetCertificate req s
  | .challenge req => Sys2Proof.Machine.execChallenge req s
  | .getMeasurements req => Sys2Proof.Machine.execGetMeasurements req s
  | .keyExchange req => Sys2Proof.Machine.execKeyExchange req s
  | .finish req => Sys2Proof.Machine.execFinish req s
  | .endSession req => Sys2Proof.Machine.execEndSession req s
  | .ideKm req stream => Sys2Proof.Machine.execIdeKm req stream s
  | .ideCheckFail t stream => Sys2Proof.Machine.execIdeCheckFail t stream s
  | .rolinkLinkUp t port peer devId keyOk => Sys2Proof.Machine.execRolinkLinkUp t port peer devId keyOk s
  | .rolinkKeyRenew t port ok => Sys2Proof.Machine.execRolinkKeyRenew t port ok s
  | .rolinkFlitCrcFail port => Sys2Proof.Machine.execRolinkFlitCrcFail port s
  | .rolinkRetryFail t port => Sys2Proof.Machine.execRolinkRetryFail t port s
  | .remoteAccessReceive t acc => Sys2Proof.Machine.execRemoteAccessReceive t acc s
  | .ethFrameReceive t port frame => Sys2Proof.Machine.execEthFrameReceive t port frame s
  | .completionTimeout t target => Sys2Proof.Machine.execCompletionTimeout t target s
  | .hostCompletionError t target => Sys2Proof.Machine.execHostCompletionError t target s
  | .lpddrReadEccError t channel addr single => Sys2Proof.Machine.execLpddrReadEccError t channel addr single s
  | .lpddrRetryFail t channel addr => Sys2Proof.Machine.execLpddrRetryFail t channel addr s
  | .pmbusPollWindow t rails sensors => Sys2Proof.Machine.execPmbusPollWindow t rails sensors s
  | .pmbAlert t faultRails => Sys2Proof.Machine.execPmbAlert t faultRails s
  | .droopTrip t d r => Sys2Proof.Machine.execDroopTrip t d r s
  | .stretchEnd t d r cycles => Sys2Proof.Machine.execStretchEnd t d r cycles s
  | .srvDrain c p => Sys2Proof.Machine.execSrvDrain c p s
  | .drainComplete t part => Sys2Proof.Machine.execDrainComplete t part s
  | .srvRepair c p => Sys2Proof.Machine.execSrvRepair c p s
  | .repairComplete t part found => Sys2Proof.Machine.execRepairComplete t part found s
  | .srvResume c p => Sys2Proof.Machine.execSrvResume c p s
  | .resumeComplete t part storeOk testFail => Sys2Proof.Machine.execResumeComplete t part storeOk testFail s
  | .srvPartLoad c p img => Sys2Proof.Machine.execSrvPartLoad c p img s
  | .srvFwUpdate c p env => Sys2Proof.Machine.execSrvFwUpdate c p env s
  | .fwHandoverTakeover t => Sys2Proof.Machine.execFwHandoverTakeover t s
  | .fwHandoverReturn t => Sys2Proof.Machine.execFwHandoverReturn t s
  | .srvFlashWrite c p env => Sys2Proof.Machine.execSrvFlashWrite c p env s
  | .flashWriteComplete t ok => Sys2Proof.Machine.execFlashWriteComplete t ok s
  | .srvReset c p => Sys2Proof.Machine.execSrvReset c p s
  | .pwrCapSet c p => Sys2Proof.Machine.execPwrCapSet c p s
  | .srvQuery c p => Sys2Proof.Machine.execSrvQuery c p s
  | .tlmOpen c p => Sys2Proof.Machine.execTlmOpen c p s
  | .tlmClose c p => Sys2Proof.Machine.execTlmClose c p s
  | .telemetryRecord t stream samples => Sys2Proof.Machine.execTelemetryRecord t stream samples s
  | .channelDisagree t => Sys2Proof.Machine.execChannelDisagree t s
  | .schedFault t => Sys2Proof.Machine.execSchedFault t s
  | .rolinkCounterSignal t pkg part counter n => Sys2Proof.Machine.execRolinkCounterSignal t pkg part counter n s
  | .rolinkForward port dest => Sys2Proof.Machine.execRolinkForward port dest s
  | .canReceiveError ctl lec => Sys2Proof.Machine.execCanReceiveError ctl lec s
  | .ethLinkChange port up => Sys2Proof.Machine.execEthLinkChange port up s
  | .csiPortChange port up => Sys2Proof.Machine.execCsiPortChange port up s
  | .configurationRequest req => Sys2Proof.Machine.execConfigurationRequest req s

end Sys2Proof.Machine
end

