-- ==== Sys2Proof/Machine/Idle.lean ====
section
/-! DEFINITION. What the part does while nothing is commanded and no event falls. -/
namespace Sys2Proof.Machine

/-- A hub ACLK cycle of two ticks passes (R250); an unpowered part has no clock. -/
def State.idle (s : State) : State := if s.powered then s.advance (s.time.cnt + 2) else s

end Sys2Proof.Machine
end

