-- ==== Sys2Proof/Machine/Pins.lean ====
section
/-! DEFINITION. What the PWM pins show (R239, R240): a view of the state at an instant, in units of 250 ps of the time base. -/
namespace Sys2Proof.Machine

/-- The level of a pin. -/
inductive PinLevel where
  | low | high | hiz
  deriving DecidableEq, Repr

/-- Whether a carrier is high `u` units after its restart (R239): NCAR carriers of PERIOD units, the last one lasting to the next restart;
an up carrier is high for CMP from its start, a centre carrier for CMP in its middle. -/
def carrierHigh (cfg : Word) (period cmp : BitVec 20) (u : Nat) : Bool :=
  let p := period.toNat
  let c := cmp.toNat
  let pos := u - min (u / p) (bitsOf cfg.toNat 16 8 - 1) * p
  if c = 0 then false
  else if c ≥ p then true
  else if cfg.toNat % 4 = 1 then decide (pos < c)
  else cfg.toNat % 4 == 2 && decide ((p - c) / 2 ≤ pos ∧ pos < (p - c) / 2 + c)

/-- Whether an output's own carrier is high at instant `at_`. -/
def Pwm.high (x : Pwm) (at_ : Nat) : Bool :=
  if at_ ≥ 8 * x.restartT then carrierHigh x.cfg x.period x.cmp (at_ - 8 * x.restartT)
  else carrierHigh x.cfg x.period x.prevCmp (at_ - 8 * x.prevT)

/-- The level of SAFE (R240). -/
def safeLevel (cfg : Word) : PinLevel := if bitsOf cfg.toNat 4 2 = 0 then .low else if bitsOf cfg.toNat 4 2 = 1 then .high else .hiz

/-- Whether the pair of an even output is dead (R240): its carrier has changed in the last DEAD × 4 ns, DEAD being that of the odd output. -/
def pairDead (even odd : Pwm) (at_ : Nat) : Bool :=
  (List.range (16 * bitsOf odd.cfg.toNat 8 8)).any fun k => even.high (at_ - k) != even.high (at_ - k - 1)

/-- What a PWM pin shows (R239 to R242). -/
def State.pwmPin (s : State) (o at_ : Nat) : PinLevel :=
  let x := s.pwm o
  match x.drive with
  | .hiz => .hiz
  | .safe => safeLevel x.cfg
  | .run =>
    let even := s.pwm (o / 2 * 2)
    let odd := s.pwm (o / 2 * 2 + 1)
    let on := if odd.cfg.getLsbD 2 then !pairDead even odd at_ && (even.high at_ != decide (o % 2 = 1)) else x.high at_
    if on then .high else .low

end Sys2Proof.Machine
end

