-- ==== Sys2Proof/Safety.lean ====
section
/-! DEFINITION. The terms that claims use: when a command starts and what it leaves, what a step may not change, and what holds of
every state. -/
namespace Sys2Proof.Machine

/-! ## Commands (R296, R298) -/

/-- The command at `p` of context `c` starts now: its context is ATTACHED, it is the context's next command in fetch order and has not waited
for too long, or can be fetched in this cycle and finds its pending queue not full, no FENCE and no control command holds it back, its host
buffer can be reached, and no check before its own refuses it (R296, R298, R299, R309 to R311, R416, R453). -/
def State.Starts (s : State) (c : Nat) (p : Packet) (op : Nat) : Prop :=
  s.powered = true ∧ p.opcode.toNat = op ∧ (s.ctx c).state = .attached ∧ s.startCheck p none = none ∧
  (controlFamily op = true ∨ s.controlWaits = false) ∧ (s.ctxDead c && hostBuffer op p) = false ∧
  ((∃ q, s.headOf c = some q ∧ q.packet = p ∧ s.fenceOk c q.cmd.uid p = true ∧ s.aged q = false) ∨
   (s.headOf c = none ∧ s.mayFetch c = true ∧ s.fenceOk c s.cmd.nextUid p = true ∧ s.headerCheck p = none ∧ s.ctxDead c = false ∧
    (controlFamily op && s.controlFull) = false ∧ ∀ cls, s.queueFull c cls p = false))

/-- The state in which the effect of a command that starts is computed, and the command as the part refers to it: it has left the
queue, or has been fetched. `cls` is the class it runs in (R304). -/
def State.begin_ (s : State) (c : Nat) (p : Packet) (cls : Nat) : State × CmdRef :=
  match s.headOf c with
  | some q => ({ s with cmd := { s.cmd with queue := s.cmd.queue.erase q } }, { q.cmd with cls := cls })
  | none => s.fetchOne c p cls

/-- What a command leaves that does nothing but complete with a status and result words. -/
def State.replied (s : State) (c : Nat) (p : Packet) (cls : Nat) (st : Status) (words : List Word) : State :=
  (s.begin_ c p cls).1.complete (s.begin_ c p cls).2 st words

/-! ## What does not change -/

/-- Everything but the command processor is unchanged: the rings, replies and counts of contexts may change. -/
def SameButCmd (s t : State) : Prop := t = { s with cmd := t.cmd }

/-- Everything but the time counter, and what the part notes of the cycle that runs, is unchanged. -/
def SameButTime (s t : State) : Prop := t = { s with time := { s.time with cnt := t.time.cnt }, mark := t.mark, records := t.records }

/-! ## Invariants -/

/-- The four memories of State are in canonical form. -/
def State.MemOk (s : State) : Prop :=
  Memory.wf s.cmp.sp = true ∧ Memory.wf s.cmp.lp = true ∧ Memory.wf s.hostMem = true ∧ Memory.wf s.hubMem = true

/-- A safety pin is high only where R376 lets it: after the first image load, outside SAFE_HOLD, outside package safe state, and with
no partition of SAFE_PIN_MASK in safe state. -/
def State.PinsOk (s : State) : Prop := (s.safe.outA = true ∨ s.safe.outB = true) → s.pinLevel = true

end Sys2Proof.Machine
end

