-- ==== Sys2Proof/Certificates/Slice0/Obligations.lean ====
section
/-! DEFINITION. The statements for the provers: what the numbered rules of the spec say that commands and events do. Each says which
forms run, what they leave, and what they do not change. `exec i s = .next t` is the completion of an event or command. -/
open Sys2Proof Sys2Proof.Machine


/-! ## The step -/

/-- A step runs the command at the front of the queue on the state with the queue's rest, whatever it is. -/
def Obligations.StepRunsFront : Prop :=
  ∀ (s : State) (i : Instr) (rest : List Instr),
    step { s with pending := i :: rest } = exec i { s with pending := rest }

/-- Every command and event is answered with a next state, whatever the state: the spec stops none. -/
def Claims.AllComplete : Prop :=
  ∀ (i : Instr) (s : State), ∃ u : State, exec i s = .next u

/-- What a command or event does never adds to the queue of the commands that wait, or takes from it; a step takes its front alone. -/
def Claims.QueueKept : Prop :=
  ∀ (i : Instr) (s u : State), exec i s = .next u → u.pending = s.pending

/-- On an empty queue a powered part lets one hub ACLK cycle of two ticks pass, whose start the blocks then are, and changes nothing else; an unpowered one changes
nothing. The idle step is the model's choice (log entry 1). -/
def Claims.StepIdles : Prop :=
  ∀ s : State, s.pending = [] →
    (s.powered = true → ∃ t, step s = .next t ∧ t.time.cnt = s.time.cnt + 2 ∧ t.mark = s.toBlocks ∧ t.records = [] ∧ SameButTime s t) ∧
    (s.powered = false → step s = .next s)

/-- Every command is answered with a next state and leaves the queue's rest as it is; an empty queue lets a cycle pass. -/
def Obligations.StepsAnswer : Prop :=
  Claims.AllComplete ∧ Claims.QueueKept ∧ Claims.StepIdles

/-- After reset the counter is 0, D0 runs the built-in table of one FETCH entry with period 20,000 and RATE 2, every other domain is
IDLE, every context is DETACHED, every counter FREE, no queue holds anything, the safety pins and HEARTBEAT are low, no image is
loaded, and T is 0 under a cap of 75 W. -/
def Claims.ResetState : Prop :=
  let s := State.reset
  s.time.cnt = 0 ∧ (s.dom 0).state = .run ∧ (s.dom 0).source = 0 ∧ (s.dom 0).active.period = 20000 ∧ (s.dom 0).rate = 2 * 2 ^ 48 ∧
  (s.dom 0).active.entries.map Entry.action = [5] ∧ s.sched.builtin = true ∧
  (∀ d, d ≠ 0 → (s.dom d).state = .idle) ∧ (∀ c, (s.ctx c).state = .detached) ∧ (∀ k, (s.counter k).state = .free) ∧
  s.pending = [] ∧ s.cmd.queue = [] ∧ s.sync.waits = [] ∧
  s.safe.outA = false ∧ s.safe.outB = false ∧ s.safe.heartbeat = false ∧ s.image = none ∧ s.glob.imageLoaded = false ∧
  s.pwr.throttle = 0 ∧ s.pwr.cap = 75000 ∧ s.pwr.drained = 0

/-- The invariants hold at reset. -/
def Claims.ResetInvariants : Prop := State.reset.MemOk ∧ State.reset.PinsOk

/-- The machine after reset, and the invariants there. -/
def Obligations.StateAfterReset : Prop :=
  Claims.ResetState ∧ Claims.ResetInvariants

/-- A command clears a counter of the blocks: what remains is what the counter has counted in the cycle of the clear (R71), which is 0
where it has not changed in that cycle; the copy of the cycle's start that a read of this cycle shows is 0. Nothing else changes. -/
def Claims.Clears (s : State) (i : Instr) (get : Blocks → Word) (set : Blocks → Word → Blocks) : Prop :=
  ∃ left : Word, exec i s = .next { s with toBlocks := set s.toBlocks left, mark := set s.mark 0 } ∧
    (get s.mark = get s.toBlocks → left = 0) ∧ ((get s.mark).toNat ≤ (get s.toBlocks).toNat → left = get s.toBlocks - get s.mark) ∧
    ((get s.toBlocks).toNat < (get s.mark).toNat → left = get s.toBlocks)

/-- A command clears registers of the region `k`: the region, and its copy of the cycle's start, become what `f` makes of them, and nothing
else changes. -/
def Claims.ClearsRegion (s : State) (i : Instr) (k : Nat) (f : Region → Region → Region) : Prop :=
  ∃ u, exec i s = .next u ∧
    (∀ j, u.region j = if j = k then f (tblGet {} s.mark.cmp.regions k) (s.region k) else s.region j) ∧
    (∀ j, tblGet {} u.mark.cmp.regions j =
      if j = k then f (tblGet {} s.mark.cmp.regions k) (tblGet {} s.mark.cmp.regions k) else tblGet {} s.mark.cmp.regions j) ∧
    u = { s with cmp := { s.cmp with regions := u.cmp.regions },
                 mark := { s.mark with cmp := { s.mark.cmp with regions := u.mark.cmp.regions } } }

/-- The same for the scratchpad and droop registers of the region. -/
def Claims.ClearsPort (s : State) (i : Instr) (k : Nat) (f : RegionSp → RegionSp → RegionSp) : Prop :=
  ∃ u, exec i s = .next u ∧
    (∀ j, u.port j = if j = k then f (tblGet {} s.mark.cmp.ports k) (s.port k) else s.port j) ∧
    (∀ j, tblGet {} u.mark.cmp.ports j =
      if j = k then f (tblGet {} s.mark.cmp.ports k) (tblGet {} s.mark.cmp.ports k) else tblGet {} s.mark.cmp.ports j) ∧
    u = { s with cmp := { s.cmp with ports := u.cmp.ports },
                 mark := { s.mark with cmp := { s.mark.cmp with ports := u.mark.cmp.ports } } }

/-- Each clear of a region's registers leaves of the counters it names what they have counted in the cycle of the clear, 0 where they have
not changed in it (R71), in the block of an enabled region, and changes nothing else; the block of a region that the grade does not
enable ignores it (R481). -/
def Claims.RegionClears : Prop :=
  (∀ (n : Nat) (a b : BitVec n), sinceMark a a = 0 ∧ (a.toNat ≤ b.toNat → sinceMark a b = b - a) ∧ (b.toNat < a.toNat → sinceMark a b = b)) ∧
  ∀ (s : State) (d r : Nat), s.powered = true →
    (s.enabled (rkey d r) = true →
      Claims.ClearsRegion s (.rgnNumClearNonfinite d r) (rkey d r) (fun w x => { x with nonfinite := sinceMark w.nonfinite x.nonfinite }) ∧
      Claims.ClearsRegion s (.rgnNumClearRerun d r) (rkey d r) (fun w x => { x with rerunCnt := sinceMark w.rerunCnt x.rerunCnt }) ∧
      Claims.ClearsRegion s (.rgnNumClearAnchor d r) (rkey d r)
        (fun w x => { x with ovfCnt := sinceMark w.ovfCnt x.ovfCnt, lossCnt := sinceMark w.lossCnt x.lossCnt }) ∧
      Claims.ClearsRegion s (.rgnArrayClearGate d r) (rkey d r)
        (fun w x => { x with gateRow := sinceMark w.gateRow x.gateRow, gateCells := sinceNat w.gateCells x.gateCells }) ∧
      Claims.ClearsRegion s (.rgnArrayClearBusy d r) (rkey d r)
        (fun w x => { x with busyCyc := sinceMark w.busyCyc x.busyCyc, mvuBusy := sinceMark w.mvuBusy x.mvuBusy }) ∧
      Claims.ClearsRegion s (.rgnArrayClearSwap d r) (rkey d r) (fun w x => { x with swapCnt := sinceMark w.swapCnt x.swapCnt }) ∧
      Claims.ClearsPort s (.rgnSpClearXfer d r) (rkey d r)
        (fun w x => { x with xferDone := sinceMark w.xferDone x.xferDone, agenDone := sinceMark w.agenDone x.agenDone }) ∧
      Claims.ClearsPort s (.rgnSpClearEcc d r) (rkey d r) (fun w x => { x with eccCe := sinceMark w.eccCe x.eccCe }) ∧
      Claims.ClearsPort s (.rgnSpClearBound d r) (rkey d r) (fun w x => { x with boundCnt := sinceMark w.boundCnt x.boundCnt }) ∧
      Claims.ClearsPort s (.rgnDroopClearCyc d r) (rkey d r) (fun w x => { x with
        stretchCyc := sinceMark (w.cycCount (s.time.cnt / 2 * 2)) (x.cycCount s.time.cnt), dropCyc := x.runCyc s.time.cnt }) ∧
      Claims.ClearsPort s (.rgnDroopClearCnt d r) (rkey d r) (fun w x => { x with droopCnt := sinceMark w.droopCnt x.droopCnt })) ∧
    (s.enabled (rkey d r) = false →
      ∀ i ∈ [Instr.rgnNumClearNonfinite d r, .rgnNumClearRerun d r, .rgnNumClearAnchor d r, .rgnArrayClearGate d r,
             .rgnArrayClearBusy d r, .rgnArrayClearSwap d r, .rgnSpClearXfer d r, .rgnSpClearEcc d r, .rgnSpClearBound d r,
             .rgnDroopClearCyc d r, .rgnDroopClearCnt d r], exec i s = .next s)

/-- Each clear of the serving, stream, command and synchronisation registers clears the counter it names, and changes nothing else. -/
def Claims.CommandClears : Prop :=
  ∀ s : State, s.powered = true →
    Claims.Clears s .cmdSrvClearRetire (fun b => b.srv.retireCnt) (fun b v => { b with srv := { b.srv with retireCnt := v } }) ∧
    Claims.Clears s .cmdSrvClearFlush (fun b => b.srv.flushCnt) (fun b v => { b with srv := { b.srv with flushCnt := v } }) ∧
    Claims.Clears s .cmdSrvClearHold (fun b => b.srv.holdCnt) (fun b v => { b with srv := { b.srv with holdCnt := v } }) ∧
    Claims.Clears s .cmdSrvClearSteps (fun b => b.srv.steps) (fun b v => { b with srv := { b.srv with steps := v } }) ∧
    (∃ (a b : Word) (u : State), exec .cmdStrmClearResync s = .next u ∧
      u = { s with strm := { s.strm with resyncCnt := a, resyncMiss := b },
                   mark := { s.mark with strm := { s.mark.strm with resyncCnt := 0, resyncMiss := 0 } } } ∧
      (s.mark.strm.resyncCnt.toNat ≤ s.strm.resyncCnt.toNat → a = s.strm.resyncCnt - s.mark.strm.resyncCnt) ∧
      (s.mark.strm.resyncMiss.toNat ≤ s.strm.resyncMiss.toNat → b = s.strm.resyncMiss - s.mark.strm.resyncMiss)) ∧
    Claims.Clears s .cmdStrmClearSwap (fun b => b.strm.swapCnt) (fun b v => { b with strm := { b.strm with swapCnt := v } }) ∧
    Claims.Clears s .cmdStrmClearPinned (fun b => b.strm.pinnedCnt) (fun b v => { b with strm := { b.strm with pinnedCnt := v } }) ∧
    Claims.Clears s .cmdClearRefused (fun b => b.cmd.refusedCnt) (fun b v => { b with cmd := { b.cmd with refusedCnt := v } }) ∧
    Claims.Clears s .cmdClearFetch (fun b => b.cmd.fetchCnt) (fun b v => { b with cmd := { b.cmd with fetchCnt := v } }) ∧
    Claims.Clears s .cmdClearBusy (fun b => b.cmd.busyCnt) (fun b v => { b with cmd := { b.cmd with busyCnt := v } }) ∧
    Claims.Clears s .syncClearTimeout (fun b => b.sync.timeoutCnt) (fun b v => { b with sync := { b.sync with timeoutCnt := v } }) ∧
    Claims.Clears s .syncClearAbandon (fun b => b.sync.abandonCnt) (fun b v => { b with sync := { b.sync with abandonCnt := v } }) ∧
    Claims.Clears s .syncClearUnderflow (fun b => b.sync.underflowCnt) (fun b v => { b with sync := { b.sync with underflowCnt := v } })

/-- Each clear of the solver, control-engine, time and schedule registers clears the counter it names (TIME_CLEAR in every domain), and
changes nothing else. -/
def Claims.TimingClears : Prop :=
  ∀ s : State, s.powered = true →
    Claims.Clears s .slvClearEcc (fun b => b.slv.eccCe) (fun b v => { b with slv := { b.slv with eccCe := v } }) ∧
    Claims.Clears s .slvClearMeasLate (fun b => b.slv.measLate) (fun b v => { b with slv := { b.slv with measLate := v } }) ∧
    Claims.Clears s .slvClearRefcap (fun b => b.slv.refcapCnt) (fun b v => { b with slv := { b.slv with refcapCnt := v } }) ∧
    Claims.Clears s .slvClearNonfinite (fun b => b.slv.nonfinite) (fun b v => { b with slv := { b.slv with nonfinite := v } }) ∧
    Claims.Clears s .slvClearMiss (fun b => b.slv.missCnt) (fun b v => { b with slv := { b.slv with missCnt := v } }) ∧
    Claims.Clears s .slvClearStale (fun b => b.slv.staleCnt) (fun b v => { b with slv := { b.slv with staleCnt := v } }) ∧
    Claims.Clears s .slvClearReg (fun b => b.slv.regCnt) (fun b v => { b with slv := { b.slv with regCnt := v } }) ∧
    Claims.Clears s .cteClearDual (fun b => b.cte.dualCnt) (fun b v => { b with cte := { b.cte with dualCnt := v } }) ∧
    Claims.Clears s .cteClearFe (fun b => b.cte.feCnt) (fun b v => { b with cte := { b.cte with feCnt := v } }) ∧
    Claims.Clears s .cteClearClamp (fun b => b.cte.clampCnt) (fun b v => { b with cte := { b.cte with clampCnt := v } }) ∧
    Claims.Clears s .cteClearStale (fun b => b.cte.staleCnt) (fun b v => { b with cte := { b.cte with staleCnt := v } }) ∧
    Claims.Clears s .cteClearHold (fun b => b.cte.holdCnt) (fun b v => { b with cte := { b.cte with holdCnt := v } }) ∧
    Claims.Clears s .schedClearMissed (fun b => b.sched.missedCnt) (fun b v => { b with sched := { b.sched with missedCnt := v } }) ∧
    Claims.Clears s .schedClearLate (fun b => b.sched.lateCnt) (fun b v => { b with sched := { b.sched with lateCnt := v } }) ∧
    Claims.Clears s .schedClearEarly (fun b => b.sched.earlyCnt) (fun b v => { b with sched := { b.sched with earlyCnt := v } }) ∧
    Claims.Clears s .schedClearOverrun (fun b => b.sched.overrunCnt) (fun b v => { b with sched := { b.sched with overrunCnt := v } }) ∧
    (∃ u, exec .timeClearHold s = .next u ∧
      (∀ d, u.dom d = if d < 8 then { s.dom d with holdCnt := sinceMark (tblGet {} s.mark.time.doms d).holdCnt (s.dom d).holdCnt } else s.dom d) ∧
      (∀ d, tblGet {} u.mark.time.doms d = if d < 8 then { tblGet {} s.mark.time.doms d with holdCnt := 0 } else tblGet {} s.mark.time.doms d) ∧
      u = { s with time := { s.time with doms := u.time.doms }, mark := { s.mark with time := { s.mark.time with doms := u.mark.time.doms } } }) ∧
    (∃ u, exec .timeClearSkip s = .next u ∧
      (∀ d, u.dom d = if d < 8 then { s.dom d with skipCnt := sinceMark (tblGet {} s.mark.time.doms d).skipCnt (s.dom d).skipCnt } else s.dom d) ∧
      (∀ d, tblGet {} u.mark.time.doms d = if d < 8 then { tblGet {} s.mark.time.doms d with skipCnt := 0 } else tblGet {} s.mark.time.doms d) ∧
      u = { s with time := { s.time with doms := u.time.doms }, mark := { s.mark with time := { s.mark.time with doms := u.mark.time.doms } } })

/-- Each clear of the capture, pre-processing, CAN FD, Ethernet and link registers clears the counter it names (ETH_CLEAR on every port),
and changes nothing else. -/
def Claims.PortClears : Prop :=
  ∀ (s : State) (c : Nat), s.powered = true →
    Claims.Clears s .capClearEcc (fun b => b.cap.eccCe) (fun b v => { b with cap := { b.cap with eccCe := v } }) ∧
    Claims.Clears s .capClearCorrupt (fun b => b.cap.corruptCnt) (fun b v => { b with cap := { b.cap with corruptCnt := v } }) ∧
    Claims.Clears s .capClearStale (fun b => b.cap.staleCnt) (fun b v => { b with cap := { b.cap with staleCnt := v } }) ∧
    Claims.Clears s .capClearFrame (fun b => b.cap.frameCnt) (fun b v => { b with cap := { b.cap with frameCnt := v } }) ∧
    Claims.Clears s .ppeClearDataerr (fun b => b.ppe.dataerr) (fun b v => { b with ppe := { b.ppe with dataerr := v } }) ∧
    Claims.Clears s .ppeClearBounds (fun b => b.ppe.boundsCnt) (fun b v => { b with ppe := { b.ppe with boundsCnt := v } }) ∧
    Claims.Clears s .ppeClearDecode (fun b => b.ppe.decodeCnt) (fun b v => { b with ppe := { b.ppe with decodeCnt := v } }) ∧
    Claims.Clears s .ppeClearBand (fun b => b.ppe.bandCnt) (fun b v => { b with ppe := { b.ppe with bandCnt := v } }) ∧
    Claims.Clears s .lnkClearRolRetry (fun b => b.lnk.rolRetry) (fun b v => { b with lnk := { b.lnk with rolRetry := v } }) ∧
    Claims.Clears s .lnkClearLpRetry (fun b => b.lnk.lpRetry) (fun b v => { b with lnk := { b.lnk with lpRetry := v } }) ∧
    Claims.Clears s .lnkClearLpCe (fun b => b.lnk.lpCe) (fun b v => { b with lnk := { b.lnk with lpCe := v } }) ∧
    (∃ u, exec (.canClearLate c) s = .next u ∧
      (∀ n, u.can n = if n = c then { s.can c with lateCnt := sinceMark (tblGet {} s.mark.cans c).lateCnt (s.can c).lateCnt } else s.can n) ∧
      (∀ n, tblGet {} u.mark.cans n = if n = c then { tblGet {} s.mark.cans c with lateCnt := 0 } else tblGet {} s.mark.cans n) ∧
      u = { s with cans := u.cans, mark := { s.mark with cans := u.mark.cans } }) ∧
    (∃ u, exec (.canClearRxdrop c) s = .next u ∧
      (∀ n, u.can n = if n = c then { s.can c with rxdropCnt := sinceMark (tblGet {} s.mark.cans c).rxdropCnt (s.can c).rxdropCnt } else s.can n) ∧
      (∀ n, tblGet {} u.mark.cans n = if n = c then { tblGet {} s.mark.cans c with rxdropCnt := 0 } else tblGet {} s.mark.cans n) ∧
      u = { s with cans := u.cans, mark := { s.mark with cans := u.mark.cans } }) ∧
    (∃ u, exec (.canClearAbandon c) s = .next u ∧
      (∀ n, u.can n = if n = c then { s.can c with abandonCnt := sinceMark (tblGet {} s.mark.cans c).abandonCnt (s.can c).abandonCnt } else s.can n) ∧
      (∀ n, tblGet {} u.mark.cans n = if n = c then { tblGet {} s.mark.cans c with abandonCnt := 0 } else tblGet {} s.mark.cans n) ∧
      u = { s with cans := u.cans, mark := { s.mark with cans := u.mark.cans } }) ∧
    (∃ u, exec .ethClearLate s = .next u ∧
      (∀ p, u.eth p = if p < 6 then { s.eth p with lateCnt := sinceMark (tblGet {} s.mark.eths p).lateCnt (s.eth p).lateCnt } else s.eth p) ∧
      (∀ p, tblGet {} u.mark.eths p = if p < 6 then { tblGet {} s.mark.eths p with lateCnt := 0 } else tblGet {} s.mark.eths p) ∧
      u = { s with eths := u.eths, mark := { s.mark with eths := u.mark.eths } }) ∧
    (∃ u, exec .ethClearFcs s = .next u ∧
      (∀ p, u.eth p = if p < 6 then { s.eth p with fcsCnt := sinceMark (tblGet {} s.mark.eths p).fcsCnt (s.eth p).fcsCnt } else s.eth p) ∧
      (∀ p, tblGet {} u.mark.eths p = if p < 6 then { tblGet {} s.mark.eths p with fcsCnt := 0 } else tblGet {} s.mark.eths p) ∧
      u = { s with eths := u.eths, mark := { s.mark with eths := u.mark.eths } }) ∧
    (∃ u, exec .ethClearRxdrop s = .next u ∧
      (∀ p, u.eth p = if p < 6 then { s.eth p with rxdropCnt := sinceMark (tblGet {} s.mark.eths p).rxdropCnt (s.eth p).rxdropCnt } else s.eth p) ∧
      (∀ p, tblGet {} u.mark.eths p = if p < 6 then { tblGet {} s.mark.eths p with rxdropCnt := 0 } else tblGet {} s.mark.eths p) ∧
      u = { s with eths := u.eths, mark := { s.mark with eths := u.mark.eths } }) ∧
    (∃ u, exec .ethClearRx s = .next u ∧
      (∀ p, u.eth p = if p < 6 then { s.eth p with rxCnt := sinceMark (tblGet {} s.mark.eths p).rxCnt (s.eth p).rxCnt } else s.eth p) ∧
      (∀ p, tblGet {} u.mark.eths p = if p < 6 then { tblGet {} s.mark.eths p with rxCnt := 0 } else tblGet {} s.mark.eths p) ∧
      u = { s with eths := u.eths, mark := { s.mark with eths := u.mark.eths } })

/-- Each clear of the safety, security and power registers clears the counter it names, and changes nothing else. -/
def Claims.SupervisorClears : Prop :=
  ∀ s : State, s.powered = true →
    Claims.Clears s .safeClearGfFail (fun b => b.safe.gfFail) (fun b v => { b with safe := { b.safe with gfFail := v } }) ∧
    Claims.Clears s .safeClearGfRun (fun b => b.safe.gfRun) (fun b v => { b with safe := { b.safe with gfRun := v } }) ∧
    Claims.Clears s .safeClearDiagLate (fun b => b.safe.diagLate) (fun b v => { b with safe := { b.safe with diagLate := v } }) ∧
    Claims.Clears s .safeClearStFail (fun b => b.safe.stFail) (fun b v => { b with safe := { b.safe with stFail := v } }) ∧
    Claims.Clears s .safeClearStAbandon (fun b => b.safe.stAbandon) (fun b v => { b with safe := { b.safe with stAbandon := v } }) ∧
    Claims.Clears s .safeClearEvt (fun b => b.safe.evtCnt) (fun b v => { b with safe := { b.safe with evtCnt := v } }) ∧
    Claims.Clears s .secClearSigfail (fun b => b.sec.sigfailCnt) (fun b v => { b with sec := { b.sec with sigfailCnt := v } }) ∧
    Claims.Clears s .pwrClearCapExceed (fun b => b.pwr.capExceed) (fun b v => { b with pwr := { b.pwr with capExceed := v } })

/-- Every clear sets the counter it names to 0 and changes nothing else. -/
def Obligations.CountersClear : Prop :=
  Claims.RegionClears ∧ Claims.CommandClears ∧ Claims.TimingClears ∧ Claims.PortClears ∧ Claims.SupervisorClears

/-- REGISTER_WRITE takes effect under the access code of the register: a W1C bit that stood at the start of the cycle and is written 1 is
cleared, and one written 0 or set in the cycle kept; a record register that took a record in the cycle keeps it, MULTI cleared; a
selector takes the value it can hold, and an RO register, a reserved address and an access that is not an aligned 32-bit word are
left without effect. A tick later than the counter's brings the counter on. -/
def Claims.RegisterWrites : Prop :=
  ∀ (s : State) (t : Nat) (v : Word), s.powered = true →
    (∃ u, exec (.registerWrite t 0x200010 4 v) s = .next u ∧
      u.readReg 0x200010 = s.readReg 0x200010 &&& ~~~(v &&& (s.advance t).mark.time.event) ∧
      u.mark.time.event = (s.advance t).mark.time.event &&& ~~~v ∧
      u = { s.advance t with time := { (s.advance t).time with event := u.time.event },
                             mark := { (s.advance t).mark with time := { (s.advance t).mark.time with event := u.mark.time.event } } }) ∧
    (∃ u, exec (.registerWrite t 0x500008 4 v) s = .next u ∧
      ((s.advance t).records.contains 0x500008 = false → u.safe.cause = s.safe.cause &&& ~~~(v &&& 0xC0000000)) ∧
      ((s.advance t).records.contains 0x500008 = true → v.getLsbD 31 = true → u.safe.cause = s.safe.cause &&& ~~~0x40000000) ∧
      u = { s.advance t with safe := { s.safe with cause := u.safe.cause },
                             mark := { (s.advance t).mark with safe := { (s.advance t).mark.safe with cause := u.mark.safe.cause } } }) ∧
    (∃ u, exec (.registerWrite t 0xE00008 4 v) s = .next u ∧ u.readReg 0xE00008 = v &&& 0x3FFF ∧
      u = { s.advance t with sync := { s.sync with sel := u.sync.sel },
                             mark := { (s.advance t).mark with sync := { (s.advance t).mark.sync with sel := u.sync.sel } } }) ∧
    (∃ u, exec (.registerWrite t 0x700010 4 v) s = .next u ∧ u.pwr.railSel.toNat = min 9 (v.toNat % 16) ∧
      u = { s.advance t with pwr := { s.pwr with railSel := u.pwr.railSel },
                             mark := { (s.advance t).mark with pwr := { (s.advance t).mark.pwr with railSel := u.pwr.railSel } } }) ∧
    exec (.registerWrite t 0x000000 4 v) s = .next (s.advance t) ∧
    (∀ a, 0x2000000 ≤ a → exec (.registerWrite t a 4 v) s = .next (s.advance t)) ∧
    (∀ a n, n ≠ 4 ∨ a % 4 ≠ 0 → exec (.registerWrite t a n v) s = .next (s.advance t))

/-- GLOBAL_MODE and CMD_BOOT_RCB are RWL: a write is stored while the block is unlocked, and otherwise leaves the field as it was and
sets MODE_REFUSED or BOOT_REFUSED. -/
def Claims.LockedRegisters : Prop :=
  ∀ (s : State) (v : Word) (hi : Bool), s.powered = true →
    (s.glob.imageLoaded = false → s.glob.loading = false →
      ∃ u, exec (.globalModeWrite v) s = .next u ∧ u.readReg 0x4 = v &&& 0x771 ∧
        u = { s with glob := { s.glob with det := u.glob.det, pkgId := u.glob.pkgId, pkgCount := u.glob.pkgCount } }) ∧
    (s.glob.imageLoaded = true ∨ s.glob.loading = true →
      exec (.globalModeWrite v) s = .next { s with glob := { s.glob with modeRefused := true } }) ∧
    ((s.ctx 0).state = .detached →
      ∃ u, exec (.bootRcbWrite hi v) s = .next u ∧ u = { s with cmd := { s.cmd with bootRcb := u.cmd.bootRcb } } ∧
        (hi = true → u.readReg 0x10000C = v ∧ u.readReg 0x100008 = s.readReg 0x100008) ∧
        (hi = false → u.readReg 0x100008 = v &&& 0xFFFFFFC0 ∧ u.readReg 0x10000C = s.readReg 0x10000C)) ∧
    ((s.ctx 0).state ≠ .detached → exec (.bootRcbWrite hi v) s = .next { s with cmd := { s.cmd with bootRefused := true } })

/-- A read of TIME_CNT_LO captures the high word of the counter into TIME_CNT_HI; a write of TIME_SNAP captures the phase of every
selected domain that is not IDLE, and the time value of a TIME domain, all at one tick; an IDLE one gives 0, and a domain that is not
selected keeps its capture. -/
def Claims.TimeCaptures : Prop :=
  ∀ (s : State) (t : Nat) (v : Word), s.powered = true →
    (∃ u, exec (.timeCntLoRead t) s = .next u ∧ u.time.cntHi = w32 (max s.time.cnt t / 2 ^ 32) ∧
      u.time.cnt = max s.time.cnt t ∧ u = { s.advance t with time := { s.time with cnt := u.time.cnt, cntHi := u.time.cntHi } }) ∧
    (∃ u, exec (.timeSnap t v) s = .next u ∧ u.time.cnt = max s.time.cnt t ∧
      u = { s.advance t with time := { s.time with cnt := u.time.cnt, doms := u.time.doms } } ∧
      (∀ d, d < 8 → maskBit v d = true → (s.dom d).state = .idle → (u.dom d).snapPhase = 0 ∧ (u.dom d).snapNs = 0) ∧
      (∀ d, 8 ≤ d ∨ maskBit v d = false → u.dom d = s.dom d) ∧
      (∀ d, d < 8 → maskBit v d = true → (s.dom d).state ≠ .idle → (u.dom d).snapPhase = (s.dom d).phase (max s.time.cnt t)) ∧
      (∀ d, d < 8 → maskBit v d = true → (s.dom d).state ≠ .idle → (s.dom d).source = 0 → 0 ≤ (s.dom d).timeVal (max s.time.cnt t) →
        (u.dom d).snapNs.toNat = ((s.dom d).timeVal (max s.time.cnt t)).toNat / 2 ^ 16 % 10 ^ 9))

/-- Register writes under their access codes, locked registers and captures. -/
def Obligations.RegisterAccesses : Prop :=
  Claims.RegisterWrites ∧ Claims.LockedRegisters ∧ Claims.TimeCaptures

/-- ATTACH0 and RESET0 read context 0's ring control block, which is valid where its fields are in range: a context 0 in the right
state is attached to the physical function, or is reset and attached again with empty rings; a wrong state, a field out of range
or a failed read leaves context 0 as it was, with CTX0_FAIL and its cause (1, 2, 3). While no request reaches host memory, the read
fails (R454). -/
def Claims.ContextZero : Prop :=
  ∀ (s : State) (h : HostRead) (b : Rcb), s.powered = true →
    ((s.ctx 0).state = .detached → s.hostDead = false → readRcb 0 h = .ok b →
      ∃ u, exec (.attach0 h) s = .next u ∧ (u.ctx 0).state = .attached ∧ (u.ctx 0).func = 0 ∧ (u.ctx 0).cls = b.cls ∧
        (u.ctx 0).cmdRing = b.cmdRing ∧ (u.ctx 0).rplRing = b.rplRing ∧ (u.ctx 0).inflight = [] ∧ SameButCmd s u) ∧
    ((s.ctx 0).state ≠ .detached → s.hostDead = false → readRcb 0 h = .ok b →
      ∃ u, exec (.reset0 h) s = .next u ∧ (u.ctx 0).state = .attached ∧ (u.ctx 0).cmdRing = b.cmdRing ∧ (u.ctx 0).cmdCi = 0 ∧
        (u.ctx 0).rplPi = 0 ∧ (u.ctx 0).inflight = [] ∧ (u.ctx 0).replies = []) ∧
    ((s.ctx 0).state ≠ .detached →
      exec (.attach0 h) s = .next { s with cmd := { s.cmd with ctx0Fail := true, ctx0Cause := 1 } }) ∧
    ((s.ctx 0).state = .detached →
      exec (.reset0 h) s = .next { s with cmd := { s.cmd with ctx0Fail := true, ctx0Cause := 1 } }) ∧
    ((s.ctx 0).state = .detached → s.hostDead = false → readRcb 0 h = .error stBadParam →
      exec (.attach0 h) s = .next { s with cmd := { s.cmd with ctx0Fail := true, ctx0Cause := 2 } }) ∧
    (s.hostDead = true ∨ h = .failed → (s.ctx 0).state = .detached →
      exec (.attach0 h) s = .next { s with cmd := { s.cmd with ctx0Fail := true, ctx0Cause := 3 } }) ∧
    (s.hostDead = true ∨ h = .failed → (s.ctx 0).state ≠ .detached →
      exec (.reset0 h) s = .next { s with cmd := { s.cmd with ctx0Fail := true, ctx0Cause := 3 } })

/-- The session commands of context 0: CTX_ATTACH attaches a DETACHED context with what its ring control block holds, or fails with the
status of the read; CTX_DETACH and CTX_RESET take a context back, and are replied to at once where its partition runs no step, at the
boundary otherwise; CTX_SUSPEND and CTX_RESUME change its state alone; CTX_QUERY and NOP change nothing. -/
def Claims.SessionCommands : Prop :=
  ∀ (s : State) (c : Nat) (p : Packet) (h : HostRead),
    let k := sessCtx p
    let b := s.begin_ c p (s.ctx c).cls
    (s.Starts c p 0x0101 → chkCtxAttach s c p = none →
      (∀ r, s.ringBlock (u8 p 17) h = .ok r → ∃ u : State, exec (.ctxAttach c p h) s = .next (u.complete b.2 stOk []) ∧
        (u.ctx k).state = .attached ∧ (u.ctx k).func = u8 p 17 ∧ (u.ctx k).rcb = u64 p 24 ∧ (u.ctx k).cls = r.cls ∧
        s.partOfCtx k = some (u.ctx k).part ∧ u = b.1.setCtx k (u.ctx k)) ∧
      (∀ st, s.ringBlock (u8 p 17) h = .error st → exec (.ctxAttach c p h) s = .next (b.1.complete b.2 st []))) ∧
    (s.Starts c p 0x0102 → chkSession c p = none →
      ((s.ctx k).state = .detached → exec (.ctxDetach c p) s = .next (b.1.complete b.2 stOk [])) ∧
      ((s.ctx k).state ≠ .detached → ∃ u : State, exec (.ctxDetach c p) s = .next (u.replyLeft (s.ctx k).part b.2) ∧
        (u.ctx k).state = .detached ∧ (u.ctx k).inflight = [] ∧ (∀ q ∈ u.cmd.queue, q.cmd.ctx ≠ k) ∧ u.image = s.image ∧ u.time = s.time)) ∧
    (s.Starts c p 0x0103 → chkCtxReset s c p = none →
      (∀ r, s.ringBlock (s.ctx k).func h = .ok r → ∃ u : State, exec (.ctxReset c p h) s = .next (u.replyLeft (s.ctx k).part b.2) ∧
        (u.ctx k).state = .attached ∧ (u.ctx k).cmdCi = 0 ∧ (u.ctx k).rplPi = 0 ∧ (u.ctx k).inflight = [] ∧ (u.ctx k).replies = [] ∧
        (u.ctx k).func = (s.ctx k).func ∧ (u.ctx k).part = (s.ctx k).part) ∧
      (∀ st, s.ringBlock (s.ctx k).func h = .error st → exec (.ctxReset c p h) s = .next (b.1.complete b.2 st []))) ∧
    (s.Starts c p 0x0104 → chkSession c p = none →
      ((s.ctx k).state = .attached → exec (.ctxSuspend c p) s = .next ((b.1.setCtx k { s.ctx k with state := .suspended }).complete b.2 stOk [])) ∧
      ((s.ctx k).state ≠ .attached → exec (.ctxSuspend c p) s = .next (b.1.complete b.2 stOk []))) ∧
    (s.Starts c p 0x0105 → chkSession c p = none →
      ((s.ctx k).state = .suspended → exec (.ctxResume c p) s = .next ((b.1.setCtx k { s.ctx k with state := .attached }).complete b.2 stOk [])) ∧
      ((s.ctx k).state ≠ .suspended → exec (.ctxResume c p) s = .next (b.1.complete b.2 stOk []))) ∧
    (s.Starts c p 0x0106 → chkCtxQuery c p = none → k ≠ c →
      exec (.ctxQuery c p) s = .next (b.1.complete b.2 stOk [s.ctxStateWord k, s.ctxCountWord k])) ∧
    (s.Starts c p 0x0107 → exec (.nop c p) s = .next (b.1.complete b.2 stOk []))

/-- Attaching, detaching, resetting, suspending and resuming contexts. -/
def Obligations.ContextsComeAndGo : Prop :=
  Claims.ContextZero ∧ Claims.SessionCommands

/-- PWRGOOD_RISE starts the part from nothing: the counter is 0, every context DETACHED, no image is loaded, the safety pins and
HEARTBEAT are low, every memory but host memory is empty, and MRAM is as it was unless a zeroisation is to be completed. RESET_N held
low for 1 µs or more does the same to a powered part, and a shorter pulse nothing. PWRGOOD_FALL leaves the part unpowered with its
pins low, and MRAM as it was. -/
def Claims.PowerAndReset : Prop :=
  ∀ (s : State) (f : Flash),
    (∃ u, exec (.pwrgoodRise f) s = .next u ∧ u.powered = true ∧ u.flash = f ∧ u.time.cnt = 0 ∧ (∀ c, (u.ctx c).state = .detached) ∧
      u.image = none ∧ u.glob.imageLoaded = false ∧ u.safe.outA = false ∧ u.safe.outB = false ∧ u.safe.heartbeat = false ∧
      u.cmp.sp = [] ∧ u.cmp.lp = [] ∧ u.hubMem = [] ∧ u.pwr.lpddrInit = true ∧ u.hostMem = s.hostMem ∧ u.pending = s.pending ∧
      (s.sec.mram.zrec = none → u.sec.mram = s.sec.mram)) ∧
    (s.powered = true → ∀ n, 1000 ≤ n → exec (.resetNAssert n) s = exec (.pwrgoodRise s.flash) s) ∧
    (∀ n, n < 1000 → exec (.resetNAssert n) s = .next s) ∧
    (∃ u, exec .pwrgoodFall s = .next u ∧ u.powered = false ∧ u.safe.outA = false ∧ u.safe.outB = false ∧ u.safe.heartbeat = false ∧
      u.sec.mram = s.sec.mram ∧ u.image = none ∧ u.cmp.sp = [] ∧ u.cmp.lp = [])

/-- HUB_READY sets its flag, starts HEARTBEAT, enables the compute dies' supplies and begins every region's frame, and does nothing
else, where the hub die's checkers pass; a checker that fails keeps the
part in SAFE_HOLD with both pins and HEARTBEAT low, and SAFE_INJ_RESULT names the first that failed. -/
def Claims.HubStart : Prop :=
  ∀ (s : State) (t cls inst : Nat), s.powered = true → s.sec.booted = true → s.glob.hubReady = false → s.glob.safeHold = false →
    exec (.hubReady t none) s =
      .next { s.advance t with glob := { s.glob with hubReady := true }, safe := { s.safe with hbRun := true },
                               pwr := { s.pwr with railsOn := true }, cmp := s.cmp.released (max s.time.cnt t) } ∧
    (∀ k, k < 32 → (tblGet {} (s.cmp.released t).ports k).frameOrigin = t) ∧
    (∃ u, exec (.hubReady t (some (cls, inst))) s = .next u ∧ u.glob.safeHold = true ∧ u.glob.hubReady = false ∧
      u.safe.outA = false ∧ u.safe.outB = false ∧ u.safe.heartbeat = false ∧ u.safe.hbRun = false ∧
      (s.safe.inj.getLsbD 31 = false → cls < 16 → inst < 65536 → u.safe.inj = w32 (2 ^ 31 + cls * 2 ^ 16 + inst)) ∧
      (s.safe.inj.getLsbD 31 = true → u.safe.inj = s.safe.inj))

/-- A compute die that passes its checkers, its self-test and its training sets its DIEn_UP bit, and once both are up
SAFE_INJ_RESULT reads DONE and PASS; a die that fails keeps the part in SAFE_HOLD. -/
def Claims.DieStart : Prop :=
  ∀ (s : State) (t : Nat), s.powered = true → s.glob.hubReady = true → s.glob.safeHold = false →
    (s.glob.die0Up = false → ∃ u, exec (.dieUp t 0 none true true) s = .next u ∧ u.glob = { s.glob with die0Up := true } ∧
      (s.glob.die1Up = true → u.safe = { s.safe with inj := 0xC0000000 }) ∧
      (s.glob.die1Up = false → u = { s.advance t with glob := u.glob })) ∧
    (s.glob.die1Up = false → ∃ u, exec (.dieUp t 1 none true true) s = .next u ∧ u.glob = { s.glob with die1Up := true } ∧
      (s.glob.die0Up = true → u.safe = { s.safe with inj := 0xC0000000 }) ∧
      (s.glob.die0Up = false → u = { s.advance t with glob := u.glob })) ∧
    (∀ (fail : Option (Nat × Nat)) (bist train : Bool), (fail ≠ none ∨ bist = false ∨ train = false) → s.glob.die0Up = false →
      ∃ u, exec (.dieUp t 0 fail bist train) s = .next u ∧ u.glob.safeHold = true ∧ u.glob.die0Up = false ∧
        u.safe.outA = false ∧ u.safe.outB = false ∧ u.safe.hbRun = false)

/-- LPDDR training stores the type, rate and capacity found; the zero fill leaves every LPDDR byte zero and clears LPDDR_INIT.
PERST_N and the link: once the hub is ready, PERST_N is deasserted and no zeroisation runs, L0 is reached, and configuration
requests are answered. Nothing else changes. -/
def Claims.LinkStart : Prop :=
  ∀ (s : State) (t : Nat), s.powered = true →
    (s.glob.hubReady = true → s.lnk.lpTrained = false → ∀ kind rate cap,
      exec (.lpddrTrainingDone t kind rate cap none) s =
        .next { s.advance t with lnk := { s.lnk with lpTrained := true, lpType := kind, lpRate := rate, lpCapacity := cap } }) ∧
    (s.glob.hubReady = true → s.lnk.lpTrained = false → ∀ kind rate cap ch, ∃ u,
      exec (.lpddrTrainingDone t kind rate cap (some ch)) s = .next u ∧ u.lnk = { s.lnk with lpFailCh := ch } ∧ u.glob.safeHold = true) ∧
    (s.lnk.lpTrained = true → s.pwr.lpddrInit = true → s.sec.mram.zrec = none →
      exec (.lpddrZeroFillDone t) s = .next { s.advance t with cmp := { s.cmp with lp := [], lpPoison := [] },
                                                               pwr := { s.pwr with lpddrInit := false } }) ∧
    exec (.perstNDeassert t) s = .next { s.advance t with lnk := { s.lnk with perst := true } } ∧
    (s.glob.hubReady = true → s.lnk.perst = true → s.sec.mram.zrec = none → ∀ w v flit, ∃ u,
      exec (.pcieLinkUp t w v flit) s = .next u ∧
        u.lnk = { s.lnk with width := w, speed := v, flit := flit, l0 := true, crs := false } ∧
        u = { s.advance t with lnk := u.lnk, pwr := { s.pwr with clkSerdes := true } }) ∧
    (s.glob.hubReady = false ∨ s.lnk.perst = false → ∀ w v flit, exec (.pcieLinkUp t w v flit) s = .next (s.advance t))

/-- Power-good, resets and the start of the hub, the dies and the links. -/
def Obligations.PartStarts : Prop :=
  Claims.PowerAndReset ∧ Claims.HubStart ∧ Claims.DieStart ∧ Claims.LinkStart

/-- A PCIe reset of any cause, and a move to D3hot, detach every context attached to a PCIe function and reset the DOE mailbox, the
IDE streams and NumVFs; the contexts of firmware agents, the image, MRAM and the queue of other events are unchanged, and where no
context has a decode pending, whose end could let compiled work go on, so are the domains, the schedule, the safety state, the pins, the
control engine, the regions and the memories. -/
def Claims.PcieReset : Prop :=
  ∀ (s : State) (t : Nat), s.powered = true →
    ∀ i, (i = .d3hotEntry t ∨ ∃ cause, i = .pcieReset t cause) →
    ∃ u, exec i s = .next u ∧
      (∀ c, c < 64 → (s.ctx c).func < 0x20 → (u.ctx c).state = .detached) ∧
      (∀ c, c < 64 → 0x20 ≤ (s.ctx c).func → (u.ctx c).state = (s.ctx c).state ∧ (u.ctx c).func = (s.ctx c).func) ∧
      u.lnk.numVfs = 0 ∧ u.lnk.ide = [] ∧ u.sec.spdm = {} ∧ u.sec.mram = s.sec.mram ∧ u.image = s.image ∧ u.pending = s.pending ∧
      ((∀ d ∈ s.ppe.decodes, ∀ c tag, d.id ≠ .cmd c tag) →
        u.time = (s.advance t).time ∧ u.safe = s.safe ∧ u.sched = s.sched ∧ u.cte = s.cte ∧ u.mio = s.mio ∧ u.cmp = s.cmp)

/-- The causes of a PCIe reset differ in the link: PERST_N low, a hot reset and a link that went down leave it to train again, with
configuration requests retried until then; a function-level reset and a move to D3hot leave it up. An outstanding nonce lapses with a
reset, not with a move to D3hot. -/
def Claims.PcieResetLink : Prop :=
  ∀ (s : State) (t : Nat), s.powered = true →
    (∃ u, exec (.pcieReset t .perstLow) s = .next u ∧ u.lnk.l0 = false ∧ u.lnk.crs = true ∧ u.lnk.perst = false) ∧
    (∃ u, exec (.pcieReset t .hotReset) s = .next u ∧ u.lnk.l0 = false ∧ u.lnk.crs = true ∧ u.lnk.perst = s.lnk.perst) ∧
    (∃ u, exec (.pcieReset t .linkDown) s = .next u ∧ u.lnk.l0 = false ∧ u.lnk.crs = true ∧ u.lnk.perst = s.lnk.perst) ∧
    (∃ u, exec (.pcieReset t .pfFlr) s = .next u ∧ u.lnk.l0 = s.lnk.l0 ∧ u.lnk.crs = s.lnk.crs ∧ u.lnk.d3hot = false) ∧
    (∃ u, exec (.d3hotEntry t) s = .next u ∧ u.lnk.l0 = s.lnk.l0 ∧ u.lnk.crs = s.lnk.crs ∧ u.lnk.d3hot = true ∧ u.sec.nonce = s.sec.nonce) ∧
    ∀ cause u, exec (.pcieReset t cause) s = .next u → u.sec.nonce = none

/-- A function-level reset of a virtual function resets every context attached to it, with empty rings and no reply left, and leaves
the state of every other context; clearing NumVFs does so for every virtual function. -/
def Claims.VirtualFunctionResets : Prop :=
  ∀ (s : State) (t : Nat), s.powered = true →
    (∀ vf, 1 ≤ vf → vf ≤ 31 → ∃ u, exec (.vfFlr t vf) s = .next u ∧ u.image = s.image ∧ u.pending = s.pending ∧
      ∀ c, c < 64 →
        ((s.ctx c).state ≠ .detached → (s.ctx c).func = vf →
          (u.ctx c).state = .attached ∧ (u.ctx c).cmdCi = 0 ∧ (u.ctx c).rplPi = 0 ∧ (u.ctx c).inflight = [] ∧ (u.ctx c).replies = []) ∧
        ((s.ctx c).func ≠ vf → (u.ctx c).state = (s.ctx c).state)) ∧
    (∃ u, exec (.numvfsClear t) s = .next u ∧ u.lnk.numVfs = 0 ∧ u.image = s.image ∧ u.pending = s.pending ∧
      ∀ c, c < 64 →
        ((s.ctx c).state ≠ .detached → 1 ≤ (s.ctx c).func → (s.ctx c).func ≤ 31 →
          (u.ctx c).state = .attached ∧ (u.ctx c).inflight = [] ∧ (u.ctx c).replies = []) ∧
        ((s.ctx c).func = 0 ∨ 31 < (s.ctx c).func → (u.ctx c).state = (s.ctx c).state))

/-- Until BAR0 can be read a configuration request changes nothing. From then on a read changes nothing, a write of NumVFs from 1 to
31 enables that many virtual functions, and a write of 0 acts as NUMVFS_CLEAR. -/
def Claims.ConfigurationRequests : Prop :=
  ∀ s : State, s.powered = true →
    (s.lnk.crs = true → ∀ req, exec (.configurationRequest req) s = .next s) ∧
    (s.lnk.crs = false → exec (.configurationRequest .read) s = .next s ∧ exec (.configurationRequest .other) s = .next s ∧
      (∀ n, 1 ≤ n → n ≤ 31 → exec (.configurationRequest (.setNumVfs n)) s = .next { s with lnk := { s.lnk with numVfs := n } }) ∧
      (∀ t, t ≤ s.time.cnt → exec (.configurationRequest (.setNumVfs 0)) s = exec (.numvfsClear t) s))

/-- PCIe resets of every cause and what they leave. -/
def Obligations.PcieResets : Prop :=
  Claims.PcieReset ∧ Claims.PcieResetLink ∧ Claims.VirtualFunctionResets ∧ Claims.ConfigurationRequests

/-- The flit, word and key events of the links: a flit resent and a word read again are counted, a port or channel that fails again
is declared faulty or recorded, and an IDE stream whose check fails enters Insecure. Nothing else changes. -/
def Claims.LinkEvents : Prop :=
  ∀ (s : State) (t p a : Nat), s.powered = true →
    (s.rolOk p = true →
      exec (.rolinkFlitCrcFail p) s = .next { s with lnk := { s.lnk with rolRetry := satInc s.lnk.rolRetry } } ∧
      exec (.rolinkRetryFail t p) s = .next { s.advance t with lnk := { s.lnk with rolFault := maskSet s.lnk.rolFault p } } ∧
      exec (.rolinkKeyRenew t p true) s = .next (s.advance t) ∧
      exec (.rolinkKeyRenew t p false) s = .next { s.advance t with lnk := { s.lnk with rolUp := maskClear s.lnk.rolUp p } }) ∧
    (∀ dest, exec (.rolinkForward p dest) s = .next s) ∧
    (s.lnk.lpTrained = true →
      exec (.lpddrReadEccError t (a / 256 % 16) a false) s = .next { s.advance t with lnk := { s.lnk with lpRetry := satInc s.lnk.lpRetry } } ∧
      exec (.lpddrReadEccError t (a / 256 % 16) a true) s = .next { s.advance t with lnk := { s.lnk with lpCe := satInc s.lnk.lpCe } } ∧
      ∃ u, exec (.lpddrRetryFail t (a / 256 % 16) a) s = .next u ∧ u.lpPoisoned a 1 = true ∧
        u.lnk = { s.lnk with lpUe := recWrite s.lnk.lpUe (a / 256 % 16) } ∧ u.cmp.lp = s.cmp.lp ∧
        u.records = 0xF00010 :: (s.advance t).records ∧
        u = { s.advance t with lnk := u.lnk, cmp := { s.cmp with lpPoison := u.cmp.lpPoison }, records := u.records }) ∧
    (∀ st, tblGet .unkeyed s.lnk.ide (ideKey st) = .secure → ∃ u, exec (.ideCheckFail t st) s = .next u ∧
      tblGet .unkeyed u.lnk.ide (ideKey st) = .insecure ∧ u = { s.advance t with lnk := { s.lnk with ide := u.lnk.ide } })

/-- A failed request to host memory: a ring read or write puts an ATTACHED context into ERROR with its cause, and a command's own
buffer completes that command with ECC_UNCORRECTABLE. -/
def Claims.HostFailures : Prop :=
  ∀ (s : State) (t : Nat), s.powered = true →
    ∀ (i : HostTarget → Instr), (i = .completionTimeout t ∨ i = .hostCompletionError t) →
    (∀ c, exec (i (.ringRead c)) s = .next ((s.advance t).ctxError c 2)) ∧
    (∀ c, exec (i (.ringWrite c)) s = .next ((s.advance t).ctxError c 3)) ∧
    (∀ c tag, (∀ r ∈ s.cmd.running, r.cmd.ctx = c → r.cmd.tag ≠ tag) → exec (i (.buffer c tag)) s = .next (s.advance t)) ∧
    (∀ c tag, exec (i (.buffer c tag)) s = .next ((s.advance t).bufferFailed c tag))

/-- A network-on-chip or bridge flit that fails its CRC is counted on its die; one that fails again makes the link faulty, charged to
every partition that holds a slot on it, to no partition where none does, and to the package for the bridge and its C0 lanes, whose loss
leaves the group's policy result missing. A link that is out of service stays so. -/
def Claims.NocEvents : Prop :=
  ∀ (s : State) (t n g : Nat) (link : LinkId), s.powered = true →
    (linkDie link = 0 → exec (.nocFlitCrcFail link) s = .next { s with glob := { s.glob with nocRetry0 := satInc s.glob.nocRetry0 } }) ∧
    (linkDie link ≠ 0 → exec (.nocFlitCrcFail link) s = .next { s with glob := { s.glob with nocRetry1 := satInc s.glob.nocRetry1 } }) ∧
    (s.linkParts 0 n = [] → exec (.nocRetryFail t (.noc 0 n)) s = .next (((s.advance t).linkFault 2).raiseAt 0x08 0xFF n 0)) ∧
    (s.linkParts 1 n ≠ [] → exec (.nocRetryFail t (.noc 1 n)) s =
      .next ((s.linkParts 1 n).foldl (fun u p => u.raise 0x08 p n) ((s.advance t).linkFault 3))) ∧
    exec (.nocRetryFail t (.bridge 0)) s = .next (((s.advance t).linkFault 0).raise 0x10 0xFF 0) ∧
    exec (.nocRetryFail t (.bridge 1)) s = .next (((s.advance t).linkFault 1).raise 0x10 0xFF 1) ∧
    ((s.group g).valid = true → (s.group g).result = .waiting → ∃ v : State,
      exec (.nocRetryFail t (.c0lane 0 g)) s = .next ((v.linkFault 0).raise 0x10 0xFF 0) ∧ (v.group g).result = .missing ∧
      v.policyRun g = none ∧ v = { s.advance t with cte := v.cte, cmp := { s.cmp with regions := v.cmp.regions } }) ∧
    (∀ u, exec (.nocRetryFail t link) s = .next u → ∀ b, maskBit s.glob.linkDown b = true → maskBit u.glob.linkDown b = true)

/-- Flits, words, links and host memory that fail. -/
def Obligations.LinkFaults : Prop :=
  Claims.LinkEvents ∧ Claims.HostFailures ∧ Claims.NocEvents

/-- A Rolink port is keyed where its peer's DevID hash stands in SYSTEM under the peer's number and the exchange is good; any other
peer leaves the port without traffic, and a faulty port stays faulty. -/
def Claims.RolinkPeers : Prop :=
  ∀ (s : State) (t port peer : Nat) (dev : Digest), s.powered = true → s.glob.hubReady = true → port < 4 →
    maskBit s.lnk.rolFault port = false →
    (s.sec.mram.system[peer]? = some dev → ∃ u, exec (.rolinkLinkUp t port peer dev true) s = .next u ∧ u.rolOk port = true ∧
      tblGet 0 u.lnk.rolPeer port = peer ∧
      u = { s.advance t with lnk := { s.lnk with rolUp := u.lnk.rolUp, rolPeer := u.lnk.rolPeer } }) ∧
    (∀ ok, ok = false ∨ s.sec.mram.system[peer]? ≠ some dev → ∃ u, exec (.rolinkLinkUp t port peer dev ok) s = .next u ∧
      u.rolOk port = false ∧ u = { s.advance t with lnk := { s.lnk with rolUp := u.lnk.rolUp } })

/-- A remote write that lies in slices of the sender's partition is written, and no other byte; one that does not is recorded in the
addressed slice with KIND 4 and writes nothing. -/
def Claims.RemoteAccesses : Prop :=
  ∀ (s : State) (t : Nat) (acc : RemoteAcc), s.powered = true → 0 < acc.length →
    (s.spaBound acc.spa acc.length = true → s.spaOf acc.part acc.spa acc.length = true →
      (∀ bs, acc.write = some bs → exec (.remoteAccessReceive t acc) s = .next ((s.advance t).spWrite acc.spa (bytesAt bs 0 acc.length))) ∧
      (acc.write = none → exec (.remoteAccessReceive t acc) s = .next (s.advance t))) ∧
    (s.spaOf acc.part acc.spa acc.length = false → ∀ a, s.spaKey acc.spa = some a →
      ∃ u, exec (.remoteAccessReceive t acc) s = .next u ∧ u.cmp.sp = s.cmp.sp ∧
        u = { (s.advance t).setPort (a / sliceLen) (u.port (a / sliceLen)) with records := u.records } ∧
        (u.port (a / sliceLen)).boundCnt = satInc (s.port (a / sliceLen)).boundCnt ∧
        (u.port (a / sliceLen)).boundOfs = w32 (acc.spa % sliceLen) ∧ (u.port (a / sliceLen)).boundErr.toNat % 8 = 4)

/-- Rolink peers and remote scratchpad writes. -/
def Obligations.RolinkPeersAndWrites : Prop :=
  Claims.RolinkPeers ∧ Claims.RemoteAccesses

/-- A safety event is always logged with the tick and counted: newest last, but before the events of its own cycle that have a higher
code. At RECORD it does no more. At PARTITION it brings the partition charged, and those that depend on it, into safe state, with
the pins following; at PACKAGE the package enters safe state with both pins low. Above RECORD, SAFE_CAUSE takes its level, code and
partition, but keeps what an event of the same cycle with a higher level or a lower code has put there, and then shows MULTI. An
event whose partition or package was in safe state before the cycle is logged only. Only the safety block, the axis groups and the
Ethernet message slots change. -/
def Obligations.SafetyEvents : Prop :=
  ∀ (s : State) (code part detail lvl : Nat), part < 8 → lvl ≤ 2 →
    let u := s.raiseAt code part detail lvl
    let r : LogRec := ⟨code, lvl, if lvl = 2 then 0xFF else part, detail, s.time.cnt⟩
    (s.safe.log.length < 256 → r ∈ u.safe.log) ∧
    ((∀ q ∈ s.safe.log, q.time / 2 = s.time.cnt / 2 → q.code ≤ code) → u.safe.log.getLast? = some r) ∧
    (∀ q ∈ u.safe.log, q = r ∨ q ∈ s.safe.log) ∧
    u.safe.log.length = min 256 (s.safe.log.length + 1) ∧ u.safe.logCount = s.safe.logCount + 1 ∧ u.safe.evtCnt = satInc s.safe.evtCnt ∧
    (lvl = 0 → u.safe.parts = s.safe.parts ∧ u.safe.package = s.safe.package ∧ u.cte = s.cte) ∧
    (lvl = 1 → u.partSafe part = true ∧ u.safe.package = s.safe.package ∧
      (s.partSafe part = true → u.safe.parts = s.safe.parts ∧ u.cte = s.cte) ∧
      (s.partSafe part = false → u.safe.outA = u.pinLevel ∧ u.safe.outB = u.pinLevel ∧
        ∀ q, q < 8 → maskBit (tblGet 0 s.safe.depend q) part = true → u.partSafe q = true)) ∧
    (lvl = 1 → s.partSafe part = false → s.causeStays code 1 = false →
      u.safe.cause = recWrite s.safe.cause (2 ^ 24 + part * 2 ^ 16 + code % 256)) ∧
    (lvl = 1 → s.partSafe part = false → s.causeStays code 1 = true → u.safe.cause = s.safe.cause ||| w32 (2 ^ 30)) ∧
    (lvl = 1 → s.mark.safe.package = true ∨ maskBit s.mark.safe.parts part = true → s.partSafe part = true →
      u.safe.cause = s.safe.cause ∧ u.safe.events = s.safe.events) ∧
    (lvl = 2 → u.safe.package = true ∧ (s.safe.package = false → u.safe.outA = false ∧ u.safe.outB = false)) ∧
    u = { s with safe := u.safe, cte := u.cte, eths := u.eths, records := u.records }

/-- Stored weights: two CB4 codes to a byte, the lower index in the lower half, one byte for CB8, INT8 and FP8, two for the other formats. A
stationary register stands for the values of the codes that it was loaded with, two of them for CB4 in a coarse shape. -/
def Claims.RegisterWords : Prop :=
  (∀ (rd : Nat → Byte) (o k : Nat), (weightAt rd 0 o (2 * k)).toNat = (rd (o + k)).toNat % 16 ∧
    (weightAt rd 0 o (2 * k + 1)).toNat = (rd (o + k)).toNat / 16 ∧
    (∀ mode, 1 ≤ mode → mode ≤ 4 → (weightAt rd mode o k).toNat = (rd (o + k)).toNat) ∧
    (∀ mode, 5 ≤ mode → (weightAt rd mode o k).toNat = (rd (o + 2 * k)).toNat + 256 * (rd (o + 2 * k + 1)).toNat)) ∧
  (∀ (d : LayerDesc) (shape : Nat) (a b : BitVec 16), twoCodes d shape = true → a.toNat < 16 → b.toNat < 16 →
    regVals d shape (withParity (regWord d shape [a, b])) = [weightVal d.mode d.opnd2Fp16 d.codebook a, weightVal d.mode d.opnd2Fp16 d.codebook b]) ∧
  (∀ (d : LayerDesc) (shape : Nat) (a : BitVec 16), twoCodes d shape = false → (d.mode ≤ 4 → a.toNat < 256) →
    regVals d shape (withParity (regWord d shape [a])) = [weightVal d.mode d.opnd2Fp16 d.codebook a])

/-- What follows from a pass that starts or ends, a strobe or an applied port mode: passes begin, sets load, products and port modes start. No
count, parity bit, halt, shape, direction or active register of a region changes, nor LPDDR, nor which work there is; and where no pass
waits to begin, no scratchpad byte. -/
def Claims.PassesSettle : Prop :=
  ∀ s : State,
    let u := s.settle
    (∀ k, (u.region k).ovfCnt = (s.region k).ovfCnt ∧ (u.region k).lossCnt = (s.region k).lossCnt ∧
      (u.region k).nonfinite = (s.region k).nonfinite ∧ (u.region k).rerunCnt = (s.region k).rerunCnt ∧ (u.region k).trip = (s.region k).trip ∧
      (u.region k).swapCnt = (s.region k).swapCnt ∧ (u.region k).busyCyc = (s.region k).busyCyc ∧ (u.region k).gateRow = (s.region k).gateRow ∧
      (u.region k).gateCells = (s.region k).gateCells ∧ (u.region k).mvuBusy = (s.region k).mvuBusy ∧ (u.region k).parity = (s.region k).parity ∧
      (u.region k).mvuParity = (s.region k).mvuParity ∧ (u.region k).halted = (s.region k).halted ∧
      (u.region k).tcoreFault = (s.region k).tcoreFault ∧ (u.region k).shape = (s.region k).shape ∧ (u.region k).dirBack = (s.region k).dirBack ∧
      (u.region k).tiles = (s.region k).tiles ∧
      ∀ c, ((u.region k).cluster c).active = ((s.region k).cluster c).active) ∧
    u.cmp.lp = s.cmp.lp ∧ u.cmp.spPoison = s.cmp.spPoison ∧ u.cmp.works.map Work.id = s.cmp.works.map Work.id ∧
    ((∀ e ∈ s.passes, e.2.ready = true) → u.cmp.sp = s.cmp.sp) ∧
    u = { s with cmp := u.cmp, safe := u.safe, cte := u.cte, eths := u.eths, records := u.records }

/-- A compiled pass whose descriptor R47 or R68 refuses gives its work BAD_PARAM and starts nothing; a pass of work that has failed already does
not start. -/
def Claims.PassRefused : Prop :=
  ∀ (s : State) (id : WorkId) (cls part idx : Nat) (poss : Option (List Nat)) (cfg : PassCfg),
    ((s.workStatus (some id)).usable = false → s.startPass id cls part poss idx cfg = s) ∧
    ((s.workStatus (some id)).usable = true → poss ≠ some [] → ∀ i k, i < cfg.shares.length →
      let p := s.shareOf id cls part poss idx cfg i
      s.physOf p.sh.lreg = some k → p.isAttn = false → (layerBad p.desc = true ∨ codebookBad p.desc = true) →
        s.startPass id cls part poss idx cfg = s.addStatus (some id) stBadParam)

/-- A layer pass whose parts are at their end: in each of its regions its overflow, loss and non-finite counts are added. Without a trip its
results are written and it is over. A tripped pass of a class other than 0, of a codebook layer marked FALLBACK, is discarded: every part
of it becomes a wide re-run, and no result is written. A tripped class 0 pass is used and raises ANCHOR_TRIP; any other tripped pass is
used. The trip is recorded in the lead region. -/
def Claims.LayerPass : Prop :=
  ∀ (s : State) (t idx : Nat) (work : WorkId) (lead : ShareEnd), s.powered = true →
    let ends := s.shareEnds ⟨work, idx⟩
    leadShare ends = some lead → (ends.map ShareEnd.k).Nodup →
    (∀ e ∈ ends, (s.advance t).shareDone e.k e.p = true ∧ e.p.wide = none) →
    lead.p.cfg.use = .product → lead.p.template = false → (s.workStatus (some work)).usable = true →
    let cols := lead.places.flatMap (colsAt ends)
    let n := runCounts cols
    let d := lead.p.desc
    let tripped := n.1 > 0 ∨ n.2.1 > d.lossLimit
    let again := d.fallback = true ∧ d.mode ≤ 1 ∧ lead.p.cls ≠ 0
    let counted := ends.foldl State.addEnd (s.advance t)
    let used := fun v : State => ((ends.foldl (fun v e => v.writeResults e lead.places) v).removePass ⟨work, idx⟩).settle
    let trip := fun a : Bool => counted.recordTrip lead.k d.layerId (lead.p.cls == 0) (decide (n.1 > 0), decide (n.2.1 > d.lossLimit)) a
    ∃ u, exec (.layerPassEnd t ⟨work, idx, {}⟩) s = .next u ∧
      (∀ e ∈ ends, (u.region e.k).ovfCnt = satAdd (s.region e.k).ovfCnt (runCounts e.cols.flatten).1 ∧
        (u.region e.k).lossCnt = satAdd (s.region e.k).lossCnt (runCounts e.cols.flatten).2.1 ∧
        (u.region e.k).nonfinite = satAdd (s.region e.k).nonfinite (runCounts e.cols.flatten).2.2) ∧
      (¬ tripped → u = used counted) ∧
      (tripped → (u.region lead.k).trip = tripWord (s.region lead.k).trip d.layerId (lead.p.cls == 0) (decide again)
        (decide (n.2.1 > d.lossLimit)) (decide (n.1 > 0))) ∧
      (tripped → again → (∀ e ∈ ends, ∃ q, (e.k, q) ∈ u.passes ∧ q.key = ⟨work, idx⟩ ∧ q.wide = some (blockLen e.p.desc.mode) ∧
          q.desc.mode = 5 ∧ q.vecs = lead.places.map fun pos => e.p.vecs.getD pos 0) ∧
        ((∀ e ∈ s.passes, e.2.ready = true) → u.cmp.sp = s.cmp.sp)) ∧
      (tripped → ¬ again → u = used (trip false)) ∧
      (lead.p.cls = 0 → trip false = (({ counted.recorded (rgnAddr lead.k + 0x80C) with cmp := (trip false).cmp } : State).raise
        0x05 (s.partOfPhys lead.k) d.layerId))

/-- A wide re-run at its end: its counts are added, it is counted in the lead region, it never trips, its status is OK_WIDE_RERUN where no other
stands, its results are written, and the pass is over. -/
def Claims.WideRerun : Prop :=
  ∀ (s : State) (t idx : Nat) (work : WorkId) (lead : ShareEnd), s.powered = true →
    let ends := s.shareEnds ⟨work, idx⟩
    leadShare ends = some lead → (ends.map ShareEnd.k).Nodup →
    (∀ e ∈ ends, (s.advance t).shareDone e.k e.p = true ∧ e.p.wide.isSome = true) →
    lead.p.cfg.use = .product → lead.p.template = false → (s.workStatus (some work)).usable = true →
    ∃ v u : State, exec (.wideRerunComplete t ⟨work, idx, {}⟩) s = .next u ∧
      (∀ e ∈ ends, (v.region e.k).ovfCnt = satAdd (s.region e.k).ovfCnt (runCounts e.cols.flatten).1 ∧
        (v.region e.k).lossCnt = satAdd (s.region e.k).lossCnt (runCounts e.cols.flatten).2.1 ∧
        (v.region e.k).nonfinite = satAdd (s.region e.k).nonfinite (runCounts e.cols.flatten).2.2) ∧
      (∀ k, (v.region k).rerunCnt = (if k = lead.k then satInc (s.region k).rerunCnt else (s.region k).rerunCnt) ∧
        (v.region k).trip = (s.region k).trip) ∧
      v.workStatus (some work) = (if s.work work = none then stOk else mergeStatus (s.workStatus (some work)) stWideRerun) ∧
      v = { s.advance t with cmp := { s.cmp with regions := v.cmp.regions, works := v.cmp.works } } ∧
      u = ((ends.foldl (fun v e => v.writeResults e lead.places) v).removePass ⟨work, idx⟩).settle

/-- In a template step each position is a pass of its own: its dynamic anchors are those of its activations alone, and it trips by its own
counts; of a layer marked FALLBACK the tripped positions whose status is usable are discarded, and the re-run serves them alone. -/
def Claims.TemplatePass : Prop :=
  (∀ (p : RunPass) (x : PassIn) (pos : Nat), p.template = true → pos < p.vecs.length →
    (p.anchorRows x).getD pos [] = (({ p with vecs := [p.vecs.getD pos 0] } : RunPass).anchorRows x).getD 0 []) ∧
  (∀ (s : State) (lead : ShareEnd) (ends : List ShareEnd), lead.p.template = true →
    let r := s.decideTrips lead (tripGroups lead ends)
    let trips := fun pos => (runCounts (colsAt ends pos)).1 > 0 ∨ (runCounts (colsAt ends pos)).2.1 > lead.p.desc.lossLimit
    (∀ pos, pos ∈ r.2 ↔ pos < lead.p.vecs.length ∧ trips pos ∧ lead.p.marked = true ∧ s.placeUsable lead.p pos = true) ∧
    ((∀ pos, pos < lead.p.vecs.length → ¬ trips pos) → r.1 = s) ∧
    (∀ k, k ≠ lead.k → r.1.region k = s.region k) ∧ r.1.cmp.sp = s.cmp.sp ∧ r.1.cmp.works = s.cmp.works) ∧
  (∀ (s : State) (t idx : Nat) (work : WorkId) (lead : ShareEnd), s.powered = true →
    let ends := s.shareEnds ⟨work, idx⟩
    leadShare ends = some lead → (∀ e ∈ ends, (s.advance t).shareDone e.k e.p = true ∧ e.p.wide = none) →
    lead.p.cfg.use = .product → lead.p.template = true → (s.workStatus (some work)).usable = true →
    let r := (ends.foldl State.addEnd (s.advance t)).decideTrips lead (tripGroups lead ends)
    let w := ends.foldl (fun v e => v.writeResults e
      ((lead.places.filter fun pos => !r.2.contains pos).filter (r.1.placeUsable lead.p))) r.1
    exec (.layerPassEnd t ⟨work, idx, {}⟩) s =
      .next (if r.2 = [] then (w.removePass ⟨work, idx⟩).settle else w.rerunPass ends r.2))

/-- A parity fault of a stationary register or of the MVU's code buffer, found at a pass's end or at a strobe, sets its bit, gives its work
ECC_UNCORRECTABLE and reports the region. -/
def Claims.ParityFaults : Prop :=
  ∀ (s : State) (k c : Nat) (id : WorkId), c < 4 →
    (∃ u, s.parityFault k c (some id) = u ∧ maskBit (u.region k).parity c = true ∧
      (∀ i, i ≠ c → maskBit (u.region k).parity i = maskBit (s.region k).parity i) ∧
      u.safe.logCount = s.safe.logCount + 1 ∧ (∀ w, s.work id = some w → Status.usable w.status = true → u.workStatus (some id) = stEcc) ∧
      u = { s with cmp := u.cmp, safe := u.safe, cte := u.cte, eths := u.eths, records := u.records }) ∧
    (∃ u, s.mvuParityFault k (some id) = u ∧ (u.region k).mvuParity = true ∧ (u.region k).parity = (s.region k).parity ∧
      u.safe.logCount = s.safe.logCount + 1 ∧ (∀ w, s.work id = some w → Status.usable w.status = true → u.workStatus (some id) = stEcc))

/-- A layer pass: its registers, its end, its trip and its wide re-run, and a pass of a template step. -/
def Obligations.LayerPasses : Prop :=
  Claims.RegisterWords ∧ Claims.PassesSettle ∧ Claims.PassRefused ∧ Claims.LayerPass ∧ Claims.WideRerun ∧ Claims.TemplatePass ∧ Claims.ParityFaults

/-- The shadow feed loads the next stationary set of the earliest pass that has one: its registers and what its banks hold. A tile core's swap
request of a unit that holds the strobe back is held. A strobe copies what the shadow registers hold into the active ones, switches the banks,
ends the requests, lets the set's vectors enter, whose products go to the position stores, and is counted, once where the four clusters are
ganged. It does not happen before the set is complete, fewer than 33 cycles after the cluster's latest strobe, or while a unit that runs a
sequence holds no request. -/
def Claims.SwapStrobes : Prop :=
  ∀ (s : State) (t d r c : Nat), s.powered = true → s.available (rkey d r) = true → c < 4 →
    let k := rkey d r
    let x := s.region k
    let now := (s.advance t).cycleOf k
    (∀ p, (x.cluster c).shadow = none → x.nextLoad c = some p →
      let u := s.loadShadow k c
      ((u.region k).cluster c).shadow = some (p.set (s.passIn p) c (tblGet 0 p.loaded c)) ∧
      ((u.region k).cluster c).loadCyc = s.cycleOf k + 1 ∧ ((u.region k).cluster c).active = (x.cluster c).active ∧
      ∀ q ≠ k, u.region q = s.region q) ∧
    (∀ who, who ∈ x.gateUnits c → who ∉ (x.cluster c).requests → ∃ u, exec (.swapRequest d r c who) s = .next u ∧
      ((u.region k).cluster c).requests = (x.cluster c).requests ++ [who] ∧
      (∀ i, i ≠ c → (u.region k).cluster i = x.cluster i) ∧ u = s.setRegion k (u.region k)) ∧
    (∀ cs, s.powered = true → (s.advance t).mayStrobe k cs = true → ∃ v : State,
      exec (.swapStrobe t d r cs []) s = .next v.settle ∧
      (v.region k).swapCnt = satAdd x.swapCnt (if x.shape = 3 then 1 else ((List.range 4).filter cs.contains).length) ∧
      (∀ i ∈ cs, ((v.region k).cluster i).active = (x.cluster i).shadow ∧ ((v.region k).cluster i).shadow = none ∧
        ((v.region k).cluster i).requests = [] ∧ ((v.region k).cluster i).lastStrobe = some now) ∧
      (∀ i, i ∉ cs → (v.region k).cluster i = x.cluster i) ∧ (∀ q, q ≠ k → v.region q = s.region q) ∧ v.cmp.sp = s.cmp.sp) ∧
    (∀ z p, (s.advance t).mayStrobe k [c] = true → (x.cluster c).shadow = some z → x.passes.find? (fun q => q.key == z.key) = some p →
      ∃ v : State, exec (.swapStrobe t d r [c] []) s = .next v.settle ∧ ∃ q ∈ (v.region k).passes, q.key = p.key ∧
        q.store = (p.serve (s.passIn p) c z).store ∧ tblGet 0 q.strobed c = tblGet 0 p.strobed c + 1) ∧
    (∀ cs bad, c ∈ cs → (now < (x.cluster c).loadCyc + 32 ∨ (∃ p, (x.cluster c).lastStrobe = some p ∧ now < p + 33) ∨ x.gateReady c = false) →
      exec (.swapStrobe t d r cs bad) s = .next (s.advance t))

/-- A region whose array holds no vector and whose feet have delivered their results takes another shape, in 8 cycles; it turns its direction
around in the cycle of a strobe or after L cycles without a vector, backward only in the REGION shape. Nothing else changes. -/
def Claims.ShapeAndDirection : Prop :=
  ∀ (s : State) (t d r : Nat), s.powered = true → s.available (rkey d r) = true →
    let k := rkey d r
    let x := s.region k
    let now := (s.advance t).cycleOf k
    (∀ shape, shape < 4 → x.passes.any RunPass.midway = false → x.shapeEnd ≤ now →
      (∀ c, c < 4 → (x.cluster c).delivered (latency x.shape x.dirBack) now = true) →
      exec (.shapeChange d r ⟨t, shape⟩) s = .next ((s.advance t).setRegion k { x with shape := shape, shapeEnd := now + 8 })) ∧
    (∀ shape c, c < 4 → (x.cluster c).delivered (latency x.shape x.dirBack) now = false →
      exec (.shapeChange d r ⟨t, shape⟩) s = .next (s.advance t)) ∧
    ((∀ c, c < 4 → ∀ p, (x.cluster c).lastStrobe = some p →
        p + ((x.cluster c).vectors - 1) * (x.cluster c).every + latency x.shape x.dirBack ≤ now) →
      exec (.directionChange d r ⟨t, false⟩) s = .next ((s.advance t).setRegion k { x with dirBack := false }) ∧
      (x.shape = 3 → exec (.directionChange d r ⟨t, true⟩) s = .next ((s.advance t).setRegion k { x with dirBack := true }))) ∧
    (x.shape ≠ 3 → exec (.directionChange d r ⟨t, true⟩) s = .next (s.advance t))

/-- A tile core that halts is marked faulty and stays halted, its units leave the swap gate, the work it ran takes the status of the halt where it
had a usable one, and the fault is reported against the partition that owns the region; no other region changes. -/
def Claims.TileCoreHalts : Prop :=
  ∀ (s : State) (t d r tile : Nat) (cause : HaltCause), s.powered = true → s.available (rkey d r) = true → tile < 64 →
    maskBit (s.region (rkey d r)).halted tile = false →
    let k := rkey d r
    ∃ u, exec (.tileCoreHalt t d r tile cause) s = .next u ∧
      maskBit (u.region k).tcoreFault tile = true ∧ maskBit (u.region k).halted tile = true ∧ u.coreRuns k tile = false ∧
      (∀ i, i ≠ tile → maskBit (u.region k).halted i = maskBit (s.region k).halted i ∧
        maskBit (u.region k).tcoreFault i = maskBit (s.region k).tcoreFault i) ∧
      (∀ c who, who ∈ (u.region k).gateUnits c → who ∈ (s.region k).gateUnits c) ∧
      (∀ q, q ≠ k → u.region q = s.region q ∧ u.port q = s.port q) ∧ u.cmp.sp = s.cmp.sp ∧
      (∀ p, (s.region k).coreMaybe tile = some p → (s.workStatus (some p.key.work)).usable = true → s.work p.key.work ≠ none →
        u.workStatus (some p.key.work) = haltStatus cause) ∧
      u.safe.logCount = s.safe.logCount + 1 ∧
      (s.safe.log.length < 256 → ∃ e, e ∈ u.safe.log ∧ e.code = 0x08 ∧ e.detail = k ∧ e.time = max s.time.cnt t) ∧
      u = { s.advance t with cmp := u.cmp, safe := u.safe, cte := u.cte, eths := u.eths, records := u.records }

/-- A pending port mode takes effect at a phase 0 of the region's frame once nothing runs under the mode in force, and what waited for it
goes on; at another phase, or while work runs under that mode, nothing happens. -/
def Claims.PortModes : Prop :=
  ∀ (s : State) (t d r : Nat), s.powered = true → s.available (rkey d r) = true → (s.port (rkey d r)).portPending = true →
    let k := rkey d r
    ((s.advance t).cycleOf k % 16 = 0 → (s.advance t).modeInUse k = false →
      exec (.portModeApply t d r) s =
        .next ((s.advance t).setPort k { s.port k with portMode := (s.port k).portNext, portPending := false, portNext := 0 }).settle) ∧
    ((s.advance t).cycleOf k % 16 ≠ 0 ∨ (s.advance t).modeInUse k = true → exec (.portModeApply t d r) s = .next (s.advance t))

/-- No lane and phase of any port mode belongs to two clients, modes 0 to 4 give every slot an owner, and over a frame of four lanes
and sixteen phases the narrow client and the transfer engine keep their share in each. -/
def Claims.PortPattern : Prop :=
  (∀ mode lane phase, mode ≤ 4 → lane < 4 → phase < 16 → ∃ c, slotOwner mode lane phase = some c) ∧
  (∀ mode lane phase, 4 < mode → slotOwner mode lane phase = none) ∧
  (∀ mode, mode ≤ 4 → ∃ lane phase, lane < 4 ∧ phase < 16 ∧ slotOwner mode lane phase = some .narrow) ∧
  (∀ mode, mode ≤ 4 → ∃ lane phase, lane < 4 ∧ phase < 16 ∧ slotOwner mode lane phase = some .dx)

/-- Swap strobes, shapes, tile-core halts and port modes of a region. -/
def Obligations.RegionSequencers : Prop :=
  Claims.SwapStrobes ∧ Claims.ShapeAndDirection ∧ Claims.TileCoreHalts ∧ Claims.PortModes ∧ Claims.PortPattern

/-- An access of a task that holds its slot, inside its window and in a slot of the port pattern that serves it, whose banks serve no other in
the cycle and whose walk has it next, is served: a read changes no byte and moves its client's walk on, a write stores its bytes and no
other; a single-bit error is corrected and counted, and a double-bit error poisons and records its line. One outside its window is
refused, recorded, stops its task and writes nothing; any other changes nothing. -/
def Claims.ScratchpadAccesses : Prop :=
  ∀ (s : State) (t d r : Nat) (a : SpAcc), s.powered = true → s.available (rkey d r) = true →
    let k := rkey d r
    let w := s.winOf k a.slot
    let spa := w.base + a.offset
    let o := spa % sliceLen
    let now := s.advance t
    w.work.isSome = true → w.stopped = false →
    (s.inWin w a.offset a.length = true → now.slotServes k a o = true → now.banksFree k a o = true → s.walkServes k a spa = true →
      (∀ n, a.ecc = .clean ∧ n = 0 ∨ a.ecc = .corrected n → s.spPoisoned spa a.length = false → a.write = none → ∃ u,
        exec (.spAccess t d r a) s = .next u ∧ (u.port k).eccCe.toNat = min 0xFFFFFFFF ((s.port k).eccCe.toNat + n) ∧
        (∀ b ∈ spBanks a o, b < 32 → maskBit (u.port k).usedBanks b = true) ∧ (u.port k).usedCyc = now.cycleOf k ∧
        (∀ x, s.walkOf k a.client = some x →
          u.walkOf k a.client = some (Walk.deliver x.todo.length { x with got := x.got ++ [(spa / 2048, s.spRead spa a.length)] })) ∧
        u = now.setPort k (u.port k)) ∧
      (a.ecc = .clean → ∀ bs, a.write = some bs → ∃ u, exec (.spAccess t d r a) s = .next u ∧
        (∀ i, i < a.length → u.spByte (spa + i) = bs.getD i 0) ∧
        (∀ q, (∀ i, i < a.length → s.spaKey (spa + i) ≠ some q) → memGet u.cmp.sp q = memGet s.cmp.sp q) ∧
        u = { now with cmp := { s.cmp with sp := u.cmp.sp, ports := u.cmp.ports } }) ∧
      (∀ bank, a.ecc = .double bank → a.write = none → ∃ u, exec (.spAccess t d r a) s = .next u ∧
        (∃ b ∈ spBanks a o, (k * sliceLen + (o / 8192 * 8192 + 256 * b)) / 256 ∈ u.cmp.spPoison) ∧
        (u.port k).eccUe.getLsbD 31 = true ∧ u.cmp.sp = s.cmp.sp)) ∧
    (s.inWin w a.offset a.length = false → ∃ u, exec (.spAccess t d r a) s = .next u ∧
      (u.port k).boundCnt = satInc (s.port k).boundCnt ∧ (u.port k).boundOfs = w32 a.offset ∧
      (u.port k).boundErr = recWrite (s.port k).boundErr (a.slot % 128 * 256 + accKind a % 8) ∧
      ((a.slot < 64 ∨ ∀ e ∈ s.passes, e.2.ready = true) → u.cmp.sp = s.cmp.sp) ∧
      (a.slot < 64 → (u.winOf k a.slot).stopped = true ∧ maskBit (u.region k).halted a.slot = true) ∧
      (64 ≤ a.slot → ∀ id, w.work = some id → ∀ x, s.work id = some x → Status.usable x.status = true → (u.workStatus (some id)) = stNotAuth ∧
        ∀ e ∈ u.passes, e.2.key.work ≠ id)) ∧
    (s.inWin w a.offset a.length = true → (now.slotServes k a o = false ∨ now.banksFree k a o = false ∨ s.walkServes k a spa = false) →
      exec (.spAccess t d r a) s = .next now)

/-- A window slot that no running task holds, and one whose task has been stopped, makes no access. -/
def Claims.IdleSlots : Prop :=
  ∀ (s : State) (t d r : Nat) (a : SpAcc),
    ((s.winOf (rkey d r) a.slot).work = none ∨ (s.winOf (rkey d r) a.slot).stopped = true) → exec (.spAccess t d r a) s = .next (s.advance t)

/-- The transfer engine takes its descriptors in order, one at a time: it reads the 64 bytes of one in its window, which it then works in; one
that is not aligned or that R114 refuses leaves it with BAD_PARAM for its work. What a program starts is put behind the others. A
transfer whose rows all land is counted; one that the far end or a link fails keeps the rows that have arrived, records its status
and signals nothing, and so fails one to or from a package whose links are all down. -/
def Claims.Transfers : Prop :=
  ∀ (s : State) (t d r : Nat) (x : Xfer) (rest : List Xfer), s.powered = true → s.available (rkey d r) = true →
    (s.port (rkey d r)).xfers = x :: rest →
    let k := rkey d r
    let now := s.advance t
    ((s.port k).xferRun = false → ∀ off, x.src = .at_ off →
      let dd := xferOf (fun o => s.spByte (x.base + o)) off
      (off % 64 = 0 → s.inRange x.base x.bound off 64 = true → s.spPoisoned (x.base + off) 64 = false →
        (xferBad (s.glob.pkgCount.toNat + 1) dd = false → ∃ u, exec (.xferStart t d ⟨r, none⟩) s = .next u ∧
          (u.port k).xferRun = true ∧ (u.port k).xferKind = dd.kind ∧ (u.port k).xfers = { x with desc := dd } :: rest ∧
          u.winOf k 67 = { base := x.base, bound := x.bound, part := x.part, work := x.work } ∧ u = now.setPort k (u.port k)) ∧
        (xferBad (s.glob.pkgCount.toNat + 1) dd = true → ∃ u, exec (.xferStart t d ⟨r, none⟩) s = .next u ∧
          (u.port k).xferRun = false ∧ (u.port k).xfers = rest ∧ u = (now.popXfer k).addStatus x.work stBadParam)) ∧
      (off % 64 ≠ 0 → exec (.xferStart t d ⟨r, none⟩) s = .next ((now.popXfer k).addStatus x.work stBadParam))) ∧
    ((s.port k).xferRun = true → ∀ id off w, s.work id = some w →
      exec (.xferStart t d ⟨r, some (id, off)⟩) s = .next (now.queueXfer k (now.xferFor k w off))) ∧
    ((s.port k).xferRun = true → x.desc.kind = 4 ∨ x.desc.kind = 5 → now.remoteDown x.desc.remotePkg = true → ∀ h,
      exec (.xferComplete t d r h) s = .next (now.failXfer k x stEcc)) ∧
    ((s.port k).xferRun = true → x.desc.signal = false → ∀ off, x.src = .at_ off →
      (x.desc.kind = 4 ∨ x.desc.kind = 5 → now.remoteDown x.desc.remotePkg = false) →
      ∀ s' far, now.xferRows x far 0 x.desc.rows = (s', none) → ∃ u, exec (.xferComplete t d r (.data far)) s = .next u ∧
        (u.port k).xferDone = (s.port k).xferDone + 1 ∧ (u.port k).xferRun = false ∧ (u.port k).xfers = rest ∧
        (u.winOf k 67).work = none ∧ u.cmp.sp = s'.cmp.sp ∧ u.cmp.lp = s'.cmp.lp ∧ u = s'.setPort k (u.port k)) ∧
    ((s.port k).xferRun = true → ∀ st n far, st = stNotAuth ∨ st = stEcc → ∃ u, exec (.xferFail t d r st ⟨n, .data far⟩) s = .next u ∧
      (u.port k).xferErr = recWrite (s.port k).xferErr st.toNat ∧ (u.port k).xferDone = (s.port k).xferDone ∧
      (u.port k).xfers = rest ∧ u.sync = s.sync ∧ u.cmp.sp = (now.xferRows x far 0 (min n x.desc.rows)).1.cmp.sp ∧
      u.cmp.lp = (now.xferRows x far 0 (min n x.desc.rows)).1.cmp.lp)

/-- Scratchpad accesses and transfers. -/
def Obligations.ScratchpadTraffic : Prop :=
  Claims.ScratchpadAccesses ∧ Claims.IdleSlots ∧ Claims.Transfers

/-- A transfer from the scratchpad to LPDDR moves each byte of each of its rows: a row inside its window and its LPDDR window lands where
FAR_ADDR and FAR_STRIDE put it, changes no other LPDDR byte and no scratchpad byte; a row outside either end is refused there. -/
def Obligations.TransferRows : Prop :=
  ∀ (s : State) (x : Xfer) (far : List Byte) (i : Nat), x.desc.kind = 2 → x.desc.zero = false →
    let off := x.desc.spOffset + i * x.desc.spStride
    let fo := x.desc.farAddr + i * x.desc.farStride
    (s.inRange x.base x.bound off x.desc.rowBytes = true → fo + x.desc.rowBytes ≤ x.lpLen →
      s.spPoisoned (x.base + off) x.desc.rowBytes = false →
      ∃ u, s.xferRow x far i = .ok u ∧
        (∀ j, j < x.desc.rowBytes → memGet u.cmp.lp (x.lp + fo + j) = s.spByte (x.base + off + j)) ∧
        (∀ a, a < x.lp + fo ∨ x.lp + fo + x.desc.rowBytes ≤ a → memGet u.cmp.lp a = memGet s.cmp.lp a) ∧ u.cmp.sp = s.cmp.sp) ∧
    (s.inRange x.base x.bound off x.desc.rowBytes = false → s.xferRow x far i = .error (.near off)) ∧
    (s.inRange x.base x.bound off x.desc.rowBytes = true → x.lpLen < fo + x.desc.rowBytes → s.xferRow x far i = .error (.far fo))

/-- The address generator reads the 64 bytes of its descriptor: one that is not aligned or that its rules refuse gives its work BAD_PARAM and
writes nothing; WALK moves no data; the rows of EXPAND, POOL and GATHER are written in order, and a descriptor that finishes is
counted. -/
def Claims.AddressGenerator : Prop :=
  ∀ (s : State) (t d r off : Nat), s.powered = true → s.available (rkey d r) = true →
    let k := rkey d r
    let w := s.winOf k 66
    let a := agenOf (fun o => s.spByte (w.base + o)) off
    let begun := (s.advance t).setPort k { s.port k with agenOp := a.op % 8, agenRun := false }
    w.work.isSome = true → w.stopped = false → s.inWin w off 64 = true → s.spPoisoned (w.base + off) 64 = false →
    (off % 64 ≠ 0 ∨ agenBad a = true → exec (.agenComplete t d r off) s = .next (begun.addStatus w.work stBadParam)) ∧
    (off % 64 = 0 → agenBad a = false → a.signal = false → a.op = 1 → ∃ u, exec (.agenComplete t d r off) s = .next u ∧
      (u.port k).agenDone = (s.port k).agenDone + 1 ∧ tblGet {} (u.port k).walks a.client = {} ∧ u = begun.setPort k (u.port k)) ∧
    (off % 64 = 0 → agenBad a = false → a.signal = false → ∀ s' n,
      (a.op = 2 → State.agenRows w (expandRows w a) begun 0 = (s', 0, none) →
        exec (.agenComplete t d r off) s = .next (s'.setPort k { s'.port k with agenDone := (s'.port k).agenDone + 1 })) ∧
      (a.op = 3 → State.agenRows w (poolRows w a) begun 0 = (s', n, none) → ∃ u, exec (.agenComplete t d r off) s = .next u ∧
        (u.region k).nonfinite = satAdd (s'.region k).nonfinite n ∧ (u.port k).agenDone = (s'.port k).agenDone + 1 ∧
        u.cmp.sp = s'.cmp.sp) ∧
      (a.op = 4 → begun.gatherRows k w a 0 a.oyCnt = (s', none) →
        exec (.agenComplete t d r off) s = .next (s'.setPort k { s'.port k with agenDone := (s'.port k).agenDone + 1 })))

/-- A row of a GATHER whose index is below H is the table's row, one whose index is not is +0 and gives DATA_ERROR: in a template step to the
position whose row it is, otherwise to the task. -/
def Claims.GatherRows : Prop :=
  ∀ (s : State) (k : Nat) (w : Window) (a : AgenDesc) (i : Nat),
    let at_ := a.imgPitch + 4 * i
    let ix := leNat (s.spRead (w.base + at_) 4)
    s.inWin w at_ 4 = true → s.spPoisoned (w.base + at_) 4 = false → s.inWin w (a.dst + i * a.dstPitch) (a.c * 2) = true →
    (ix < a.h → s.inWin w (a.src + ix * a.rowPitch) (a.c * 2) = true → s.spPoisoned (w.base + (a.src + ix * a.rowPitch)) (a.c * 2) = false →
      s.gatherRow k w a i = .ok (s.spWrite (w.base + (a.dst + i * a.dstPitch)) (s.spRead (w.base + (a.src + ix * a.rowPitch)) (a.c * 2)))) ∧
    (a.h ≤ ix → ∃ u, s.gatherRow k w a i = .ok u ∧
      u.cmp.sp = (s.spWrite (w.base + (a.dst + i * a.dstPitch)) (List.replicate (a.c * 2) 0)).cmp.sp ∧
      (∀ part x, w.work = some (.step part) → s.work (.step part) = some x → tblGet stOk x.pos i = stOk → u.posStatus (.step part) i = stDataError) ∧
      (∀ d e x, w.work = some (.entry d e) → s.work (.entry d e) = some x → Status.usable x.status = true →
        u.workStatus (some (.entry d e)) = stDataError))

/-- The order in which the address generator takes taps: a tap inside the input has the offset that its image, row, column and
element size give, a tap in the padding has none; EXPAND gives each output position one row of DST_PITCH bytes. -/
def Claims.TapGeometry : Prop :=
  (∀ (a : AgenDesc) (n oy ox ky kx : Nat),
    let y := oy * a.sh + ky * a.dh
    let x := ox * a.sw + kx * a.dw
    (a.pt ≤ y → y < a.pt + a.h → a.pl ≤ x → x < a.pl + a.w →
      tapAt a n oy ox ky kx = some (a.src + n * a.imgPitch + (y - a.pt) * a.rowPitch + (x - a.pl) * a.c * elemSize a.elem)) ∧
    (y < a.pt ∨ a.pt + a.h ≤ y ∨ x < a.pl ∨ a.pl + a.w ≤ x → tapAt a n oy ox ky kx = none)) ∧
  (∀ (n p0 p1 dil k stride o : Nat), 0 < stride → outDim n p0 p1 dil k stride = some o →
    (o - 1) * stride + dil * (k - 1) + 1 ≤ n + p0 + p1 ∧ n + p0 + p1 < o * stride + dil * (k - 1) + 1) ∧
  (∀ (s : State) (w : Window) (a : AgenDesc) (n oy ox : Nat) (row : List Byte), s.expandRow w a n oy ox = .ok row →
    a.kh * a.kw * a.c * 2 ≤ a.dstPitch → row.length = a.dstPitch)

/-- The address generator and the order of its taps. -/
def Obligations.AddressGeneration : Prop :=
  Claims.AddressGenerator ∧ Claims.GatherRows ∧ Claims.TapGeometry

/-- A droop stretches a region's ACLK and is counted; a trip during a stretch restarts the hold and is not counted again; at least 64
stretched cycles after the latest trip the region returns, and its stretched cycles are counted. -/
def Claims.DroopStretch : Prop :=
  ∀ (s : State) (t d r : Nat), s.powered = true → s.enabled (rkey d r) = true →
    let k := rkey d r
    let x := s.port k
    (x.stretched = false → exec (.droopTrip t d r) s =
      .next ((s.advance t).setPort k { x with stretched := true, stretchT := max s.time.cnt t, slowT := max s.time.cnt t, droopCnt := satInc x.droopCnt })) ∧
    (x.stretched = true → exec (.droopTrip t d r) s = .next ((s.advance t).setPort k { x with stretchT := max s.time.cnt t })) ∧
    (∀ n, x.stretched = true → 64 ≤ n → x.stretchT + 160 ≤ max s.time.cnt t → exec (.stretchEnd t d r n) s =
      .next ((s.advance t).setPort k { x with stretched := false, stretchCyc := satAdd x.stretchCyc (n - x.dropCyc), dropCyc := 0, slowCyc := x.slowCyc + n })) ∧
    (∀ n, max s.time.cnt t < x.stretchT + 160 → exec (.stretchEnd t d r n) s = .next (s.advance t))

/-- A window of the power budget measures the package, and moves T by one at most: up where the power is above the cap or a sensor
above 110 °C, down where it is 2 W below and no sensor above 108 °C. The cap has not been met from the fourth window on in which T
stood at 16 with the power above it. The cap is the one in force before the cycle (R443). -/
def Claims.PowerWindows : Prop :=
  ∀ (s : State) (t : Nat) (rails : List RailVI) (sensors : List Int), s.powered = true → s.pwr.throttle ≤ 16 →
    let p := railPower rails
    let cap := (s.advance t).mark.pwr.cap
    let hot := match sensors with
      | [] => s.pwr.tjMax
      | a :: r => r.foldl max a
    ∃ u, exec (.pmbusPollWindow t rails sensors) s = .next u ∧ u.pwr.pkgMw = p ∧ u.pwr.tjMax = hot ∧ u.pwr.throttle ≤ 16 ∧
      (p > cap ∨ hot > 1760 → u.pwr.throttle = min 16 (s.pwr.throttle + 1)) ∧
      (p + 2000 < cap → hot ≤ 1728 → u.pwr.throttle = s.pwr.throttle - 1) ∧
      (p ≤ cap → hot ≤ 1760 → (cap ≤ p + 2000 ∨ 1728 < hot) → u.pwr.throttle = s.pwr.throttle) ∧
      (s.pwr.throttle = 16 → p > cap → 3 ≤ s.pwr.streak → u.pwr.capUnmet = true ∧ u.pwr.capExceed = satInc s.pwr.capExceed) ∧
      (u.pwr.throttle < 16 → u.pwr.capUnmet = false) ∧ u.pwr.cap = s.pwr.cap ∧
      u = { s.advance t with pwr := u.pwr, safe := { s.safe with events := u.safe.events } }

/-- A fault bit on a package rail is a safety event 0x13 for each such rail; with no rail named nothing happens. -/
def Claims.RailAlerts : Prop :=
  ∀ (s : State) (t : Nat) (rails : List Nat), s.powered = true →
    exec (.pmbAlert t rails) s = .next (rails.foldl (fun u r => u.raise 0x13 0xFF r) (s.advance t))

/-- Droop stretches, budget windows and rail alerts. -/
def Obligations.PowerManagement : Prop :=
  Claims.DroopStretch ∧ Claims.PowerWindows ∧ Claims.RailAlerts

/-- A command completes once: while it is in flight its reply is put behind the replies of its context, with its tag, status, AUX,
completion stamp and result words, and a status from 0x0101 on is counted; a command that its context no longer has in flight gets
none. Starting and completing a command changes nothing outside the command processor. -/
def Claims.CommandReplies : Prop :=
  (∀ (s : State) (r : CmdRef) (st aux : Status) (ws : List Word),
    (r.uid ∈ (s.ctx r.ctx).inflight →
      (∃ y, ((s.complete r st ws aux).ctx r.ctx).replies = (s.ctx r.ctx).replies ++ [y] ∧ y.uid = some r.uid ∧ y.tag = r.tag ∧
        y.status = st ∧ y.aux = aux ∧ y.result = ws ∧ y.stamp = BitVec.ofNat 30 (s.time.cnt / 4)) ∧
      (0x0101 ≤ st.toNat → (s.complete r st ws aux).cmd.refusedCnt = satInc s.cmd.refusedCnt)) ∧
    (r.uid ∉ (s.ctx r.ctx).inflight → s.complete r st ws aux = s) ∧
    (∀ c, c ≠ r.ctx → (s.complete r st ws aux).ctx c = s.ctx c) ∧ SameButCmd s (s.complete r st ws aux)) ∧
  (∀ (s : State) (c cls : Nat) (p : Packet), SameButCmd s (s.begin_ c p cls).1 ∧
    (s.headOf c = none → (s.begin_ c p cls).2.tag = p.tag ∧ (s.begin_ c p cls).2.ctx = c ∧
      (s.begin_ c p cls).2.uid ∈ ((s.begin_ c p cls).1.ctx c).inflight ∧
      ((s.begin_ c p cls).1.ctx c).fetched = (s.ctx c).fetched + 1))

/-- A command that may start is refused with the first of its own checks that applies, and a refusal has no other effect than its
reply; otherwise its effect is run on the state in which it has left the queue. -/
def Claims.CommandStarts : Prop :=
  ∀ (s : State) (c op cls : Nat) (p : Packet) (run : State → CmdRef → State), s.Starts c p op →
    (∀ st, s.command c p op cls (some st) run = s.replied c p cls st []) ∧
    s.command c p op cls none run = run (s.begin_ c p cls).1 (s.begin_ c p cls).2

/-- A command whose context is not ATTACHED, whose opcode is another's, or which is not its context's next, does not start, and
nothing changes; so too one of the pending families while a fetched control command waits, and one of the control family while that
queue is full. While no request reaches host memory, a command that is not queued cannot be fetched, and its context enters ERROR.
A command that has waited too long in its queue is answered BUSY. A command fetched now is refused with BAD_OPCODE, BAD_PARAM or TIMEOUT by the checks of its header, with
NOT_AUTHORISED while a zeroisation runs, and with BAD_PARAM where it needs an image and none is loaded, in that order. -/
def Claims.CommandGuards : Prop :=
  ∀ (s : State) (c op cls : Nat) (p : Packet) (own : Option Status) (run : State → CmdRef → State),
    ((s.ctx c).state ≠ .attached → s.command c p op cls own run = s) ∧ (p.opcode.toNat ≠ op → s.command c p op cls own run = s) ∧
    (∀ q, s.headOf c = some q → q.packet ≠ p → s.command c p op cls own run = s) ∧
    (controlFamily op = false → s.controlWaits = true → s.command c p op cls own run = s) ∧
    (controlFamily op = true → s.controlFull = true → s.headOf c = none → s.command c p op cls own run = s) ∧
    (s.powered = true → (s.ctx c).state = .attached → p.opcode.toNat = op → (controlFamily op = true ∨ s.controlWaits = false) →
      ∀ q, s.headOf c = some q → q.packet = p → s.fenceOk c q.cmd.uid p = true → s.aged q = true →
      { s with cmd := { s.cmd with queue := s.cmd.queue.erase q } }.startCheck p (some stBusy) = some stBusy →
      s.command c p op cls own run = s.replied c p cls stBusy []) ∧
    (s.powered = true → (s.ctx c).state = .attached → p.opcode.toNat = op → (controlFamily op = true ∨ s.controlWaits = false) →
      s.headOf c = none → s.mayFetch c = true → s.fenceOk c s.cmd.nextUid p = true → (controlFamily op && s.controlFull) = false →
      (s.ctxDead c = true → s.command c p op cls own run = s.ctxError c 2) ∧ (s.ctxDead c = false →
      (∀ st, s.headerCheck p = some st → s.command c p op cls own run = s.replied c p cls st []) ∧
      (s.headerCheck p = none → s.sec.mram.zrec ≠ none → op ≠ 0x0A01 →
        s.command c p op cls own run = s.replied c p cls stNotAuth []) ∧
      (s.headerCheck p = none → s.sec.mram.zrec = none → s.glob.imageLoaded = false → allowedWithoutImage op p = false →
        s.command c p op cls own run = s.replied c p cls stBadParam []))) ∧
    (opcodes.contains p.opcode.toNat = false → s.headerCheck p = some stBadOpcode) ∧
    (opcodes.contains p.opcode.toNat = true → (p.hlen ≠ 4 ∨ 4 ≤ p.flags.toNat) → s.headerCheck p = some stBadParam) ∧
    (opcodes.contains p.opcode.toNat = true → p.hlen = 4 → p.flags.toNat < 4 → s.deadlineDue p.deadline = true →
      s.headerCheck p = some stTimeout)

/-- A command starts or is refused, and is replied to once. -/
def Obligations.CommandLifecycle : Prop :=
  Claims.CommandReplies ∧ Claims.CommandStarts ∧ Claims.CommandGuards

/-- The key-value pool is used first fit (log entry 11): the region found lies in the partition's pool, begins at a multiple of 4 KB,
overlaps no other region, and no lower one would do. -/
def Obligations.FirstFit : Prop :=
  ∀ (s : State) (part n b : Nat), s.kvFit part n = some b →
    s.kvFree part b n = true ∧ b % 4096 = 0 ∧ ∀ b', b' % 4096 = 0 → s.kvFree part b' n = true → b ≤ b'

/-- The layout of a key-value region (elements of 2 bytes): its positions and size, the place of every element, the bytes of a page.
Every position of every head has its own bytes inside the region: two places of the layout never overlap. -/
def Obligations.KeyValueLayout : Prop :=
  ∀ (m : ModelCfg) (maxLen l k h j l' k' h' j' : Nat),
    l < m.layers → k < 2 → h < m.heads → j < kvPositions maxLen → l' < m.layers → k' < 2 → h' < m.heads → j' < kvPositions maxLen →
    let p := kvPositions maxLen
    maxLen ≤ p ∧ p < maxLen + 64 ∧ p % 64 = 0 ∧ kvSize m maxLen = 2 * m.layers * m.heads * p * m.dim * 2 ∧
    (∀ d, d < m.dim → kvOffset m p l k h j + d * 2 = ((((l * 2 + k) * m.heads + h) * p + j) * m.dim + d) * 2) ∧
    (∀ n i, i < 64 → kvOffset m p l k h (64 * n + i) = kvOffset m p l k h (64 * n) + i * (m.dim * 2)) ∧
    (∀ (s : State) (x : SeqEntry), x.maxLen = maxLen → s.kvAddr x m l k h j = (s.partCfg x.part).lpBase + x.kvBase + kvOffset m p l k h j) ∧
    kvOffset m p l k h j + kvRow m ≤ kvSize m maxLen ∧
    ((l, k, h, j) ≠ (l', k', h', j') →
      kvOffset m p l k h j + kvRow m ≤ kvOffset m p l' k' h' j' ∨ kvOffset m p l' k' h' j' + kvRow m ≤ kvOffset m p l k h j)

/-- SEQ_ADMIT makes an entry in WAIT_SLOT with a key-value region of its model and gives back its index and the region's base;
SEQ_APPEND gives an IDLE entry a new prompt; SEQ_STOP moves an entry to RETIRING, or marks it for the boundary of the step that its
partition runs;
SEQ_QUERY gives the entry as at the latest boundary with its STATUS in AUX. No other entry changes. -/
def Claims.SequenceCommands : Prop :=
  ∀ (s : State) (c : Nat) (p : Packet) (h : HostRead),
    (s.Starts c p 0x0310 → chkSeqAdmit s c p = none →
      let b := s.begin_ c p (openClass s c p)
      ∃ u m i base, exec (.seqAdmit c p h) s = .next (u.complete b.2 stOk [w32 i, w32 base, w32 (base / 2 ^ 32)]) ∧
        s.model (u8 p 17) = some m ∧ i = lowestUnlisted 0 s.srv.ents ∧ s.kvFit (s.ctx c).part (kvSize m (u32 p 24)) = some base ∧
        u = b.1.setSeq i (u.seq i) ∧ (u.seq i).state = .waitSlot ∧ (u.seq i).ctx = c ∧ (u.seq i).cls = u8 p 16 ∧
        (u.seq i).maxLen = u32 p 24 ∧ (u.seq i).promptLeft = u32 p 28 ∧ (u.seq i).newLeft = u32 p 32 ∧ (u.seq i).length = 0 ∧
        (u.seq i).kvBase = base ∧ (u.seq i).kvLen = kvSize m (u32 p 24)) ∧
    (s.Starts c p 0x0311 → chkSeqAppend s c p = none →
      let b := s.begin_ c p (seqClass s c p)
      exec (.seqAppend c p h) s = .next ((b.1.setSeq (seqArg p) { s.seq (seqArg p) with
        state := .waitSlot, promptLeft := u32 p 28, newLeft := u32 p 32, promptAddr := u64 p 40, ended := false }).complete b.2 stOk [])) ∧
    (s.Starts c p 0x0312 → chkSeqNamed s c p = none →
      let b := s.begin_ c p (seqClass s c p)
      let x := s.seq (seqArg p)
      let stopped : SeqEntry := if (s.builder x.part).running then { x with stopReq := true } else
        { x with state := .retiring, stopReq := true, status := stOk }
      exec (.seqStop c p) s = .next ((if x.state = .retiring then b.1 else b.1.setSeq (seqArg p) stopped).complete b.2 stOk [])) ∧
    (s.Starts c p 0x0313 → chkSeqNamed s c p = none →
      let b := s.begin_ c p (seqClass s c p)
      let x := tblGet {} s.srv.shown (seqArg p)
      (x.state ≠ .free → exec (.seqQuery c p) s = .next (b.1.complete b.2 stOk x.words x.status)) ∧
      (x.state = .free → exec (.seqQuery c p) s = .next (b.1.complete b.2 stOk [0, 0, 0, 0, 0] x.status)))

/-- A waiting list starts in a slice opened since the latest boundary, a token placed at each position; at its end, once no pass and
no transfer of it is left, the partition no longer runs, the step is counted, its credit
is charged, its work is over, and waiting detaches and resets answered. A package that does not lead a pooled model mirrors
the lead's entries, template and work list. -/
def Claims.Steps : Prop :=
  (∀ (s : State) (t part : Nat), s.powered = true →
    (∀ e l m tpl, (s.builder part).running = false → (s.advance t).sliceOpen part = true → s.noWork part = false → s.image ≠ none →
      (s.builder part).list = e :: l → (∀ x ∈ (s.builder part).list, (s.seq x.1).state = .prompt ∨ (s.seq x.1).state = .decode) →
      s.model (s.builder part).model = some m → m.templates[(s.builder part).tpl]? = some tpl →
      exec (.stepStart t part) s = .next (((s.advance t).setBuilder part { s.builder part with running := true }).beginStep part m tpl)) ∧
    ((s.advance t).sliceOpen part = false → exec (.stepStart t part) s = .next (s.advance t)) ∧
    (∀ m tpl parks writes, (s.builder part).running = true → s.workQuiet (.step part) = true → s.model (s.builder part).model = some m →
      m.templates[(s.builder part).tpl]? = some tpl →
      ∃ u : State, exec (.stepBoundary t part parks writes) s = .next u ∧ (u.builder part).running = false ∧
        (u.builder part).steps = (s.builder part).steps + 1 ∧ u.srv.steps = satInc s.srv.steps ∧
        (u.builder part).credit3 = s.newCredit part m (s.builder part) ∧ (u.builder part).boundT = some (s.advance t).time.cnt ∧
        u.work (.step part) = none ∧ (∀ e ∈ u.cmd.leaving, e.1 ≠ part) ∧ u.time = (s.advance t).time ∧ u.image = s.image) ∧
    (((s.builder part).running = false ∨ s.workQuiet (.step part) = false) → ∀ parks writes, exec (.stepBoundary t part parks writes) s = .next (s.advance t)) ∧
    (∀ mdl tpl m work entries grants, s.model mdl = some m → m.pooled = true → s.glob.pkgId ≠ 0 → (s.builder m.part).running = false →
      ∃ u : State, exec (.poolWorkListReceive t mdl ⟨tpl, work⟩ ⟨entries, grants⟩) s = .next u ∧
        (u.builder m.part).list = work.filter (fun w => entries.any fun e => e.1 == w.1 && decide (e.1 < 4096)) ∧
        (u.builder m.part).model = mdl ∧ (u.builder m.part).tpl = tpl ∧ (u.builder m.part).running = false ∧
        (∀ i, (∀ e ∈ entries, e.1 ≠ i) →
          u.seq i = s.seq i ∨ ((s.seq i).model = mdl ∧ (u.seq i).state = .free)) ∧
        ∀ i bs, (i, bs) ∈ entries → i < 4096 → (entries.map Prod.fst).Nodup → (s.seq i).slot = none → (seqFromBytes m bs).slot = none →
          u.seq i = { seqFromBytes m bs with last := (s.seq i).last, pageParked := (s.seq i).pageParked })) ∧
  ∀ (s : State) (id : WorkId) (m : ModelCfg) (tpl : Template) (p : StepPos) (i a b : Nat), tpl.tokAt = some a → tpl.posAt = some b →
    (s.tokenFault m p = stOk →
      s.placePos id m tpl p i = (s.spWrite (a + 4 * i) (leBytes (s.tokenOf p) 4)).spWrite (b + 4 * i)
        (leBytes ((s.seq p.seq).posStart + w32 p.at_).toNat 4)) ∧
    (s.tokenFault m p ≠ stOk → ∀ w, s.work id = some w → ((s.placePos id m tpl p i).posStatus id i).usable = false) ∧
    (s.tokenFault m p = stOk ↔
      (p.chunk = true → (s.seq p.seq).promptAddr + 4 * (p.off + 1) ≤ (s.partCfg (s.seq p.seq).part).lpLen ∧
        s.lpPoisoned (s.tokenAddr p) 4 = false) ∧ s.tokenOf p < m.vocab)

/-- A chunk that does not end its prompt moves the sequence on and records nothing; one that does, and a token step, take the token of
the output stage at the last position, record it in the ring with position, status and step count, using one of NEW_LEFT; at the end
marker or the last of NEW_LEFT the sequence ends, and one of class 2 with KEEP goes IDLE. A context whose ring cannot be written enters
ERROR; a page that cannot be parked makes its sequence corrupt with that status. A fault leaves its length, makes it corrupt and
RETIRING with the fault's status, and records nothing. -/
def Claims.SequenceAdvance : Prop :=
  ∀ (s : State) (lost : BoundaryLoss) (id : WorkId) (m : ModelCfg) (tpl : Template) (i n first : Nat),
    let x := s.seq i
    let left := if x.state = .prompt then x.promptLeft - n else 0
    let u := s.advanceSeq lost id m tpl (i, n) first
    let y : SeqEntry := { x with
      length := x.length + n, promptLeft := left, promptAddr := (if x.state = .prompt then x.promptAddr + 4 * n else x.promptAddr),
      rerun := x.rerun || (List.range n).any (fun k => s.posStatus id (first + k) == stWideRerun), status := s.posStatus id (first + n - 1) }
    let tok := Config.outputStage ((s.image.map Image.ident).getD 0) x.model x.seed (x.posStart + w32 (x.length + n - 1))
      (s.outInputs tpl (first + n - 1))
    (∀ k, k ≠ i → u.seq k = s.seq k) ∧
    (∀ st, worstFault (s.seqFaults id tpl first n (left == 0)) = some st →
      u.seq i = { x with state := .retiring, corrupt := true, status := st } ∧ u.hostMem = s.hostMem ∧ u.hubMem = s.hubMem) ∧
    (worstFault (s.seqFaults id tpl first n (left == 0)) = none → x.corrupt = false →
      (0 < left → u = s.setSeq i y) ∧
      (left = 0 → ∀ w, tok = some w → 1 < x.newLeft →
        let z : SeqEntry := { y with state := .decode, newLeft := x.newLeft - 1, last := w }
        (x.gone = false → s.mirrored x = false → (s.ctxDead x.ctx = true ∨ x.ctx ∈ lost.writes) → u = (s.setSeq i z).ctxError x.ctx 3) ∧
        (x.gone = false → s.mirrored x = false → s.ctxDead x.ctx = false → x.ctx ∉ lost.writes →
          let bytes := leBytes w.toNat 4 ++ leBytes (x.length + n) 4 ++ leBytes y.status.toNat 2 ++ leBytes i 2 ++
            leBytes (s.builder x.part).steps.toNat 4
          let f := (s.ctx x.ctx).func
          u = (((s.setSeq i z).writeFunc f (x.ring + 64 + 16 * (x.outPi.toNat % 2 ^ x.ringLog2)) bytes).setSeq i
            { z with outPi := x.outPi + 1 }).writeFunc f x.ring (leBytes (x.outPi + 1).toNat 4)) ∧
        ((x.gone = true ∨ s.mirrored x = true) → u = s.setSeq i z)) ∧
      (left = 0 → (tok = none ∨ x.newLeft ≤ 1) →
        (¬(x.keep = true ∧ x.cls = 2) → (u.seq i).state = .retiring ∧ (u.seq i).ended = true ∧ (u.seq i).length = x.length + n ∧
          (u.seq i).status = y.status) ∧
        (x.keep = true → x.cls = 2 → (∀ mm, s.model x.model = some mm → s.stagePoisoned x mm = false) →
          (lostPark lost i = none ∨ (x.length + n) % 64 = 0 ∨ s.model x.model = none →
            (u.seq i).state = .idle ∧ (u.seq i).slot = none ∧ (u.seq i).ended = true ∧ (u.seq i).length = x.length + n) ∧
          (∀ e, lostPark lost i = some e → s.model x.model ≠ none → (x.length + n) % 64 ≠ 0 →
            (u.seq i).state = .retiring ∧ (u.seq i).corrupt = true ∧ (u.seq i).status = e ∧ u.hostMem = s.hostMem ∧ u.hubMem = s.hubMem))))

/-- Attention in a step. A query admits the keys up to its own position, of a sparse sequence those of its window and its global
positions. The keys and values of a token, converted to the model's format, are read back from its staging slot. A result reads no
masked key or value; while no feature may vary it takes the spans with an admitted key in ascending order, whatever order is offered. It
is written in the pass's window, its results that are not finite are counted, and nothing else changes; a query or a result outside the
window is refused, and poisoned data marks the position. -/
def Claims.AttentionResults : Prop :=
  (∀ desc p j, admitsKey desc p j = true ↔ j ≤ p ∧ ∀ d, desc = some d → p - j < d.window ∨ j ∈ d.globals) ∧
  (∀ (x y : AttnIn), x.query = y.query → x.dim = y.dim → x.act16 = y.act16 → x.kv16 = y.kv16 → x.admits = y.admits →
    (∀ j, x.admits j = true → x.key j = y.key j ∧ x.val j = y.val j) → ∀ early pieces, x.run early pieces = y.run early pieces) ∧
  (∀ (x : AttnIn) (p : Nat), (∀ a n, (a, n) ∈ x.spans p ↔ n = 256 ∧ a % 256 = 0 ∧ a ≤ p ∧ ∃ i < 256, x.admits (a + i) = true) ∧
    ((x.spans p).map Prod.fst).Pairwise (· < ·)) ∧
  (∀ (s : State) (x : SeqEntry) (m : ModelCfg) (a : AttnIn) (p : Nat) (plan : List (Nat × Nat)),
    (s.attnOut x m a p plan).1.length = a.dim ∧ (s.stepVaries x m = false → s.attnOut x m a p plan = a.run false (a.spans p))) ∧
  (∀ (s : State) (id : WorkId) (i l k h b : Nat) (m : ModelCfg) (res : List Word), (s.seq i).length % 64 ≠ 63 → k < 2 → h < m.heads →
    s.stageBase (s.seq i) m l = some b → s.spaKey b ≠ none → b % sliceLen + stageLayer m ≤ sliceLen →
    (s.storeKv id i m false 1 l k (s.seq i).length res).kvRead (s.seq i) m ((s.seq i).length + 1) l k h (s.seq i).length =
      (List.range m.dim).map fun d => (if m.kvFp16 then f32ToFp16 else f32ToBf16) (res.getD (h * m.dim + d) 0)) ∧
  ∀ (s : State) (r : Nat) (p : RunPass) (m : ModelCfg) (layer i h : Nat) (fp16 : Bool) (o : PassOuts) (q : StepPos),
    let n := 2 * m.dim
    let qAt := p.sh.acts.getD i 0 + h * n
    let outAt := p.sh.out.getD 0 + (i * p.sh.count + h) * n
    let x := s.seq q.seq
    let len := x.length + s.stepCount p.part q.seq
    let a := s.attnIn x m len layer (p.sh.first + h) q.at_ fp16
      ((List.range m.dim).map fun d => BitVec.ofNat 16 (leNat (bytesAt (s.spRead (p.sh.base + qAt) n) (2 * d) 2)))
    let u := s.attnHead r p m layer fp16 o i q h
    (s.inRange p.sh.base p.sh.bound qAt n = false → u = (s.boundRecord r p.slot 2 qAt).addPos p.key.work i stNotAuth) ∧
    (s.inRange p.sh.base p.sh.bound qAt n = true → s.inRange p.sh.base p.sh.bound outAt n = false →
      u = (s.boundRecord r p.slot 3 outAt).addPos p.key.work i stNotAuth) ∧
    (s.inRange p.sh.base p.sh.bound qAt n = true → s.inRange p.sh.base p.sh.bound outAt n = true →
      ((s.winPoisoned p (qAt, n) || s.attnPoisoned x m len layer (p.sh.first + h) q.at_) = true →
        u = (s.addPos p.key.work i stEcc).faultUnit r) ∧
      ((s.winPoisoned p (qAt, n) || s.attnPoisoned x m len layer (p.sh.first + h) q.at_) = false →
        ∃ plan, u = (s.addNonfinite r (s.attnOut x m a q.at_ plan).2).spWrite (p.sh.base + outAt)
          ((s.attnOut x m a q.at_ plan).1.flatMap fun v => leBytes v.toNat 2)))

/-- Sequences: their commands, their steps and what a step does to each. -/
def Obligations.SequencesAdvance : Prop :=
  Claims.SequenceCommands ∧ Claims.Steps ∧ Claims.SequenceAdvance ∧ Claims.AttentionResults

/-- The step builder's list holds each sequence at most once, none but PROMPT and DECODE sequences of the model whose context is
ATTACHED, and stays inside the bounds of the largest template. -/
def Obligations.WorkListBounds : Prop :=
  ∀ (s : State) (part mdl : Nat) (big : Template), (s.srv.ents.map Prod.fst).Nodup →
    let a := s.workList part mdl big
    (a.list.map Prod.fst).Nodup ∧ a.list.length ≤ big.seqMax ∧
    (∀ e ∈ a.list, ((s.seq e.1).state = .prompt ∨ (s.seq e.1).state = .decode) ∧ (s.seq e.1).model = mdl ∧ s.seqRuns e.1 = true ∧ 0 < e.2) ∧
    ((a.list.filter fun e => (s.seq e.1).state == .decode).map Prod.snd).sum ≤ big.tokMax ∧
    ((a.list.filter fun e => (s.seq e.1).state == .prompt).map Prod.snd).sum ≤ big.chkMax

/-- STRM_OPEN makes an entry for the model with its initial state in the home copy, and keeps a free slot for it where it asks for one;
STRM_PUSH puts a chunk behind the earlier ones; STRM_SWAP_OUT, STRM_SWAP_IN and STRM_CLOSE wait for the next boundary, or are answered
at once where there is nothing to move; STRM_QUERY gives the entry and STRM_STATE reads the state as at the latest boundary; STRM_STATE
writes a state, which a pinned stream and a state that is not finite or out of range refuse. -/
def Obligations.StreamCommands : Prop :=
  ∀ (s : State) (c : Nat) (p : Packet) (h : HostRead),
    let x := s.stream (strmArg p)
    let b := s.begin_ c p (strmClass s c p)
    (s.Starts c p 0x0320 → chkStrmOpen s c p = none →
      let b := s.begin_ c p (openClass s c p)
      ∃ u m i, s.strmModel (u8 p 17) = some m ∧ i = lowestUnlisted 0 s.strm.ents ∧
        exec (.strmOpen c p) s = .next (u.complete b.2 stOk [w32 i, w32 (if (u.stream i).inDue then 1 else 0)]) ∧
        u = (b.1.writeHome (u.stream i) m (initState m)).setStream i (u.stream i) ∧ (u.stream i).valid = true ∧
        (u.stream i).resident = false ∧ (u.stream i).ctx = c ∧ (u.stream i).home = u64 p 24 ∧ (u.stream i).step = 0 ∧
        (u.stream i).reserved = (if strmFlag p then s.freeSlot m else none) ∧
        ((u.stream i).inDue = true ↔ strmFlag p = true ∧ s.freeSlot m ≠ none)) ∧
    (s.Starts c p 0x0321 → chkStrmPush s c p h = none → ∃ u k, exec (.strmPush c p h) s = .next u ∧
      (u.stream (strmArg p)).chunks = x.chunks ++ [k] ∧ k.cmd = b.2 ∧ k.samples = u32 p 20 ∧ k.reset = strmFlag p ∧ k.outAddr = u64 p 32 ∧
      (∀ d, h = .data d → k.data = d) ∧ u = b.1.setStream (strmArg p) { x with chunks := x.chunks ++ [k] }) ∧
    (s.Starts c p 0x0322 → chkStrmSwapOut s c p = none → (x.resident = true ∨ x.inDue = true) →
      exec (.strmSwapOut c p) s = .next (b.1.setStream (strmArg p) { x with outDue := true, outCmds := x.outCmds ++ [b.2] })) ∧
    (s.Starts c p 0x0322 → chkStrmSwapOut s c p = none → x.resident = false → x.inDue = false →
      exec (.strmSwapOut c p) s = .next (b.1.complete b.2 stOk [])) ∧
    (x.chunks ≠ [] → strmFlag p = false → chkStrmSwapOut s c p = some stPinned) ∧
    (s.Starts c p 0x0322 → chkStrmSwapOut s c p = some stPinned → b.2.uid ∈ (b.1.ctx c).inflight →
      ∃ u : State, exec (.strmSwapOut c p) s = .next u ∧ u.strm = { s.strm with pinnedCnt := satInc s.strm.pinnedCnt } ∧
        u.cmd = (s.replied c p (strmClass s c p) stPinned []).cmd) ∧
    (s.Starts c p 0x0323 → chkStrmSwapIn s c p = none →
      ((x.resident = false ∨ x.outDue = true) →
        exec (.strmSwapIn c p) s = .next (b.1.setStream (strmArg p) { x with inDue := true, inCmds := x.inCmds ++ [b.2] })) ∧
      (x.resident = true → x.outDue = false → exec (.strmSwapIn c p) s = .next (b.1.complete b.2 stOk []))) ∧
    (s.Starts c p 0x0324 → chkStrmSwapOut s c p = none →
      exec (.strmClose c p) s = .next (b.1.setStream (strmArg p) { x with closing := true, closeCmd := x.closeCmd ++ [b.2] })) ∧
    (s.Starts c p 0x0325 → chkStrmNamed s c p = none →
      let y := tblGet {} s.strm.shown (strmArg p)
      (y.valid = false → exec (.strmQuery c p) s = .next (b.1.complete b.2 stOk [0, 0, 0, 0, 0])) ∧
      (∀ m, y.valid = true → s.strmModel y.model = some m → exec (.strmQuery c p) s = .next (b.1.complete b.2 stOk (y.words m.len)))) ∧
    (strmFlag p = true → x.chunks ≠ [] → chkStrmState s c p h = some stPinned) ∧
    (∀ m d, chkStrmNamed s c p = none → s.strmModel x.model = some m → strmFlag p = true → x.chunks = [] → h = .data d →
      (∃ e ∈ stateOf m d, f32Fin e.1 = false ∨ 2 ^ 14 < e.2.toInt.natAbs) → chkStrmState s c p h = some stDataError) ∧
    (s.Starts c p 0x0326 → chkStrmState s c p h = none → ∃ m, s.strmModel x.model = some m ∧
      (strmFlag p = false → exec (.strmState c p h) s =
        .next ((b.1.writeFunc (s.ctx c).func (u64 p 24) (stateBytes (s.shownState (strmArg p) x m))).complete b.2 stOk [])) ∧
      (strmFlag p = true → ∀ d, h = .data d → exec (.strmState c p h) s =
        .next (((b.1.putState x m (stateOf m d)).setStream (strmArg p) { x with faulted := false }).complete b.2 stOk [])))

/-- A stream's swap: out, its state goes to the home copy and its slot is free; in, its slot holds the home copy. A failed transfer, and
a swap-out from a poisoned slot, leave the stream where it was with ECC_UNCORRECTABLE; a swap-in from poisoned data sets FAULTED and ends
its chunks. -/
def Claims.StreamSwaps : Prop :=
  ∀ (s : State) (t i : Nat) (m : StrmModel), s.powered = true → (s.stream i).valid = true → s.strmModel (s.stream i).model = some m →
    let x := s.stream i
    (x.move = .out → s.slotPoisoned m x.slot = false →
      ∃ u : State, exec (.streamSwapComplete t i false) s = .next u ∧ (u.stream i).resident = false ∧ (u.stream i).move = .none ∧
        u.strm.swapCnt = satInc s.strm.swapCnt ∧ u.cmp.lp = ((s.advance t).writeHome x m (s.slotState m x.slot)).cmp.lp ∧
        u.cmp.sp = s.cmp.sp) ∧
    (∀ failed, x.move = .out → (failed = true ∨ s.slotPoisoned m x.slot = true) →
      ∃ u : State, exec (.streamSwapComplete t i failed) s = .next u ∧ (u.stream i).resident = x.resident ∧ (u.stream i).move = .none ∧
        (u.stream i).status = stEcc ∧ u.strm.swapCnt = s.strm.swapCnt ∧ u.cmp = s.cmp) ∧
    (∀ k, x.move = .into k → s.homePoisoned x m = false →
      (∀ e ∈ s.strm.ents, e.1 ≠ i → e.2.model = x.model → e.2.resident = true → e.2.slot ≠ k) →
      ∃ u : State, exec (.streamSwapComplete t i false) s = .next u ∧ (u.stream i).resident = true ∧ (u.stream i).slot = k ∧
        (u.stream i).move = .none ∧ u.strm.swapCnt = satInc s.strm.swapCnt ∧ u.cmp = ((s.advance t).writeSlot m k (s.homeState x m)).cmp) ∧
    (∀ k, x.move = .into k → s.homePoisoned x m = false →
      ∃ u : State, exec (.streamSwapComplete t i true) s = .next u ∧ (u.stream i).resident = x.resident ∧ (u.stream i).status = stEcc ∧
        (u.stream i).faulted = x.faulted ∧ u.strm.swapCnt = s.strm.swapCnt ∧ u.cmp = s.cmp) ∧
    (∀ k failed, x.move = .into k → s.homePoisoned x m = true →
      ∃ u : State, exec (.streamSwapComplete t i failed) s = .next u ∧ (u.stream i).faulted = true ∧ (u.stream i).chunks = [] ∧
        (u.stream i).resident = x.resident ∧ (u.stream i).status = stEcc ∧ u.cmp = s.cmp)

/-- A stream step runs only on the region of its pool, and closes what is to be closed; a reference that arrives whole and is new and finite
replaces the state of its stream, and any other is counted as missed; a chunk whose deadline has passed before its first sample ends
with TIMEOUT, and so does every later one of its stream. -/
def Claims.StreamEvents : Prop :=
  ∀ (s : State) (t i lreg model : Nat) (m : StrmModel) (poison : List Nat), s.powered = true →
    (s.strmModel model = some m → m.lreg = lreg → ∃ u : State, exec (.streamStepBoundary t lreg model poison) s = .next u ∧
      (∀ k, (s.stream k).valid = true → ((s.stream k).closing = true ∨ (s.stream k).dropped = true) → (s.stream k).model = model →
        (u.stream k).valid = false) ∧
      (m.cls = 1 → u = ((s.advance t).strmEvents m).showStreams model)) ∧
    (s.strmModel model = some m → m.lreg ≠ lreg → exec (.streamStepBoundary t lreg model poison) s = .next (s.advance t)) ∧
    (s.strmModel model = none → ∃ u : State, exec (.streamStepBoundary t lreg model poison) s = .next u ∧
      ∀ k, (s.stream k).valid = true → (s.stream k).dropped = true → (s.stream k).model = model → (u.stream k).valid = false) ∧
    (s.strmModel (s.stream i).model = some m → (s.stream i).valid = true → (s.stream i).resync = true → (s.stream i).left = 0 →
      (∀ k ∈ (s.stream i).chunks, (s.stream i).done < k.samples) →
      (∀ torn, (torn = true ∨ s.refPoisoned (s.stream i) m = true ∨ (s.refRecord (s.stream i) m).1 = (s.stream i).refSeq ∨
          (s.refRecord (s.stream i) m).2.all f32Fin = false) →
        ∃ u : State, exec (.streamResync t i torn) s = .next u ∧ u.strm.resyncMiss = satInc s.strm.resyncMiss ∧
          u.strm.resyncCnt = s.strm.resyncCnt ∧ (u.stream i).resync = false ∧ u.cmp = s.cmp) ∧
      (s.refPoisoned (s.stream i) m = false → (s.refRecord (s.stream i) m).1 ≠ (s.stream i).refSeq →
        (s.refRecord (s.stream i) m).2.all f32Fin = true →
        ∃ u : State, exec (.streamResync t i false) s = .next u ∧ u.strm.resyncCnt = satInc s.strm.resyncCnt ∧
          (u.stream i).refSeq = (s.refRecord (s.stream i) m).1 ∧ (u.stream i).resync = false ∧
          u.cmp = ((s.advance t).putState (s.stream i) m ((s.refRecord (s.stream i) m).2.map fun v => (v, 0))).cmp)) ∧
    (∀ k rest, (s.stream i).valid = true → (s.stream i).chunks = k :: rest → (s.stream i).done = 0 →
      (s.advance t).deadlinePassed k.cmd.deadline = true →
      exec (.streamChunkDeadline t i) s = .next ((s.advance t).finishFrom i 0 stTimeout (rest.length + 1))) ∧
    ((s.stream i).chunks = [] → exec (.streamChunkDeadline t i) s = .next (s.advance t))

/-- Stream swaps, stream steps and references. -/
def Obligations.StreamSteps : Prop :=
  Claims.StreamSwaps ∧ Claims.StreamEvents

/-- A run of a problem has started in the present cycle, and its vector program has not. -/
def Claims.StartsNow (s : State) (x : Prob) : Prop := ∃ r, x.run = some r ∧ r.startT = cycStart s.time.cnt ∧ r.vecT = none

/-- SLV_SOLVE puts its deadline's solve behind its slot and writes the measurements it brings to the back half of the buffer;
SLV_PARAM writes its values into the next parameter bank, the active one staying as it is until a start; SLV_QUERY gives the last
output record and RUNS; SLV_RESET waits for the next start. A bank and a reset that come in the cycle of a start act on that start. No
other slot changes. -/
def Claims.SolverCommands : Prop :=
  ∀ (s : State) (c : Nat) (p : Packet),
    let k := u8 p 16
    let x := s.prob k
    let b := s.begin_ c p (s.ctx c).cls
    (∀ d, s.Starts c p 0x0801 → chkSlvSolve s c p (.data d) = none → s.swapNow x = false → ∃ u : State, exec (.slvSolve c p (.data d)) s = .next u ∧
      (u.prob k).cmd = some (b.2, u64 p 32) ∧ (u.prob k).front = x.front ∧ (u.prob k).active = x.active ∧
      (u.prob k).back = (List.range x.desc.measLen).map (fun i => (leWords d (d.length / 4)).getD i (x.back.getD i 0)) ∧
      (∀ j, j ≠ k → u.prob j = s.prob j)) ∧
    (∀ d, s.Starts c p 0x0802 → chkSlvParam s c p (.data d) = none → ∃ (u : State) (bank : List DWord), exec (.slvParam c p (.data d)) s = .next u ∧
      bank.length = (x.next.getD x.active).length ∧
      (∀ j, j < bank.length → bank[j]? = if u32 p 20 ≤ j ∧ j < u32 p 20 + u32 p 24 then some (vget (hostF64 d (u32 p 24)) (j - u32 p 20))
        else (x.next.getD x.active)[j]?) ∧
      (¬Claims.StartsNow s x → (u.prob k).next = some bank ∧ (u.prob k).active = x.active ∧ (u.prob k).run = x.run) ∧
      (Claims.StartsNow s x → (u.prob k).next = none ∧ (u.prob k).active = bank ∧ (u.prob k).runs = x.runs) ∧
      (∀ j, j ≠ k → u.prob j = s.prob j)) ∧
    (s.Starts c p 0x0803 → chkProb s c p = none →
      exec (.slvQuery c p) s = .next (b.1.complete b.2 stOk (leWords x.record 2 ++ [x.runs]))) ∧
    (s.Starts c p 0x0804 → chkProb s c p = none →
      (¬Claims.StartsNow s x → exec (.slvReset c p) s = .next ((b.1.setProb k { x with resetDue := true }).complete b.2 stOk [])) ∧
      (Claims.StartsNow s x → ∃ u : State, exec (.slvReset c p) s = .next u ∧ (u.prob k).age = 0 ∧ (u.prob k).kept = none ∧
        (u.prob k).resetDue = false ∧ (u.prob k).store = (u.prob k).initStore ∧ ∀ j, j ≠ k → u.prob j = s.prob j))

/-- A run starts in the hub cycle of its tick: a parameter bank that waits becomes active, a reset that waits takes the store back to
X_INIT and ends the kept factor, and RUNS counts it. A SOLVE entry starts its class 1 problem with the deadline DL_OFFSET after the
phase of its domain; a pending SLV_SOLVE starts in its problem's compiled window within an open slice of its partition, once no other
problem runs on its lanes. -/
def Claims.SolverStarts : Prop :=
  ∀ (s : State) (t : Nat),
    (∀ k r a, s.powered = true → (s.prob k).cmd = some (r, a) → (s.prob k).run = none →
      s.lanesIdle k = true → (s.advance t).inLaneWin k = true → (s.advance t).sliceOpen (s.prob k).desc.part = true →
      ∃ (u : State) (ρ : SlvRun), exec (.solverRunStart t k) s = .next u ∧
        (u.prob k).run = some ρ ∧ ρ.cmd = some r ∧ ρ.dl = r.deadline ∧ ρ.startT = cycStart (max s.time.cnt t) ∧
        (ρ.keep = false → ρ.matEnd = ρ.startT + 2 * asmCycles (s.prob k).desc.matProg) ∧ (ρ.keep = true → ρ.matEnd = ρ.startT) ∧
        (u.prob k).runs = (s.prob k).runs + 1 ∧ (u.prob k).active = (s.prob k).next.getD (s.prob k).active ∧ (u.prob k).next = none ∧
        ((s.prob k).resetDue = true → (u.prob k).age = 0 ∧ (u.prob k).kept = none ∧ (u.prob k).resetDue = false ∧
          (u.prob k).store = (u.prob k).initStore) ∧
        ((s.prob k).resetDue = false → (u.prob k).store = (s.prob k).store ∧ (u.prob k).age = (s.prob k).age) ∧
        (∀ j, j ≠ k → u.prob j = s.prob j) ∧ u = { s.advance t with slv := u.slv }) ∧
    (∀ k, (s.lanesIdle k = false ∨ (s.advance t).inLaneWin k = false ∨ (s.advance t).sliceOpen (s.prob k).desc.part = false) →
      exec (.solverRunStart t k) s = .next (s.advance t)) ∧
    (∀ d e en, (s.advance t).fires d e 2 = some en → (s.advance t).entryDrained d en = false → (s.advance t).startedOf d e = none →
      (s.prob en.target).valid = true → (s.prob en.target).desc.cls = 1 → (s.prob en.target).run = none → s.lanesIdle en.target = true →
      ∃ (u : State) (ρ : SlvRun), exec (.solve t d e) s = .next u ∧ (u.prob en.target).run = some ρ ∧ ρ.entry = some (d, (s.dom d).active.base + e) ∧
        stampPhase ρ.dl = ((s.dom (s.prob en.target).desc.domain).phase (max s.time.cnt t)) + w32 (s.prob en.target).desc.dlOffset ∧
        (u.prob en.target).runs = (s.prob en.target).runs + 1 ∧ e ∈ (u.dom d).fired ∧
        u.sched = (((s.advance t).markFired d e).startEntry d e en).sched)

/-- Solver commands and the start of a run. -/
def Obligations.SolverRuns : Prop :=
  Claims.SolverCommands ∧ Claims.SolverStarts

/-- The vector program starts once the matrix program has ended and its measurement signal is there: it takes one from the counter,
or uses the grant that waited for it, and swaps the measurement halves. Where the counter cannot pay it waits in the counter's queue,
and a run whose signal has not come MEAS_WAIT cycles after the matrix program ends with a stale result, which counts as late unless the
matrix program had met a NaN or an infinity. -/
def Claims.SolverVectors : Prop :=
  ∀ (s : State) (t k : Nat) (r : SlvRun), s.powered = true → (s.prob k).run = some r → r.vecT = none →
    let x := s.prob k
    (r.matEnd ≤ max s.time.cnt t → x.matBad r = none →
      (∀ v, s.imageVid x.desc.part x.desc.measSync = some v → k ∉ s.sync.granted → 1 ≤ (s.counter v.counter).value →
        (∀ w ∈ s.sync.waits, w.counter ≠ v.counter) → ∃ (u : State) (ρ : SlvRun), exec (.vectorProgramStart t k) s = .next u ∧
          (u.prob k).run = some ρ ∧ ρ.vecT = some (max s.time.cnt t) ∧ (u.prob k).front = x.back ∧ (u.prob k).back = x.front ∧
          (u.counter v.counter).value = (s.counter v.counter).value - 1 ∧ u = { s.advance t with slv := u.slv, sync := u.sync }) ∧
      (∀ v, s.imageVid x.desc.part x.desc.measSync = some v → k ∈ s.sync.granted → ∃ (u : State) (ρ : SlvRun),
        exec (.vectorProgramStart t k) s = .next u ∧ (u.prob k).run = some ρ ∧ ρ.vecT = some (max s.time.cnt t) ∧
        u.sync = { s.sync with granted := s.sync.granted.erase k }) ∧
      (∀ v, s.imageVid x.desc.part x.desc.measSync = some v → k ∉ s.sync.granted → (s.counter v.counter).value < 1 → r.waiting = false →
        ∃ u : State, exec (.vectorProgramStart t k) s = .next u ∧
          u.sync = { s.sync with waits := insertWait ⟨v.counter, 1, .solver k, max s.time.cnt t / 2, r.waitRank k⟩ s.sync.waits } ∧
          (u.prob k).run = some { r with waiting := true } ∧ (u.prob k).front = x.front)) ∧
    ((max s.time.cnt t < r.matEnd ∨ x.matBad r ≠ none) → exec (.vectorProgramStart t k) s = .next (s.advance t)) ∧
    (r.matEnd + 2 * x.desc.measWait ≤ max s.time.cnt t → s.measReady k = false → ∃ u : State, exec (.measWaitExpire t k) s = .next u ∧
      (u.prob k).run = none ∧ (u.prob k).age = min (x.age + 1) 255 ∧ (u.prob k).store = shiftStore x.desc x.store ∧
      u.slv.staleCnt = satInc s.slv.staleCnt ∧
      ((s.advance t).matLost x r = false → u.slv.measLate = satInc s.slv.measLate ∧ u.slv.nonfinite = s.slv.nonfinite) ∧
      ((s.advance t).matLost x r = true → u.slv.measLate = s.slv.measLate ∧ u.slv.nonfinite = satInc s.slv.nonfinite)) ∧
    (max s.time.cnt t < r.matEnd + 2 * x.desc.measWait → exec (.measWaitExpire t k) s = .next (s.advance t))

/-- How a run ends. One whose work is done with an acceptable last iterate gives a fresh result: the store takes it and AGE is 0.
One that its deadline finds before its vector program has started gives a stale result: the store is shifted, AGE rises, and it is
counted. A NaN, an infinity or a D_REF of 0 of the
matrix program ends the run as stale. An uncorrectable lane error marks its lane and ends the kept factor. Either way the run is over and its record is on its
way. -/
def Claims.SolverEnds : Prop :=
  ∀ (s : State) (t k v : Nat) (r : SlvRun), s.powered = true → (s.prob k).run = some r →
    let x := s.prob k
    (∀ tk i, r.vecT = some v → (x.plan r v).bad = none → (x.plan r v).its.getLast? = some (tk, i) → i.ok = true →
      (x.plan r v).finish ≤ max s.time.cnt t / 2 * 2 + 1 → ∃ u : State, exec (.solverRunComplete t k .none) s = .next u ∧
        (u.prob k).run = none ∧ (u.prob k).store = i.x ∧ (u.prob k).age = 0 ∧
        (∃ o reg, (u.prob k).outs = x.outs ++ [o] ∧ o.outT = cycStart (max s.time.cnt t) + 2 * tOut x.desc.n ∧ o.vals = i.x.map f64ToF32 ∧
          o.record = slvRecord (if 0 < reg then stRegularised else stOk) 0 (if i.capped then 6 else 0) reg i.steps x.runs (f64ToF32 i.resid)) ∧
        u.slv.staleCnt = s.slv.staleCnt ∧ u.slv.missCnt = s.slv.missCnt ∧ u.safe = s.safe) ∧
    (r.vecT = some v → max s.time.cnt t / 2 * 2 + 1 < (x.plan r v).finish →
      exec (.solverRunComplete t k .none) s = .next (s.advance t)) ∧
    (∀ second, x.desc.lane < 31 → ∃ u : State, exec (.solverRunComplete t k (.laneUncorrectable second)) s = .next u ∧ (u.prob k).run = none ∧
      (u.prob k).kept = none ∧ u.slv.laneFault = s.slv.laneFault ||| w32 (2 ^ (x.desc.lane + (if second = true ∧ x.desc.pair = true then 1 else 0))) ∧
      u.slv.staleCnt = satInc s.slv.staleCnt) ∧
    (r.vecT = none → (s.advance t).matLost x r = true → ∃ u : State, exec (.solverRunComplete t k .none) s = .next u ∧ (u.prob k).run = none ∧
      (u.prob k).store = shiftStore x.desc x.store ∧ u.slv.nonfinite = satInc s.slv.nonfinite ∧ u.slv.staleCnt = satInc s.slv.staleCnt) ∧
    (∃ u : State, exec (.solverRunComplete t k .storeUncorrectable) s = .next u ∧ (u.prob k).run = none ∧ (u.prob k).store = x.initStore ∧
      u.slv.staleCnt = s.slv.staleCnt) ∧
    ((s.advance t).deadlineDue r.dl = true → r.vecT = none → ∃ u : State, exec (.solverDeadline t k) s = .next u ∧ (u.prob k).run = none ∧
      (u.prob k).store = shiftStore x.desc x.store ∧ (u.prob k).age = min (x.age + 1) 255 ∧ u.slv.staleCnt = satInc s.slv.staleCnt ∧
      (x.age + 1 < x.desc.staleLimit → x.age < 255 → u.slv.missCnt = s.slv.missCnt) ∧
      (x.age < x.desc.staleLimit → x.desc.staleLimit ≤ min (x.age + 1) 255 → u.slv.missCnt = satInc s.slv.missCnt)) ∧
    ((s.advance t).deadlineDue r.dl = false → exec (.solverDeadline t k) s = .next (s.advance t))

/-- The oldest output record on its way becomes the slot's record once it is complete, and lands where OUT_DEST puts it: in a
feed-forward buffer, in the scratchpad, or in host memory; a run that a SLV_SOLVE asked for is also written to its OUT_ADDR, with the
reply, which is ECC_UNCORRECTABLE while no request reaches host memory. -/
def Claims.SolverOutputs : Prop :=
  ∀ (s : State) (t k : Nat) (o : SlvOut) (rest : List SlvOut), s.powered = true → (s.prob k).outs = o :: rest →
    let x := s.prob k
    (max s.time.cnt t < o.outT → exec (.solverOutputWritten t k) s = .next (s.advance t)) ∧
    (o.outT ≤ max s.time.cnt t → x.desc.outSignal = false → o.entry = none →
      (x.desc.outKind = 1 → o.cmd = none → ∃ u : State, exec (.solverOutputWritten t k) s = .next u ∧ (u.prob k).outs = rest ∧
        (u.prob k).record = o.record ∧ u.cmp = ((s.advance t).spWrite x.desc.outAddr (o.record ++ wordBytes o.vals)).cmp) ∧
      (x.desc.outKind = 0 → o.cmd = none → ∃ u : State, exec (.solverOutputWritten t k) s = .next u ∧ (u.prob k).outs = rest ∧
        (u.prob k).record = o.record ∧ u = ((s.advance t).setProb k (u.prob k)).ffWrite (x.desc.outAddr / 256 % 16) (x.desc.outAddr % 256) o.vals
          (BitVec.ofNat 16 (leField o.record 0 2))) ∧
      (∀ r a, x.desc.outKind = 1 ∨ x.desc.outKind = 2 → o.cmd = some (r, a) → s.ctxDead r.ctx = true → ∃ u : State,
        exec (.solverOutputWritten t k) s = .next (u.complete r stEcc (leWords o.record 2)) ∧ u.hostMem = s.hostMem ∧
        (u.prob k).outs = rest ∧ (u.prob k).cmd = none) ∧
      (∀ r a, x.desc.outKind = 1 → o.cmd = some (r, a) → s.ctxDead r.ctx = false → ∃ u : State, exec (.solverOutputWritten t k) s =
          .next (u.complete r (BitVec.ofNat 16 (leField o.record 0 2)) (leWords o.record 2)) ∧
        (u.prob k).outs = rest ∧ (u.prob k).cmd = none ∧ u = (((s.advance t).setProb k (u.prob k)).spWrite x.desc.outAddr
          (o.record ++ wordBytes o.vals)).writeFunc (s.ctx r.ctx).func a (o.record ++ wordBytes o.vals)) ∧
      (∀ r a, x.desc.outKind = 2 → o.cmd = some (r, a) → s.ctxDead r.ctx = false → ∃ u : State, exec (.solverOutputWritten t k) s =
          .next (u.complete r (BitVec.ofNat 16 (leField o.record 0 2)) (leWords o.record 2)) ∧
        (u.prob k).outs = rest ∧ (u.prob k).record = o.record ∧ (u.prob k).cmd = none ∧
        u = ((s.advance t).setProb k (u.prob k)).writeFunc (s.ctx r.ctx).func a (o.record ++ wordBytes o.vals)))

/-- The vector program, the end of a run and its outputs. -/
def Obligations.SolverResults : Prop :=
  Claims.SolverVectors ∧ Claims.SolverEnds ∧ Claims.SolverOutputs

/-- A boundary is taken once every due entry of the ending period has fired: Φ moves on by one period, PCOUNT counts it, and every
entry may fire again; a swap that waits for the boundary takes effect there, unless it was asked for in this cycle. Before that, and while the boundary is not due, nothing happens. No other domain changes. -/
def Claims.PeriodBoundaries : Prop :=
  ∀ (s : State) (t d : Nat), s.powered = true →
    let x := s.dom d
    (x.boundaryDue (max s.time.cnt t) = true → x.allFired (max s.time.cnt t) = true → x.stepPhi = none →
      (∀ w ∈ s.sched.swaps, d ∉ w.todo) →
      exec (.periodBoundary t d) s = .next ((s.advance t).setDom d
        { x with phiK := x.phiK + w32 x.active.period, pcount := x.pcount + 1, fired := [] })) ∧
    (x.boundaryDue (max s.time.cnt t) = false ∨ x.allFired (max s.time.cnt t) = false →
      exec (.periodBoundary t d) s = .next (s.advance t)) ∧
    (∀ w tb, x.boundaryDue (max s.time.cnt t) = true → x.allFired (max s.time.cnt t) = true → x.stepPhi = none →
      s.sched.swaps = [w] → w.lead = d → w.todo = [d] → w.cyc ≠ some (max s.time.cnt t / 2) → x.staged = some tb → ∃ u : State, exec (.periodBoundary t d) s = .next u ∧
        (u.dom d).active = tb ∧ (u.dom d).staged = none ∧ (u.dom d).pcount = x.pcount + 1 ∧ u.sched.swaps = [] ∧
        u.sched.bank = s.sched.bank ^^^ BitVec.ofNat 8 (2 ^ d))

/-- An edge on SYNC_INn starts the EXTSYNC domains in ACQUIRE that take it, at phase 0, and carries those in RUN to the next multiple
of 65,536; a domain in HOLDOVER returns to RUN at a multiple of 65,536 that is not behind it, unless it was lost in this very cycle: then the
event counts and the loss stands. No other domain changes. -/
def Claims.SourceEvents : Prop :=
  ∀ (s : State) (t n d : Nat), s.powered = true → n < 4 → d < 8 →
    ∃ u : State, exec (.syncInEdge t n) s = .next u ∧ u.cmd = s.cmd ∧ u.sched = s.sched ∧
      (d ∉ s.domsOf 4 n → u.dom d = s.dom d) ∧
      (d ∈ s.domsOf 4 n → (u.dom d).state = (if (s.advance t).lostNow d then .holdover else .run) ∧ (u.dom d).eventTick = t ∧
        ((s.dom d).state = .acquire → (u.dom d).phi = 0 ∧ (u.dom d).phiK = 0 ∧ (u.dom d).pcount = 0) ∧
        ((s.dom d).state = .run → (u.dom d).phi = w32 (65536 * ((s.dom d).events + 1))) ∧
        ((s.dom d).state = .holdover → (u.dom d).phi.toNat % 65536 = 0))

/-- A domain that runs and whose source is lost enters HOLDOVER: it is counted, TIME_EVENT.LOST is set, and one information event goes
to the supervisor against its owner; a domain whose source is not lost stays as it is. A PTP instance that times out does so for every
domain that follows it. -/
def Claims.SourceLosses : Prop :=
  ∀ (s : State) (t d : Nat), s.powered = true → d < 8 →
    ((s.advance t).sourceIsLost d = true → (s.dom d).source ≠ 0 → (s.dom d).state = .run → ∃ u : State, exec (.sourceLost t d) s = .next u ∧
      (u.dom d).state = .holdover ∧ (u.dom d).holdCnt = satInc (s.dom d).holdCnt ∧ (u.dom d).phi = (s.dom d).phase (max s.time.cnt t) ∧
      u.time.event = s.time.event ||| w32 (2 ^ d) ∧ (∀ q, q ≠ d → u.dom q = s.dom q) ∧ u.safe.logCount = s.safe.logCount + 1 ∧
      (s.safe.log.length < 256 → ∃ e, e ∈ u.safe.log ∧ e.code = 0x06 ∧ e.detail = d ∧ e.time = max s.time.cnt t)) ∧
    ((s.advance t).sourceIsLost d = false → exec (.sourceLost t d) s = .next (s.advance t)) ∧
    (∀ inst, ∃ u : State, exec (.ptpTimeout t inst) s = .next u ∧
      ((s.dom d).state = .run → (s.dom d).source = 0 → (s.dom d).disc = 3 → (s.dom d).discSel = inst → (u.dom d).state = .holdover) ∧
      ((s.dom d).source ≠ 0 → u.dom d = s.dom d))

/-- RATE_WINDOW, in every state and for every domain: once 2^20 ticks have passed since its window began, an ANGLE domain that runs or
waits for its origin takes the phase it has moved by as an observation of its rate, and its next window begins; in any other case, and
for any other domain, nothing happens. -/
def Claims.RateWindows : Prop :=
  ∀ (s : State) (t d : Nat),
    (s.powered = true → (s.dom d).source = 1 → ((s.dom d).state = .run ∨ (s.dom d).state = .acquire) →
      (s.dom d).winTick + 2 ^ 20 ≤ max s.time.cnt t → ∃ u : State, exec (.rateWindow t d) s = .next u ∧
        (u.dom d).winTick = max s.time.cnt t ∧ (u.dom d).winPhi = (s.dom d).phase (max s.time.cnt t) ∧
        (u.dom d).rate = estimate (s.dom d).rate ((s.dom d).phase (max s.time.cnt t) - (s.dom d).winPhi).toInt (2 ^ 20) ∧
        (u.dom d).state = (s.dom d).state ∧ ∀ q, q ≠ d → u.dom q = s.dom q) ∧
    ((s.powered = false ∨ (s.dom d).source ≠ 1 ∨ ((s.dom d).state ≠ .run ∧ (s.dom d).state ≠ .acquire) ∨
        max s.time.cnt t < (s.dom d).winTick + 2 ^ 20) →
      exec (.rateWindow t d) s = .next (s.advance t))

/-- An exchange of a ROLINK domain: a missed one is counted, and the third in a row loses the master; a measured error ends the
misses, counts as good up to 8 ns, and LOCKED is set by the sixteenth good one. An error above 1 µs is stepped out where the domain
holds no SERVO entry; any other is slewed at a rate within ±500 ppm of 2, the rate being free (log entry 12). -/
def Claims.TimeExchanges : Prop :=
  ∀ (s : State) (t d : Nat), s.powered = true → d < 8 → (s.dom d).source = 0 → (s.dom d).disc = 2 → (s.dom d).state = .run →
    ((s.dom d).missedEx < 2 → ∃ u : State, exec (.timeExchange t d .missed) s = .next u ∧ (u.dom d).missedEx = (s.dom d).missedEx + 1 ∧
      (u.dom d).goodEx = 0 ∧ (u.dom d).state = .run) ∧
    (2 ≤ (s.dom d).missedEx → ∃ u : State, exec (.timeExchange t d .missed) s = .next u ∧ (u.dom d).state = .holdover ∧
      (u.dom d).locked = false) ∧
    (∃ u : State, exec (.timeExchange t d .masterHoldover) s = .next u ∧ (u.dom d).state = .holdover) ∧
    (∀ e : Int, 65536000 < e.natAbs → (s.dom d).servo = false → ∃ u : State, exec (.timeExchange t d (.error e)) s = .next u ∧
      (u.dom d).offset = (s.dom d).offset - e ∧ (u.dom d).rate = (s.dom d).rate ∧ (u.dom d).goodEx = 0 ∧ (u.dom d).missedEx = 0 ∧
      u.time.event = s.time.event ||| w32 (2 ^ (16 + d))) ∧
    (∀ e : Int, e.natAbs ≤ 65536000 → ∃ u : State, exec (.timeExchange t d (.error e)) s = .next u ∧ (u.dom d).missedEx = 0 ∧
      (e.natAbs ≤ 524288 → (u.dom d).goodEx = (s.dom d).goodEx + 1 ∧ (15 ≤ (s.dom d).goodEx → (u.dom d).locked = true)) ∧
      (524288 < e.natAbs → (u.dom d).goodEx = 0) ∧
      ((u.dom d).rate = (s.dom d).rate ∨ ((u.dom d).rate - 2 ^ 49).natAbs ≤ 2 ^ 49 / 2000) ∧ u.time.event = s.time.event)

/-- Phase domains: boundaries, sources, losses, rate windows and time exchanges. -/
def Obligations.DomainSources : Prop :=
  Claims.PeriodBoundaries ∧ Claims.SourceEvents ∧ Claims.SourceLosses ∧ Claims.RateWindows ∧ Claims.TimeExchanges

/-- The rate of an ANGLE domain is estimated over windows of 2^20 ticks (RATE_WINDOW), each observation moving the estimate a quarter of
the way; the estimate of R258 lies between the old one and the observation, and is exact where they agree. -/
def Obligations.RateEstimates : Prop :=
  (∀ (s : State) (t d : Nat), s.powered = true → (s.dom d).source = 1 → (s.dom d).state = .run →
    (s.dom d).winTick + 2 ^ 20 ≤ max s.time.cnt t → ∃ u : State, exec (.rateWindow t d) s = .next u ∧
      (u.dom d).winTick = max s.time.cnt t ∧ (u.dom d).winPhi = (s.dom d).phase (max s.time.cnt t) ∧
      (u.dom d).rate = estimate (s.dom d).rate ((s.dom d).phase (max s.time.cnt t) - (s.dom d).winPhi).toInt (2 ^ 20) ∧
      ∀ q, q ≠ d → u.dom q = s.dom q) ∧
  (∀ (est obs : Int) (den : Nat), 0 < den →
    estimate est (obs * den) den = (let a := 3 * est + obs * 2 ^ 48
      if 2 * (a % 4) > 4 ∨ (2 * (a % 4) = 4 ∧ a / 4 % 2 = 1) then a / 4 + 1 else a / 4) ∧
    (est = obs * 2 ^ 48 → estimate est (obs * den) den = est))

/-- A slew changes a domain's rate and leaves its time value where it was, to one unit of 2^-16 ns and never ahead of it; TIME domains
that hold SERVO entries are slewed together. -/
def Claims.SlewContinuity : Prop :=
  (∀ (x : Domain) (rate : Int) (n : Nat), (x.slew rate n).rate = rate ∧ x.timeVal n - 1 ≤ (x.slew rate n).timeVal n ∧
    (x.slew rate n).timeVal n ≤ x.timeVal n) ∧
  (∀ (s : State) (d : Nat) (rate : Int), ∀ q, (q ∈ s.together d → ((s.slew d rate).dom q).rate = rate) ∧
    (q ∉ s.together d → (s.slew d rate).dom q = s.dom q))

/-- The phase of a TIME domain is ⌊(SEC × 10^9 + NS) / 2^PS⌋ mod 2^32 of its time value; with PS = 0 one phase unit is 1 ns. -/
def Claims.TimePhase : Prop :=
  ∀ (x : Domain) (n : Nat), x.source = 0 → 0 ≤ x.timeVal n →
    let sec := (x.ns n).toNat / 10 ^ 9
    let ns := (x.ns n).toNat % 10 ^ 9
    x.phase n = BitVec.ofNat 32 ((sec * 10 ^ 9 + ns) / 2 ^ x.ps) ∧
    (∀ (m d : Nat), x.ps = 0 → x.ns m = x.ns n + d → x.phase m = x.phase n + BitVec.ofNat 32 d)

/-- The phase of a TIME domain, and a slew that neither steps it nor runs it back. -/
def Obligations.TimeValues : Prop :=
  Claims.SlewContinuity ∧ Claims.TimePhase

/-- PHASE_READ gives the phase, PCOUNT and the time of a domain; TBL_STAGE stages a table of the image and gives the pool entries in
use; TBL_SWAP waits for the boundaries of its domains; DOM_ADJ slews a domain, or steps its offset and marks TIME_EVENT.STEP. -/
def Claims.TimeCommands : Prop :=
  ∀ (s : State) (c : Nat) (p : Packet),
    let d := u8 p 16
    let b := s.begin_ c p (s.ctx c).cls
    (s.Starts c p 0x0601 → chkPhaseRead s p = none → ∃ lo hi, exec (.phaseRead c p) s =
      .next (b.1.complete b.2 stOk [(s.dom d).phase s.time.cnt, w32 (s.dom d).pcount.toNat, lo, hi]) ∧
      ((s.dom d).source = 0 → 0 ≤ (s.dom d).ns s.time.cnt → lo.toNat = ((s.dom d).ns s.time.cnt).toNat % 10 ^ 9) ∧
      ((s.dom d).source ≠ 0 → lo = 0 ∧ hi = 0)) ∧
    (s.Starts c p 0x0602 → chkTblStage s c p = none → ∃ (u : State) (tb : TableCfg) (pt : PoolTable), exec (.tblStage c p) s = .next (u.complete b.2 stOk [w32 u.poolUsed]) ∧
      s.stageTable p = some tb ∧ u = b.1.setDom d { s.dom d with staged := some pt } ∧ pt.entries = tb.entries ∧ pt.period = tb.period ∧
      pt.index = some (u16 p 18) ∧ s.poolFit tb.entries.length = some pt.base) ∧
    (s.Starts c p 0x0603 → chkTblSwap s c p = none → exec (.tblSwap c p) s = .next { b.1 with sched := { s.sched with
      swaps := s.sched.swaps ++ [{ todo := swapDoms p, lead := u8 p 17, cmd := some b.2, cyc := some (s.time.cnt / 2) }] } }) ∧
    (s.Starts c p 0x0604 → chkDomAdj s c p = none →
      (u8 p 17 = 0 → exec (.domAdj c p) s = .next ((b.1.slew d (adjRate (sfield p 20 4))).complete b.2 stOk [])) ∧
      (u8 p 17 = 1 → ∃ u : State, exec (.domAdj c p) s = .next (u.complete b.2 stOk []) ∧
        (u.dom d).offset = (s.dom d).offset + sfield p 24 8 * 2 ^ 16 + (u16 p 32 : Nat) ∧ (u.dom d).rate = (s.dom d).rate ∧
        u.time.event = s.time.event ||| w32 (2 ^ (16 + d)) ∧ ∀ q, q ≠ d → u.dom q = s.dom q))

/-- What every entry that starts something does when it fires: it is marked as fired; one of a drained partition starts nothing; one
whose previous start has not completed is an overrun, counted, recorded and reported, and starts nothing; any other starts and is
watched from now on. An entry that is not due does nothing. -/
def Claims.EntryFiring : Prop :=
  ∀ (s : State) (d i a : Nat) (start : State → Entry → State),
    (s.fires d i a = none → s.fireStart d i a start = s) ∧
    (∀ e, s.fires d i a = some e →
      (s.entryDrained d e = false → s.startedOf d i = none →
        s.fireStart d i a start = start ((s.markFired d i).startEntry d i e) e ∧
        ∃ w, ((s.markFired d i).startEntry d i e).startedOf d i = some w ∧ w.entry = e ∧ w.firedT = s.time.cnt ∧ w.armed = true) ∧
      (s.entryDrained d e = false → s.startedOf d i ≠ none →
        (s.fireStart d i a start).sched.overrunCnt = satInc s.sched.overrunCnt ∧
        (s.fireStart d i a start).sched.started = s.sched.started ∧ (s.fireStart d i a start).safe.logCount = s.safe.logCount + 1 ∧
        i ∈ ((s.fireStart d i a start).dom d).fired) ∧
      (s.entryDrained d e = true → (s.fireStart d i a start).sched.started = s.sched.started ∧
        (s.fireStart d i a start).sched.overrunCnt = s.sched.overrunCnt ∧ i ∈ ((s.fireStart d i a start).dom d).fired ∧
        (e.cls = 1 → tblGet (0, 0) (s.fireStart d i a start).sched.records ((s.dom d).active.base + i) =
          (stSafe, BitVec.ofNat 64 s.time.cnt))))

/-- A TASK entry starts the task it names, and one that names none completes with BAD_PARAM. A SLICE entry opens a slice of its
partition that lasts (16 - T)/16 of WD_MAX units, and none for a drained partition. -/
def Claims.TaskEntries : Prop :=
  ∀ (s : State) (t d e : Nat) (en : Entry),
    ((s.advance t).fires d e 1 = some en → (s.advance t).entryDrained d en = false → (s.advance t).startedOf d e = none →
      let m := ((s.advance t).markFired d e).startEntry d e en
      (∀ k, s.taskCfg en.target = some k → exec (.task t d e) s = .next (m.startTask (.entry d e) k en.cls 0)) ∧
      (s.taskCfg en.target = none → exec (.task t d e) s = .next (m.finishNow d e stBadParam))) ∧
    ((s.advance t).fires d e 6 = some en → ∃ u : State, exec (.slice t d e) s = .next u ∧ e ∈ (u.dom d).fired ∧
      ((s.advance t).entryDrained d en = false → ∃ x, u.sched.slices.getLast? = some x ∧ x.part = en.part ∧
        x.endT = max s.time.cnt t + wdTicks en en.wdMax * (16 - s.pwr.throttle) / 16) ∧
      (∀ x ∈ u.sched.slices, x ∈ s.sched.slices ∨ (x.part = en.part ∧ (s.advance t).entryDrained d en = false)) ∧
      u.sched.started = s.sched.started)

/-- The watchdog: a start whose work has not completed WD_MAX units after it is late once: it is marked, counted, and reported where
its class is 0 or 1, and its work goes on. -/
def Claims.LateEntries : Prop :=
  ∀ (s : State) (t d e : Nat) (w : Started), s.powered = true → s.startedOf d e = some w → w.armed = true → w.entry.action ≠ 8 →
    (w.late = false → w.entry.wdMax ≠ 0 → w.firedT / 2 * 2 + wdTicks w.entry w.entry.wdMax ≤ max s.time.cnt t →
      ∃ u : State, exec (.watchdogLate t d e) s = .next u ∧ u.sched.lateCnt = satInc s.sched.lateCnt ∧ u.sched.wdErr.getLsbD 31 = true ∧
        { w with late := true } ∈ u.sched.started ∧ u.sched.started.length = s.sched.started.length ∧
        (w.entry.cls ≤ 1 → u.safe.logCount = s.safe.logCount + 1) ∧ (1 < w.entry.cls → u.safe = s.safe)) ∧
    (w.late = true ∨ w.entry.wdMax = 0 ∨ max s.time.cnt t < w.firedT / 2 * 2 + wdTicks w.entry w.entry.wdMax →
      exec (.watchdogLate t d e) s = .next (s.advance t))

/-- Time commands, and entries that fire, start, overrun or are late. -/
def Obligations.EntriesFire : Prop :=
  Claims.TimeCommands ∧ Claims.EntryFiring ∧ Claims.TaskEntries ∧ Claims.LateEntries

/-- EXEC_TASK starts its task and is replied to when the task completes, with the status that its work has gathered and the one it
ends with, and its words; the work, its window slots and its place among the running commands are then gone. A task of a TASK entry
writes the entry's record. While a pass or a transfer of the work goes on, and with a status that is none of the table's, nothing
happens. -/
def Claims.Tasks : Prop :=
  ∀ (s : State) (t c : Nat) (p : Packet),
    (s.Starts c p 0x0301 → chkExecTask s c p = none → ∃ k,
      let b := s.begin_ c p (s.ctx c).cls
      s.taskCfg (u16 p 16) = some k ∧ exec (.execTask c p) s =
        .next (State.startTask { b.1 with cmd := { b.1.cmd with running := b.1.cmd.running ++ [{ cmd := b.2, packet := p, part := k.part }] } }
          (.cmd c b.2.tag) k k.cls (u64 p 32))) ∧
    (∀ tag st words w r, s.powered = true → Status.known st = true → s.workQuiet (.cmd c tag) = true → s.work (.cmd c tag) = some w →
      w.task ≠ none →
      let f := (s.advance t).finishTask w (mergeStatus w.status st) words
      let v := f.1.dropWork (.cmd c tag)
      v.cmd.running.find? (fun r => r.cmd.ctx == c && r.cmd.tag == tag) = some r →
      exec (.taskComplete t (.cmd c tag) st words) s =
        .next (State.complete { v with cmd := { v.cmd with running := v.cmd.running.erase r } } r.cmd f.2 (words.take 5))) ∧
    (∀ tag st words w r k, s.powered = true → Status.known st = true → s.workQuiet (.cmd c tag) = true → s.work (.cmd c tag) = some w →
      w.task = some k → k.signals = [] → (∀ slot, k.kind ≠ .meas slot) →
      s.cmd.running.find? (fun r => r.cmd.ctx == c && r.cmd.tag == tag) = some r →
      ∃ u : State, exec (.taskComplete t (.cmd c tag) st words) s = .next (u.complete r.cmd (mergeStatus w.status st) (words.take 5)) ∧
        u.work (.cmd c tag) = none ∧ u.cmd.running = s.cmd.running.erase r ∧ u.sync = s.sync) ∧
    (∀ d e st words w x k, s.powered = true → Status.known st = true → s.workQuiet (.entry d e) = true → s.work (.entry d e) = some w →
      w.task = some k → k.signals = [] → (∀ slot, k.kind ≠ .meas slot) →
      s.sched.started.find? (fun x => x.d == d && x.index == e) = some x → x.armed = false →
      ∃ u : State, exec (.taskComplete t (.entry d e) st words) s = .next u ∧ u.work (.entry d e) = none ∧
        u.sched.started = s.sched.started.erase x ∧
        tblGet (0, 0) u.sched.records x.pool = (s.recordStatus x.entry.part x.entry.cls (mergeStatus w.status st),
          BitVec.ofNat 64 (max s.time.cnt t))) ∧
    (∀ work st words, (Status.known st = false ∨ s.workQuiet work = false) →
      exec (.taskComplete t work st words) s = .next (s.advance t)) ∧
    (∀ d e st words x, s.powered = true → Status.known st = true → s.workQuiet (.entry d e) = true → s.work (.entry d e) = none →
      s.startedOf d e = some x → x.entry.action = 5 →
      exec (.taskComplete t (.entry d e) st words) s = .next ((s.advance t).completeEntry x stOk))

/-- MEM_WRITE writes its bytes and MEM_FILL zeros to the range that it names and to nothing else, MEM_READ writes the range to host
memory and changes neither memory of the part; each is answered with OK. A MEM_WRITE that would leave a codebook or scales as the loader
refuses them is refused and writes nothing; a MEM_READ gives what comes before poisoned data, which is reported. -/
def Claims.MemoryCommands : Prop :=
  ∀ (s : State) (c : Nat) (p : Packet),
    let b := s.begin_ c p (s.ctx c).cls
    let n := u32 p 20
    let at_ := (s.partCfg (s.ctx c).part).lpBase + u64 p 24
    chkMem s c p = none →
    (∀ d, s.Starts c p 0x0401 → n ≤ d.length → (u8 p 16 = 0 → (s.spWrite (u64 p 24) (d.take n)).tablesBad (u64 p 24) n = false) → ∃ u : State, exec (.memWrite c p (.data d)) s = .next (u.complete b.2 stOk []) ∧
      (u8 p 16 = 0 → u = b.1.spWrite (u64 p 24) (d.take n)) ∧
      (u8 p 16 = 1 → u = { b.1 with cmp := { s.cmp with lp := u.cmp.lp } } ∧ (∀ j, j < n → some (memGet u.cmp.lp (at_ + j)) = d[j]?) ∧
        ∀ a, a < at_ ∨ at_ + n ≤ a → memGet u.cmp.lp a = memGet s.cmp.lp a)) ∧
    (∀ d, s.Starts c p 0x0401 → n ≤ d.length → u8 p 16 = 0 → (s.spWrite (u64 p 24) (d.take n)).tablesBad (u64 p 24) n = true →
      exec (.memWrite c p (.data d)) s = .next (b.1.complete b.2 stBadParam [])) ∧
    (s.Starts c p 0x0401 → exec (.memWrite c p .failed) s = .next (b.1.complete b.2 stEcc [])) ∧
    (s.Starts c p 0x0403 → ∃ u : State, exec (.memFill c p) s = .next (u.complete b.2 stOk []) ∧
      (u8 p 16 = 0 → u = b.1.spWrite (u64 p 24) (List.replicate n 0)) ∧
      (u8 p 16 = 1 → (∀ j, j < n → memGet u.cmp.lp (at_ + j) = 0) ∧ ∀ a, a < at_ ∨ at_ + n ≤ a → memGet u.cmp.lp a = memGet s.cmp.lp a)) ∧
    (s.Starts c p 0x0402 → u8 p 16 = 0 → s.cmp.spPoison = [] → ∃ u : State, exec (.memRead c p) s = .next (u.complete b.2 stOk []) ∧
      u = b.1.writeFunc (s.ctx c).func (u64 p 32) (s.spRead (u64 p 24) n)) ∧
    (s.Starts c p 0x0402 → u8 p 16 = 1 → s.cmp.lpPoison = [] → ∃ u : State, exec (.memRead c p) s = .next (u.complete b.2 stOk []) ∧
      u = b.1.writeFunc (s.ctx c).func (u64 p 32) (memRead s.cmp.lp at_ n)) ∧
    (s.Starts c p 0x0402 → (s.memTake (s.ctx c).part p).length < n →
      let bs := s.memTake (s.ctx c).part p
      exec (.memRead c p) s = .next (((b.1.writeFunc (s.ctx c).func (u64 p 32) bs).memFault (s.ctx c).part p bs.length).complete b.2 stEcc []))

/-- Tasks and memory commands. -/
def Obligations.TasksAndMemory : Prop :=
  Claims.Tasks ∧ Claims.MemoryCommands

/-- The slot commands: CTE_OPEN takes a CLOSING slot back to OPEN and lets a CLOSED one open at its next latch; CTE_CLOSE starts an
OPEN slot CLOSING; CTE_COEF stores its coefficients; CTE_QUERY gives the slot's state and its group; CTE_ACK acknowledges a faulted
group. In a DUAL group channel B follows channel A; no other slot changes. -/
def Claims.LoopCommands : Prop :=
  ∀ (s : State) (c : Nat) (p : Packet),
    let n := u8 p 16
    let l := s.loop n
    let b := s.begin_ c p (s.ctx c).cls
    (s.Starts c p 0x0701 → chkCteOpen s c p = none → ∃ u : State, exec (.cteOpen c p) s = .next (u.complete b.2 stOk []) ∧
      (l.state = .closing → u.loop n = { l with state := .open_ }) ∧ (l.state = .closed → u.loop n = { l with opening := true }) ∧
      (l.state = .open_ → u.loop n = l) ∧ (∀ k, k ∉ s.pairOf n → u.loop k = s.loop k) ∧ u = { b.1 with cte := u.cte }) ∧
    (s.Starts c p 0x0702 → chkCteClose s c p = none → ∃ u : State, exec (.cteClose c p) s = .next (u.complete b.2 stOk []) ∧
      (l.state = .open_ → (∀ w ∈ l.writes, w.1 ≠ s.time.cnt / 2) →
        u.loop n = { l with state := .closing, writes := [], closeSat := false }) ∧
      (l.state ≠ .open_ → u.loop n = l) ∧ (∀ k, k ∉ s.pairOf n → u.loop k = s.loop k) ∧ u = { b.1 with cte := u.cte }) ∧
    (∀ d, s.Starts c p 0x0703 → chkCteCoef s c p (.data d) = none → ∃ u : State,
      exec (.cteCoef c p (.data d)) s = .next (u.complete b.2 stOk []) ∧
      (∀ i, 2 ≤ i → i ≤ 13 → (u.loop n).coef i = if u8 p 17 ≤ i ∧ i < u8 p 17 + u8 p 18
        then l.coefWord i ((leWords d (u8 p 18)).getD (i - u8 p 17) 0) else l.coef i) ∧
      (u.loop n).state = l.state ∧ (∀ k, k ∉ s.pairOf n → u.loop k = s.loop k) ∧ u = { b.1 with cte := u.cte }) ∧
    (s.Starts c p 0x0704 → chkSlot s c n = none → ∃ g, s.groupOf n = some g ∧
      exec (.cteQuery c p) s = .next (b.1.complete b.2 stOk [l.stateWord, (s.group g).word])) ∧
    (s.Starts c p 0x0705 → chkCteAck s c p = none →
      exec (.cteAck c p) s = .next ((b.1.setGroup n { s.group n with ack := true }).complete b.2 stOk []))

/-- A write to a coefficient register is stored while its slot is OPEN and the value is a number of its format, and is otherwise
discarded with COEF_REFUSED and REFUSED_LOOP set. -/
def Claims.CoefficientWrites : Prop :=
  ∀ (s : State) (n i : Nat) (v : Word), s.powered = true → n < 64 → 2 ≤ i → i ≤ 13 →
    let l := s.loop n
    (l.state = .open_ → l.chanB = false → l.coefBad i v = false → ∃ u : State, exec (.cteCoefRegWrite n i v) s = .next u ∧
      (u.loop n).coef i = l.coefWord i v ∧ (∀ j, 2 ≤ j → j ≤ 13 → j ≠ i → (u.loop n).coef j = l.coef j) ∧ (u.loop n).state = .open_ ∧
      (∀ k, k ∉ s.pairOf n → u.loop k = s.loop k) ∧ u = { s with cte := { s.cte with loops := u.cte.loops } }) ∧
    (l.state ≠ .open_ ∨ l.coefBad i v = true → exec (.cteCoefRegWrite n i v) s =
      .next { s with cte := { s.cte with coefRefused := true, refusedLoop := BitVec.ofNat 6 n } })

/-- The slot commands and coefficient writes. -/
def Obligations.SlotCommands : Prop :=
  Claims.LoopCommands ∧ Claims.CoefficientWrites

/-- What a latch does to a slot's state: CLOSING becomes CLOSED in its first period, an opening CLOSED slot becomes OPEN, a FAULT slot
becomes OPEN where its group has been acknowledged, and no slot leaves OPEN or OFF. -/
def Claims.SlotLatch : Prop :=
  ∀ (l : Loop) (acked : Bool),
    (l.state = .closing → (l.atLatch acked).state = .closed ∧ (l.atLatch acked).first = true) ∧
    (l.state = .closed → l.opening = true → (l.atLatch acked).state = .open_) ∧
    (l.state = .closed → l.opening = false → (l.atLatch acked).state = .closed) ∧
    (l.state = .fault → (l.atLatch acked).state = if acked then .open_ else .fault) ∧
    (l.state = .open_ → (l.atLatch acked).state = .open_) ∧ (l.state = .off → (l.atLatch acked).state = .off) ∧
    (l.atLatch acked).next = none ∧ (l.atLatch acked).openVal = l.coef 13

/-- A group that faults takes its cause, and every slot of it that is not OFF enters FAULT without a pending output; a group already
in FAULT keeps its cause. No other group and no slot outside it changes. -/
def Claims.GroupFaults : Prop :=
  ∀ (s : State) (g cause : Nat), (s.group g).valid = true →
    ((s.group g).fault = false →
      ((s.faultGroupOnly g cause).group g).fault = true ∧ ((s.faultGroupOnly g cause).group g).cause = cause ∧
      (∀ n ∈ (s.group g).slots, (s.loop n).state ≠ .off →
        ((s.faultGroupOnly g cause).loop n).state = .fault ∧ ((s.faultGroupOnly g cause).loop n).next = none) ∧
      (∀ n, n ∉ (s.group g).slots → (s.faultGroupOnly g cause).loop n = s.loop n) ∧
      (∀ q, q ≠ g → (s.faultGroupOnly g cause).group q = s.group q) ∧
      s.faultGroupOnly g cause = { s with cte := (s.faultGroupOnly g cause).cte }) ∧
    ((s.group g).fault = true → s.faultGroupOnly g cause = s)

/-- An asserted fault input is recorded, drives every output of its pairs SAFE and faults the groups that own them; its release ends
the assertion alone. -/
def Claims.FaultInputs : Prop :=
  ∀ (s : State) (t f : Nat), s.powered = true → f < 16 → (tblGet 0 s.mio.flts f).toNat % 2 ^ 24 ≠ 0 →
    let outs := fltOuts (tblGet 0 s.mio.flts f)
    (∃ u : State, exec (.faultInputAssert t f) s = .next u ∧ maskBit u.mio.fltState f = true ∧ maskBit u.mio.fltSeen f = true ∧
      (∀ o ∈ outs, (u.pwm o).drive = .safe) ∧ (∀ o, o ∉ outs → u.pwm o = s.pwm o) ∧
      (∀ g n, g < 16 → (s.group g).valid = true → n ∈ (s.group g).slots → (s.loop n).outKind = 1 → (s.loop n).outIdx ∈ outs →
        (u.group g).fault = true)) ∧
    exec (.faultInputRelease t f) s =
      .next { s.advance t with mio := { s.mio with fltState := maskClear s.mio.fltState f } }

/-- What a latch does to a slot, and what a fault does to its group. -/
def Obligations.GroupsAndFaults : Prop :=
  Claims.SlotLatch ∧ Claims.GroupFaults ∧ Claims.FaultInputs

/-- An axis group's latch is that of its hub cycle; where the group has a policy, its input crosses to the C0 region, whose product begins
and is then awaited; a crossing over a link that is down, and a parity error of the code buffer, are missing at once. The residuals come
back by cycle 128 and are all finite, or the result is missing. -/
def Claims.GroupPeriods : Prop :=
  (∀ (s : State) (t d e : Nat) (en : Entry), (s.advance t).fires d e 9 = some en → (s.advance t).entryDrained d en = false →
    (s.group en.target).valid = true →
    (∃ u : State, exec (.servo t d e {}) s = .next u ∧ e ∈ (u.dom d).fired ∧
      (u.group en.target).latchT = some (max s.time.cnt t / 2 * 2) ∧ (u.group en.target).ran = false ∧
      ((s.group en.target).fault = true → (s.group en.target).ack = true → (u.group en.target).fault = false →
        (u.group en.target).invalid = false) ∧
      ((s.group en.target).policy = false ∨ s.c0Phys = none → (u.group en.target).result = .idle) ∧
      (∀ k, (s.group en.target).policy = true → s.c0Phys = some k →
        (maskBit s.glob.linkDown (k / 16) = true → (u.group en.target).result = .missing) ∧
        (maskBit s.glob.linkDown (k / 16) = false → (u.group en.target).result = .waiting ∧
          ∃ p, s.image.map Image.policy = some p ∧
            (u.region k).policy = some (en.target, u.policyProduct p (u.policyInputs (u.group en.target)))))) ∧
    (∀ k, (s.group en.target).policy = true → s.c0Phys = some k → ∃ u : State, exec (.servo t d e { mvuParity := true }) s = .next u ∧
      e ∈ (u.dom d).fired ∧ (u.group en.target).result = .missing ∧ (u.region k).mvuParity = true)) ∧
  (∀ (s : State) (t g a : Nat), s.powered = true → (s.group g).latchT = some a → (s.group g).result = .waiting →
    (∀ k cols, s.policyRun g = some (k, cols) →
      let v := cols.map fun c => f32ToBf16 c.value
      let m := (s.advance t).endPolicy k cols
      (max s.time.cnt t ≤ a + 257 → v.all (fun b => (bf16.decode b.toNat).isFin) = true →
        exec (.residualReturn t g .arrived) s = .next (m.setGroup g { m.group g with
          result := .values v, lawT := some (a + 2 * max ((max s.time.cnt t - a) / 2 + 1) 72) })) ∧
      (a + 257 < max s.time.cnt t ∨ v.all (fun b => (bf16.decode b.toNat).isFin) = false →
        exec (.residualReturn t g .arrived) s = .next (m.missPolicy g)) ∧
      exec (.residualReturn t g .parityFault) s = .next ((m.mvuParityFault k none).missPolicy g) ∧
      exec (.residualReturn t g .laneFault) s = .next ((s.advance t).missPolicy g)) ∧
    (∀ res, s.policyRun g = none → exec (.residualReturn t g res) s = .next (s.advance t)) ∧
    (a + 258 ≤ max s.time.cnt t → exec (.policyMissing t g) s = .next ((s.advance t).missPolicy g)) ∧
    (max s.time.cnt t < a + 258 → exec (.policyMissing t g) s = .next (s.advance t))) ∧
  ∀ (s : State) (g : Nat), ((s.missPolicy g).group g).result = .missing ∧ (s.missPolicy g).policyRun g = none ∧
    ∀ q, q ≠ g → (s.missPolicy g).group q = s.group q

/-- The law runs once in a period, from cycle 72 on and after the last residual. A group with no CLOSED slot only marks it as run; a
slot without a P stage, alone in its group, takes its law's output, and a NaN leaves its integrators as they were. -/
def Claims.ControlLaws : Prop :=
  ∀ (s : State) (t g a : Nat), s.powered = true → (s.group g).valid = true → (s.group g).latchT = some a → (s.group g).dual = false →
    let x := s.group g
    let m := (s.advance t).setGroup g { x with ran := true }
    (x.ran = false → x.result = .idle → a + 144 ≤ max s.time.cnt t →
      ((∀ n ∈ x.slots, (s.loop n).state ≠ .closed) → exec (.controlLaw t g) s = .next m) ∧
      (∀ n, x.slots = [n] → (s.loop n).stages.contains 0 = false → exec (.controlLaw t g) s = .next (m.runLoop g n))) ∧
    (x.ran = true ∨ x.result = .waiting ∨ x.result = .missing ∨ (x.result = .idle ∧ max s.time.cnt t < a + 144) →
      exec (.controlLaw t g) s = .next (s.advance t)) ∧
    (∀ n, (s.loop n).state ≠ .closed → s.runLoop g n = s) ∧
    (∀ n, (s.loop n).state = .closed → (s.group g).result = .idle → (s.loop n).ffMap = 0xFFFFFFFF →
      let l := s.loop n
      let r := l.law 0 { y := [l.yP, l.yV, l.yT].map (lawMeas l.fp), f := [0, 0, 0], res := [] }
      let u := s.runLoop g n
      (r.nan = false → (u.loop n).next = some r.r ∧ (u.loop n).iP = r.integ.getD 0 0 ∧ (u.loop n).iV = r.integ.getD 1 0 ∧
        (u.loop n).iT = r.integ.getD 2 0 ∧ (u.loop n).first = false) ∧
      (r.nan = true → (u.loop n).next = l.next ∧ (u.loop n).iP = l.iP ∧ (u.loop n).iV = l.iV ∧ (u.loop n).iT = l.iT))

/-- At the output phase a CLOSED slot takes the law's output; one without it holds, which is counted, and faults its group with cause
HOLD where HOLD_LIMIT is reached; an OPEN slot takes its open value. Before cycle 200 nothing happens. -/
def Claims.OutputPhases : Prop :=
  ∀ (s : State) (t g a n : Nat), s.powered = true → (s.group g).valid = true → (s.group g).latchT = some a → (s.group g).slots = [n] →
    (s.loop n).outKind = 0 →
    let l := s.loop n
    (max s.time.cnt t < a + 400 → exec (.outputPhase t g) s = .next (s.advance t)) ∧
    (a + 400 ≤ max s.time.cnt t →
      (∀ v, l.state = .closed → l.next = some v → ∃ u : State, exec (.outputPhase t g) s = .next u ∧ (u.loop n).out = v ∧
        (u.loop n).held = false ∧ u.cte.holdCnt = s.cte.holdCnt ∧ (u.group g).latchT = none ∧ u.safe = s.safe) ∧
      (l.state = .closed → l.next = none → min (l.holdRun + 1) 255 < l.holdLimit → ∃ u : State, exec (.outputPhase t g) s = .next u ∧
        (u.loop n).out = l.out ∧ (u.loop n).held = true ∧ (u.loop n).holdRun = min (l.holdRun + 1) 255 ∧
        u.cte.holdCnt = satInc s.cte.holdCnt ∧ u.safe = s.safe) ∧
      (l.state = .closed → l.next = none → l.holdLimit ≤ min (l.holdRun + 1) 255 → (s.group g).fault = false →
        ∃ u : State, exec (.outputPhase t g) s = .next u ∧ (u.loop n).out = l.out ∧ (u.group g).fault = true ∧ (u.group g).cause = 3 ∧
          u.cte.holdCnt = satInc s.cte.holdCnt ∧ u.safe.logCount = s.safe.logCount + 1) ∧
      (l.state = .open_ → ∃ u : State, exec (.outputPhase t g) s = .next u ∧ (u.loop n).out = l.openVal ∧ u.safe = s.safe))

/-- At the output phase the carrier of a slot's PWM output restarts with the compare value of its output, or the output is SAFE, in FAULT
or while a fault input holds it. A compare value of 0 holds the carrier low and one of PERIOD high; between them an up carrier is high
for CMP from each carrier start and a centre carrier for CMP in its middle. The two pins of a complementary pair are never high
together, and both are low for DEAD after every transition. -/
def Claims.PwmOutputs : Prop :=
  (∀ (s : State) (t g a n : Nat), s.powered = true → (s.group g).valid = true → (s.group g).latchT = some a → (s.group g).slots = [n] →
    (s.loop n).outKind = 1 → (s.loop n).chanB = false → a + 400 ≤ max s.time.cnt t →
    let l := s.loop n
    let o := l.outIdx
    ∃ u : State, exec (.outputPhase t g) s = .next u ∧
      (l.state = .fault → (u.pwm o).drive = .safe ∧ (u.pwm o).cmp = (s.pwm o).cmp) ∧
      (s.forced o = true → l.state ≠ .off → (u.pwm o).drive = .safe) ∧
      (∀ v, l.state = .closed → l.next = some v → s.forced o = false → (u.pwm o).drive = .run ∧
        (u.pwm o).cmp = pwmCmp l.fp v (s.pwm o).period ∧ (u.pwm o).restartT = max s.time.cnt t) ∧
      (∀ q, q ≠ o → q ≠ o + 1 → u.pwm q = s.pwm q)) ∧
  (∀ (cfg : Word) (period cmp : BitVec 20) (u : Nat), period ≠ 0 →
    (cmp = 0 → carrierHigh cfg period cmp u = false) ∧ (period ≤ cmp → carrierHigh cfg period cmp u = true) ∧
    (u < bitsOf cfg.toNat 16 8 * period.toNat → 0 < cmp → cmp < period →
      (cfg.toNat % 4 = 1 → carrierHigh cfg period cmp u = decide (u % period.toNat < cmp.toNat)) ∧
      (cfg.toNat % 4 = 2 → carrierHigh cfg period cmp u = decide ((period.toNat - cmp.toNat) / 2 ≤ u % period.toNat ∧
        u % period.toNat < (period.toNat - cmp.toNat) / 2 + cmp.toNat)))) ∧
  ∀ (s : State) (k at_ : Nat), (s.pwm (2 * k + 1)).cfg.getLsbD 2 = true → (s.pwm (2 * k)).drive = .run → (s.pwm (2 * k + 1)).drive = .run →
    ¬(s.pwmPin (2 * k) at_ = .high ∧ s.pwmPin (2 * k + 1) at_ = .high) ∧
    (∀ j < 16 * bitsOf (s.pwm (2 * k + 1)).cfg.toNat 8 8, (s.pwm (2 * k)).high (at_ - j) ≠ (s.pwm (2 * k)).high (at_ - j - 1) →
      s.pwmPin (2 * k) at_ = .low ∧ s.pwmPin (2 * k + 1) at_ = .low)

/-- A servo period: latch, policy, law, output and PWM pins. -/
def Obligations.ServoPeriods : Prop :=
  Claims.GroupPeriods ∧ Claims.ControlLaws ∧ Claims.OutputPhases ∧ Claims.PwmOutputs

/-- The output of a law in INT never exceeds in magnitude the limit of its last enabled stage, whatever the measurements, the
feed-forward terms, the residuals and the integrators; a stage that is clamped leaves its integrator as it was. -/
def Obligations.StageLimits : Prop :=
  (∀ (l : Loop) (setp : Word) (x : LawIn) (st : Nat), l.fp = false → l.stages.getLast? = some st →
    (l.law setp x).nan = false ∧ (l.law setp x).r.toInt.natAbs ≤ (l.coef (8 + st)).toInt.natAbs) ∧
  (∀ (l : Loop) (x : LawIn) (a : LawRun) (st : Nat), l.fp = false → l.first = false → a.nan = false → st < 3 → a.integ.length = 3 →
    let e := lawSub false a.r (x.y.getD st 0)
    let i := a.integ.getD st 0
    let u := lawAdd false (lawAdd false (lawAdd false (lawMul false (l.coef (2 + 2 * st)) e) i) (x.f.getD st 0)) (x.res.getD st 0)
    (lawExceeds false u (l.coef (8 + st)) = true →
      (l.stage x a st).r = lawClamp false u (l.coef (8 + st)) ∧ (l.stage x a st).integ = a.integ) ∧
    (lawExceeds false u (l.coef (8 + st)) = false →
      (l.stage x a st).r = u ∧ (l.stage x a st).integ.getD st 0 = lawAdd false i (lawMul false (l.coef (3 + 2 * st)) e)))

/-- An edge of A or B moves a quadrature port's counter by one, A leading B in the direction of +1, and with it the phase of every
domain that follows the port; a change of both lines moves nothing and records QERR. A Z edge copies the counter, starts a ZSYNC
domain in ACQUIRE at its present phase, and does no more while QERR stands. -/
def Claims.QuadratureEdges : Prop :=
  (∀ a b, quadStep a b a b = some 0 ∧ quadStep a b (!a) (!b) = none ∧ quadStep a b (!a) b = some (if a = b then 1 else -1) ∧
    quadStep a b a (!b) = some (if a = b then -1 else 1)) ∧
  ∀ (s : State) (t e d : Nat) (a b : Bool), s.powered = true → (s.enc e).kind = 1 → d < 8 →
    (∀ k, quadStep (s.enc e).a (s.enc e).b a b = some k → ∃ u : State, exec (.encoderEdge t e a b) s = .next u ∧
      u.enc e = { s.enc e with a := a, b := b, value := (s.enc e).value + BitVec.ofInt 32 k } ∧
      (d ∈ s.domsOf 1 e → ((s.dom d).state = .run ∨ (s.dom d).state = .acquire) → (u.dom d).phi = (s.dom d).phi + BitVec.ofInt 32 k) ∧
      (d ∉ s.domsOf 1 e → u.dom d = s.dom d) ∧ u.mio.encErr = s.mio.encErr ∧ u = { s.advance t with mio := u.mio, time := u.time }) ∧
    (quadStep (s.enc e).a (s.enc e).b a b = none → e < 32 → ∃ u : State, exec (.encoderEdge t e a b) s = .next u ∧
      maskBit u.mio.encErr e = true ∧ (u.enc e).value = (s.enc e).value ∧ u = { s.advance t with mio := u.mio }) ∧
    (s.qerr e = true → exec (.encoderIndexEdge t e) s = .next ((s.advance t).setEnc e { s.enc e with idx := (s.enc e).value })) ∧
    (s.qerr e = false → ∃ u : State, exec (.encoderIndexEdge t e) s = .next u ∧ (u.enc e).idx = (s.enc e).value ∧
      (d ∈ s.domsOf 1 e → (s.dom d).zsync = true → (s.dom d).state = .acquire → (u.dom d).state = .run ∧
        (u.dom d).phiK = (s.dom d).phi ∧ (u.dom d).pcount = 0) ∧
      (d ∉ s.domsOf 1 e → u.dom d = s.dom d))

/-- An SSI frame that starts runs; one that completes is decoded, from Gray code where the port says so, and moves its domains; one
whose parity is odd or that does not come counts as a failure and leaves the value. A sample frame holds its words, most significant
bit first. -/
def Claims.SerialFrames : Prop :=
  ∀ (s : State) (t e p d : Nat), s.powered = true → d < 8 →
    ((s.enc e).kind = 2 → exec (.ssiFrameStart t e) s = .next ((s.advance t).setEnc e { s.enc e with running := true })) ∧
    ((s.enc e).kind = 2 → (s.enc e).running = true →
      exec (.ssiFrameComplete t e none) s =
        .next ((s.advance t).setEnc e { s.enc e with running := false, fails := (s.enc e).fails + 1 }) ∧
      (∀ bs, (s.enc e).cfg.getLsbD 3 = false → ∃ u : State, exec (.ssiFrameComplete t e (some bs)) s = .next u ∧
        (u.enc e).value = w32 (bitsNat (if (s.enc e).cfg.getLsbD 2 then grayBits false (bs.take (s.enc e).bits) else bs.take (s.enc e).bits)) ∧
        (u.enc e).running = false ∧ (u.enc e).fails = 0 ∧ (d ∉ s.domsOf 1 e → u.dom d = s.dom d)) ∧
      (∀ bs, (s.enc e).cfg.getLsbD 3 = true → countIf id (bs.take ((s.enc e).bits + 1)) % 2 = 1 →
        ∃ u : State, exec (.ssiFrameComplete t e (some bs)) s = .next u ∧ (u.enc e).value = (s.enc e).value ∧
          (u.enc e).fails = (s.enc e).fails + 1 ∧ u.time = (s.advance t).time)) ∧
    (bitsOf (s.spi p).cfg.toNat 8 7 ≠ 0 →
      exec (.sampleFrameStart t p) s = .next ((s.advance t).setSpi p { s.spi p with running := true })) ∧
    (∀ lines, (s.spi p).running = true → ∃ u : State, exec (.sampleFrameComplete t p lines) s = .next u ∧
      (u.spi p).words = bitWords (bitsOf (s.spi p).cfg.toNat 8 7 / 16) (lines.flatMap id) ∧ (u.spi p).running = false ∧
      (d ∉ s.domsOf 3 p → u.dom d = s.dom d))

/-- Quadrature edges and serial encoder frames. -/
def Obligations.EncoderEvents : Prop :=
  Claims.QuadratureEdges ∧ Claims.SerialFrames

/-- Whatever a packet header brings, a corrected one is counted, and an uncorrectable one takes nothing else of its packet: it is a
fault of the frame in progress, and none where no frame is. -/
def Claims.PacketHeaders : Prop :=
  ∀ (s : State) (t i : Nat) (l : LineIn) (c : CamCfg), s.powered = true → s.camCfg i = some c → l.eccUncorrectable = true →
    let cap := { s.cap with eccCe := if l.eccCorrected then satInc s.cap.eccCe else s.cap.eccCe }
    ∀ j, (j = .lineStart t i l ∨ j = .frameStart t i l ∨ j = .frameEnd t i l) →
      ((s.cam i).open_ = false → exec j s = .next { s.advance t with cap := cap }) ∧
      ((s.cam i).open_ = true → exec j s = .next (State.camFault { s.advance t with cap := cap } i 1))

/-- A frame start takes the next FRAME_SEQ: where a buffer is free the frame starts in it, and where none is, it is counted as not
captured; the LINE domains of the stream restart with φ unchanged, and the entries that have not fired are missed. A line moves those
domains on by one and counts in the frame in progress. -/
def Claims.FramesAndLines : Prop :=
  ∀ (s : State) (t i d : Nat) (l : LineIn) (c : CamCfg), s.powered = true → s.camCfg i = some c → l.eccUncorrectable = false → d < 8 →
    ((s.cam i).open_ = false → ∃ u : State, exec (.frameStart t i l) s = .next u ∧ (u.cam i).next = (s.cam i).next + 1 ∧
      (u.cam i).open_ = true ∧ (d ∉ s.domsOf 2 i → u.dom d = s.dom d) ∧ u.cap.frameCnt = s.cap.frameCnt ∧
      (d ∈ s.domsOf 2 i → (s.dom d).state = .run → (∀ w ∈ s.sched.swaps, d ∉ w.todo) → (u.dom d).phi = (s.dom d).phi ∧
        (u.dom d).phiK = (s.dom d).phi ∧ (u.dom d).pcount = (s.dom d).pcount + 1 ∧ (u.dom d).fired = [] ∧
        (s.domsOf 2 i = [d] → u.sched.missedCnt = satAdd s.sched.missedCnt (s.dom d).unfired)) ∧
      (s.freeBuf i c = none → (u.cam i).frames = (s.cam i).frames ∧ u.cap.staleCnt = satInc s.cap.staleCnt) ∧
      (∀ b, s.freeBuf i c = some b → u.cap.staleCnt = s.cap.staleCnt ∧ ∃ f, (u.cam i).frames = (s.cam i).frames ++ [f] ∧
        f.seq = (s.cam i).next ∧ f.buf = some b ∧ f.lines = 0 ∧ f.corrupt = false)) ∧
    (∀ f, (s.cam i).open_ = true → (s.cam i).frames = [f] → f.ended = false → ∃ (u : State) (g : CamFrame),
      exec (.lineStart t i l) s = .next u ∧ (u.cam i).frames = [g] ∧ g.lines = f.lines + 1 ∧ g.seq = f.seq ∧ g.buf = f.buf ∧
      (l.crcBad = false → l.pixels = c.width → f.lines < c.height → f.inBand + 1 ≠ bandHeight c → g.corrupt = f.corrupt ∧ g.waiting = f.waiting ∧
        u.cap.err = s.cap.err) ∧
      (l.crcBad = true ∨ l.pixels ≠ c.width → g.corrupt = true)) ∧
    (d ∈ s.domsOf 2 i → (s.dom d).state = .run → ∃ u : State, exec (.lineStart t i l) s = .next u ∧
      (u.dom d).phi = (s.dom d).phi + 1 ∧ (u.dom d).phiK = (s.dom d).phiK ∧ ((s.cam i).open_ = false → u.cam i = s.cam i))

/-- A whole frame that ends with every band converted is complete: its buffer holds it, and it is counted. One whose line count is
not HEIGHT is corrupt, and an end without a start is a fault. -/
def Claims.FrameEnds : Prop :=
  ∀ (s : State) (t i b : Nat) (l : LineIn) (c : CamCfg) (f : CamFrame), s.powered = true → s.camCfg i = some c →
    l.eccUncorrectable = false → l.eccCorrected = false →
    ((s.cam i).open_ = false → exec (.frameEnd t i l) s = .next ((s.advance t).camFault i 5)) ∧
    ((s.cam i).open_ = true → (s.cam i).frames = [f] → f.ended = false → f.buf = some b → f.waiting = [] → f.rows = c.height →
      s.spPoisoned (c.bufAddr + b * c.bufSize) c.bufSize = false →
      (f.lines = c.height → ∃ u : State, exec (.frameEnd t i l) s = .next u ∧ (u.cam i).frames = [] ∧ (u.cam i).last = f.seq ∧
        (u.cam i).open_ = false ∧ (tblGet {} (u.cam i).bufs b).held = some f.seq ∧ (tblGet {} (u.cam i).bufs b).corrupt = f.corrupt ∧
        u.cap.frameCnt = satInc s.cap.frameCnt ∧ u.cap.corruptCnt = (if f.corrupt then satInc s.cap.corruptCnt else s.cap.corruptCnt)) ∧
      (f.lines ≠ c.height → s.cap.err.toNat % 8 ≠ 6 → ∃ u : State, exec (.frameEnd t i l) s = .next u ∧
        (tblGet {} (u.cam i).bufs b).corrupt = true ∧ u.cap.corruptCnt = satInc s.cap.corruptCnt))

/-- The oldest waiting band is converted into its frame buffer, row after row, and counted; a port that comes up or goes down shows in
CAP_STATUS; an input of a decode task is written to its slot, zeros where it failed, and counted by its status. -/
def Claims.PreProcessing : Prop :=
  ∀ (s : State) (t i p : Nat), s.powered = true →
    (∀ c f n rest b px, s.camCfg i = some c → (s.cam i).frames = [f] → f.waiting = n :: rest → f.buf = some b →
      ∃ u : State, exec (.bandConverted t i px) s = .next u ∧
        u.ppe.bandCnt = satInc s.ppe.bandCnt ∧ (∃ bs, u.cmp = ((s.advance t).spWrite (c.bufAddr + b * c.bufSize + f.rows * c.width * chansOf c.dt * 2) bs).cmp) ∧
        (rest ≠ [] → ∃ g, (u.cam i).frames = [g] ∧ g.waiting = rest ∧ g.rows = f.rows + n)) ∧
    (p < 8 → exec (.csiPortChange p true) s = .next { s with cap := { s.cap with portUp := maskSet s.cap.portUp p } } ∧
      exec (.csiPortChange p false) s = .next { s with cap := { s.cap with portUp := maskClear s.cap.portUp p } }) ∧
    (∀ c tag h d b, s.ppe.decodes.head? = some d → d.id = .cmd c tag → s.batch d.batch = some b → d.done.length + 1 < d.slots →
      let size := b.height * b.width * b.chans * 2
      let base := b.tensor + d.done.length * size
      let r := decodeInput b d.tensor h
      s.spPoisoned base size = false →
      ∃ u : State, exec (.decodeInputComplete t c tag h) s = .next u ∧
        u.cmp = ((s.advance t).spWrite base (if r.1 = stOk then r.2.2.2.flatMap (fun v => leBytes v.toNat 2) else List.replicate size 0)).cmp ∧
        (r.1 = stOk → u.ppe.decodeCnt = satInc s.ppe.decodeCnt ∧ u.ppe.err = s.ppe.err) ∧
        (r.1 ≠ stOk → u.ppe.decodeCnt = s.ppe.decodeCnt ∧ u.ppe.err.getLsbD 31 = true) ∧
        (∃ e ∈ u.ppe.decodes, e.id = d.id ∧ e.done = d.done ++ [(r.1, r.2.1, r.2.2.1)]))

/-- Camera packets, frames, lines and pre-processing. -/
def Obligations.FramesCaptured : Prop :=
  Claims.PacketHeaders ∧ Claims.FramesAndLines ∧ Claims.FrameEnds ∧ Claims.PreProcessing

/-- An error-free frame goes where the lowest filter that it matches sends it: a holding register takes its data and tick, a queue its
next entry, and a full queue drops and counts it. A protocol error counts and is recorded. -/
def Claims.CanReceive : Prop :=
  ∀ (s : State) (t c : Nat) (f : CanFrame) (cfg : CanCfg), s.powered = true → s.canCfg c = some cfg → (s.can c).onLine = true →
    (canFilter cfg.filters f = none → ∃ u : State, exec (.canFrameReceive t c f) s = .next u ∧ u = (s.advance t).setCan c (u.can c) ∧
      (u.can c).holds = (s.can c).holds ∧ (u.can c).queues = (s.can c).queues ∧ (u.can c).rec_ ≤ max 119 ((s.can c).rec_ - 1)) ∧
    (∀ i flt h, canFilter cfg.filters f = some (i, flt) → flt.target = .holding h → f.rtr = false → ∃ u : State,
      exec (.canFrameReceive t c f) s = .next u ∧ u = (s.advance t).setCan c (u.can c) ∧
      tblGet {} (u.can c).holds h = { data := f.data, tick := f.sof, count := (tblGet {} (s.can c).holds h).count + 1 }) ∧
    (∀ i flt q, canFilter cfg.filters f = some (i, flt) → flt.target = .queue q →
      let y := tblGet {} (s.can c).queues q
      ((y.pi - y.ack).toNat < y.len → ∃ u : State, exec (.canFrameReceive t c f) s = .next u ∧ u = (s.advance t).setCan c (u.can c) ∧
        tblGet {} (u.can c).queues q = { y with pi := y.pi + 1, pos := (y.pos + 1) % y.len } ∧
        (u.can c).store = memWrite (s.can c).store (128 * (y.base + y.pos)) (canEntry f i ((s.dom cfg.stampDom).timeVal f.sof)) ∧
        (u.can c).rxdropCnt = (s.can c).rxdropCnt) ∧
      (y.len ≤ (y.pi - y.ack).toNat → ∃ u : State, exec (.canFrameReceive t c f) s = .next u ∧ u = (s.advance t).setCan c (u.can c) ∧
        (u.can c).rxdropCnt = satInc (s.can c).rxdropCnt ∧ (u.can c).queues = (s.can c).queues ∧ (u.can c).store = (s.can c).store)) ∧
    (∀ lec, ∃ u : State, exec (.canReceiveError c lec) s = .next u ∧ (u.can c).rec_ = min 255 ((s.can c).rec_ + 1) ∧
      (u.can c).err = canErr (s.can c).err lec ∧ u = (s.recorded (canErrAddr c)).setCan c (u.can c))

/-- The host's writes to a CAN FD controller: an acknowledgement inside what has been received is taken and another refused; REQ makes
an idle buffer pending; its header and data are stored while it is idle and refused while it is pending; a pending buffer that is
not on the bus is cancelled at once. -/
def Claims.CanHostWrites : Prop :=
  ∀ (s : State) (t c q b i : Nat) (v : Word), s.powered = true → c < 4 → q < 8 → b < 8 →
    let x := s.can c
    let y := tblGet {} x.queues q
    let a : BitVec 16 := BitVec.ofNat 16 v.toNat
    let w := tblGet {} x.txs b
    ((a - y.ack).toNat ≤ (y.pi - y.ack).toNat →
      exec (.canAckWrite c q v) s = .next (s.setCan c { x with queues := tblSet {} x.queues q { y with ack := a } })) ∧
    ((y.pi - y.ack).toNat < (a - y.ack).toNat → exec (.canAckWrite c q v) s = .next (s.setCan c { x with err := x.err ||| 0x100 })) ∧
    (w.req = false → v.getLsbD 31 = true → ∃ u : State, exec (.canTxReq t c b v) s = .next u ∧
      u = (s.advance t).setCan c { x with txs := (u.can c).txs } ∧ (tblGet {} (u.can c).txs b).req = true ∧
      (tblGet {} (u.can c).txs b).hdr = w.hdr ∧ (tblGet {} (u.can c).txs b).tries = 0 ∧ (tblGet {} (u.can c).txs b).result = 0) ∧
    (w.req = true → exec (.canTxReq t c b v) s = .next (s.advance t)) ∧
    (w.req = true → v.getLsbD 31 = false → x.onBus ≠ some (.host b) → ∃ u : State, exec (.canTxCancel c b v) s = .next u ∧
      u = s.setCan c { x with txs := (u.can c).txs } ∧ (tblGet {} (u.can c).txs b).req = false ∧ (tblGet {} (u.can c).txs b).result = 3) ∧
    (w.req = true → v.getLsbD 31 = false → x.onBus = some (.host b) → ∃ u : State, exec (.canTxCancel c b v) s = .next u ∧
      (tblGet {} (u.can c).txs b).req = true ∧ (tblGet {} (u.can c).txs b).cancel = true) ∧
    (w.req = false → i ≤ 16 → ∃ u : State, exec (.canTxBufferWrite c b i v) s = .next u ∧
      (i = 0 → (tblGet {} (u.can c).txs b).hdr = v) ∧ (0 < i → tblGet 0 (tblGet {} (u.can c).txs b).words (i - 1) = v) ∧
      u = s.setCan c { x with txs := (u.can c).txs }) ∧
    (w.req = true → i ≤ 16 → exec (.canTxBufferWrite c b i v) s = .next (s.setCan c { x with err := x.err ||| 0x200 }))

/-- A controller presents a pending frame when its bus is idle, none of a lower class while one of a higher waits; a frame sent is no
longer pending and lowers the transmit error counter, one that met an error raises it by 8 and is recorded; a controller in bus-off
recovers on request and stands ACTIVE with its counters 0 after recovery. -/
def Claims.CanSend : Prop :=
  ∀ (s : State) (t c : Nat), s.powered = true →
    let x := s.can c
    (x.onLine = true → x.onBus = none → s.canPending c ≠ [] → ∃ (u : State) (e : Nat × Nat × CanPick), exec (.canFramePresent t c) s = .next u ∧
      u = (s.advance t).setCan c { x with onBus := some e.2.2 } ∧ e ∈ s.canPending c ∧ ∀ f ∈ s.canPending c, e.1 < f.1 ∨ (e.1 = f.1 ∧ e.2.1 ≤ f.2.1)) ∧
    (x.onLine = false ∨ s.canPending c = [] → exec (.canFramePresent t c) s = .next (s.advance t)) ∧
    (∀ cfg b, s.canCfg c = some cfg → x.onBus = some (.host b) →
      (∃ u : State, exec (.canTxResult t c (.sent none)) s = .next u ∧ (u.can c).onBus = none ∧ (u.can c).tec = x.tec - 1 ∧
        (tblGet {} (u.can c).txs b).req = false ∧ (tblGet {} (u.can c).txs b).result = 1) ∧
      (∀ lec, ∃ u : State, exec (.canTxResult t c (.error lec)) s = .next u ∧ (u.can c).onBus = none ∧ (u.can c).tec = x.tec + 8 ∧
        (u.can c).err = canErr x.err lec ∧
        (x.onLine = true → 248 ≤ x.tec → (u.can c).state = .busOff ∧ (cfg.autoRecover = true → (u.can c).recovering = true))) ∧
      (∃ u : State, exec (.canTxResult t c .lostArbitration) s = .next u ∧ (u.can c).onBus = none ∧ (u.can c).tec = x.tec)) ∧
    (x.state = .busOff → exec (.canRecover c) s = .next (s.setCan c { x with recovering := true })) ∧
    (x.state ≠ .busOff → exec (.canRecover c) s = .next s) ∧
    (x.recovering = true → exec (.canRecoveryComplete t c) s =
      .next ((s.advance t).setCan c { x with state := .active, recovering := false, tec := 0, rec_ := 0 }))

/-- CAN FD frames received and sent, and the host's buffers. -/
def Obligations.CanFrames : Prop :=
  Claims.CanReceive ∧ Claims.CanHostWrites ∧ Claims.CanSend

/-- A frame on a port whose link is up is counted where it goes, and dropped and counted where its FCS fails or no filter takes it. A
link that comes up sends what has waited for it. -/
def Claims.EthernetPorts : Prop :=
  ∀ (s : State) (t p : Nat) (f : EthFrame) (cfg : EthCfg), s.powered = true → s.ethCfg p = some cfg →
    let x := s.eth p
    (x.link = true → f.fcsOk = false → exec (.ethFrameReceive t p f) s = .next ((s.advance t).setEth p { x with fcsCnt := satInc x.fcsCnt })) ∧
    (x.link = true → f.fcsOk = true → cfg.filters.find? (ethMatches f) = none →
      exec (.ethFrameReceive t p f) s = .next ((s.advance t).setEth p { x with rxdropCnt := satInc x.rxdropCnt })) ∧
    (∀ flt h, x.link = true → f.fcsOk = true → cfg.filters.find? (ethMatches f) = some flt → flt.target = .holding h → ∃ u : State,
      exec (.ethFrameReceive t p f) s = .next u ∧ (u.eth p).rxCnt = satInc x.rxCnt ∧
      tblGet {} (u.eth p).holds h = { data := f.data, tick := max s.time.cnt t, count := (tblGet {} x.holds h).count + 1 } ∧
      u = (s.advance t).setEth p (u.eth p)) ∧
    (x.link = false → exec (.ethFrameReceive t p f) s = .next (s.advance t)) ∧
    exec (.ethLinkChange p false) s = .next (s.setEth p { x with link := false }) ∧
    (∃ u : State, exec (.ethLinkChange p true) s = .next u ∧ (u.eth p).link = true ∧ (u.eth p).servo = [] ∧ (u.eth p).class1 = [] ∧
      (∀ k g, x.servo = [(k, g)] → x.class1 = [] → tblGet {} (u.eth p).sent k = g) ∧
      (∀ q, q ≠ p → tblGet 0 u.safe.messages q = tblGet 0 s.safe.messages q) ∧ u = { s with eths := u.eths, safe := u.safe })

/-- A LATCH entry copies the holding registers of its set to the scratchpad, an OUTPUT entry hands its frames over, and both complete
in the cycle in which they fire. -/
def Claims.LatchAndOutput : Prop :=
  ∀ (s : State) (t d e : Nat) (en : Entry),
    let m := ((s.advance t).markFired d e).startEntry d e en
    ((s.advance t).fires d e 3 = some en → (s.advance t).entryDrained d en = false → (s.advance t).startedOf d e = none →
      (∀ img l, s.image = some img → img.latches.find? (fun l => l.index == en.target) = some l →
        exec (.latch t d e) s = .next ((m.spWrite l.addr (l.regs.flatMap s.holdBytes)).finishNow d e stOk)) ∧
      (s.image = none → exec (.latch t d e) s = .next (m.finishNow d e stBadParam))) ∧
    ((s.advance t).fires d e 4 = some en → (s.advance t).entryDrained d en = false → (s.advance t).startedOf d e = none → ∃ u : State,
      exec (.output t d e) s = .next u ∧ u = ((m.outputFrames en.target).finishNow d e stOk) ∧ u.sched.started = s.sched.started ∧
      tblGet (0, 0) u.sched.records ((s.dom d).active.base + e) = (s.recordStatus en.part en.cls stOk, BitVec.ofNat 64 (max s.time.cnt t)) ∧
      e ∈ (u.dom d).fired)

/-- Ethernet frames, LATCH and OUTPUT entries. -/
def Obligations.EthernetAndLatches : Prop :=
  Claims.EthernetPorts ∧ Claims.LatchAndOutput

/-- After the grants of a counter its first wait cannot be paid, what the granted waits took is what the counter has lost, the waits
that remain are the last in their order, and no other counter or wait changes. -/
def Obligations.GrantsSettle : Prop :=
  ∀ (s : State) (k : Nat),
    let u := s.grants k
    let mine := fun w : Wait => w.counter == k
    (∀ w, u.sync.waits.find? mine = some w → (u.counter k).value < w.n) ∧
    u.sync.waits.filter mine <:+ s.sync.waits.filter mine ∧
    u.sync.waits.filter (fun w => !mine w) = s.sync.waits.filter (fun w => !mine w) ∧
    (u.counter k).value + ((s.sync.waits.filter mine).map Wait.n).sum =
      (s.counter k).value + ((u.sync.waits.filter mine).map Wait.n).sum ∧
    (∀ j, j ≠ k → u.counter j = s.counter j) ∧ u = { s with cmd := u.cmd, sync := u.sync }

/-- The commands on counters: SYNC_CREATE makes a LIVE counter of the context, SYNC_MAP maps one of its partition, SYNC_UNMAP removes
a mapping, SYNC_SIGNAL adds to a counter and grants what it can pay, SYNC_TAKE takes at once or is refused and counted, SYNC_INIT
brings an ABANDONED counter back under a new owner, SYNC_QUERY shows one. A signal and a take come after the waits whose deadline was
passed in an earlier cycle have ended. -/
def Claims.CounterCommands : Prop :=
  ∀ (s : State) (c : Nat) (p : Packet),
    let v := u16 p 16
    let n := u32 p 20
    let b := s.begin_ c p (s.ctx c).cls
    (s.Starts c p 0x0501 → chkSyncCreate s c p = none → ∃ (u : State) (k : Nat), exec (.syncCreate c p) s =
        .next (u.complete b.2 stOk [w32 k]) ∧ k = lowestFree 0 s.sync.counters ∧
      u.counter k = { state := .live, value := n, owner := c, part := (s.ctx c).part } ∧ (∀ j, j ≠ k → u.counter j = s.counter j) ∧
      u = (b.1.setCounter k (u.counter k)).setCtx c { b.1.ctx c with
        vids := tblInsert (s.ctx c).vids v { counter := k, sig := true, wait := true } }) ∧
    (s.Starts c p 0x0502 → chkSyncMap s c p = none → exec (.syncMap c p) s = .next ((b.1.setCtx c { b.1.ctx c with
      vids := tblInsert (s.ctx c).vids v { counter := u16 p 20, sig := bitOf (u8 p 22) 0, wait := bitOf (u8 p 22) 1 } }).complete b.2 stOk [])) ∧
    (s.Starts c p 0x0503 → chkSyncUnmap s c p = none → exec (.syncUnmap c p) s = .next ((b.1.dropMapping c v).complete b.2 stOk [])) ∧
    (∀ m, s.Starts c p 0x0504 → chkSyncSignal s c p = none → s.vid c v = some m →
      let z := b.1.expireWaits m.counter
      let x := z.counter m.counter
      exec (.syncSignal c p) s = .next (((z.setCounter m.counter { x with value := x.value + n }).grants m.counter).complete b.2 stOk
        [w32 (x.value + n)]) ∧
      ((∀ w ∈ s.sync.waits, s.waitLate m.counter w = false) → z = b.1)) ∧
    (∀ m, s.Starts c p 0x0506 → chkSyncTake s c p = none → s.vid c v = some m →
      let z := b.1.expireWaits m.counter
      let x := z.counter m.counter
      (n ≤ x.value → exec (.syncTake c p) s = .next ((z.setCounter m.counter { x with value := x.value - n }).complete b.2 stOk
        [w32 (x.value - n)])) ∧
      (x.value < n → exec (.syncTake c p) s = .next (State.complete { z with sync := { z.sync with
        underflowCnt := satInc z.sync.underflowCnt } } b.2 stUnderflow []))) ∧
    (∀ m, s.Starts c p 0x0507 → chkSyncInit s c p = none → s.vid c v = some m →
      exec (.syncInit c p) s = .next ((b.1.setCounter m.counter { s.counter m.counter with
        state := .live, value := n, owner := c }).complete b.2 stOk [])) ∧
    (∀ m, s.Starts c p 0x0508 → s.vid c v = some m →
      exec (.syncQuery c p) s = .next (b.1.complete b.2 stOk [w32 (s.counter m.counter).value, s.syncState m.counter]))

/-- SYNC_WAIT takes its place behind the waits of its counter, among those of its cycle in the order of the contexts, and is granted at once where it is the first and the counter can pay;
a wait whose deadline is due ends with TIMEOUT, which is counted, and the wait behind it is tested. A signal from another package
does what a SYNC_SIGNAL does, and one beyond the largest value leaves the counter there. -/
def Claims.WaitsAndSignals : Prop :=
  (∀ (s : State) (c : Nat) (p : Packet) (m : MapEntry), s.Starts c p 0x0505 → chkSyncWait s c p = none → s.vid c (u16 p 16) = some m →
    let b := s.begin_ c p (s.ctx c).cls
    let k := m.counter
    let n := u32 p 20
    let w : Wait := ⟨k, n, .cmd b.2, s.time.cnt / 2, ctxRank c 0⟩
    exec (.syncWait c p) s = .next (((b.1.expireWaits k).register k n (ctxRank c 0) (.cmd b.2)).grants k) ∧
    ((∀ x ∈ s.sync.waits, x.counter ≠ k) → n ≤ (s.counter k).value → ∃ u : State,
      exec (.syncWait c p) s = .next (u.complete b.2 stOk [w32 ((s.counter k).value - n)]) ∧
      (u.counter k).value = (s.counter k).value - n ∧ u.sync.waits = s.sync.waits) ∧
    ((∀ x ∈ s.sync.waits, x.counter ≠ k) → (s.counter k).value < n →
      exec (.syncWait c p) s = .next { b.1 with sync := { s.sync with waits := s.sync.waits ++ [w] } })) ∧
  (∀ (s : State) (t c : Nat) (r : CmdRef) (w : Wait), s.sync.waits = [w] → w.who = .cmd r → r.ctx = c →
    ((s.advance t).deadlineDue r.deadline = true → exec (.syncWaitTimeout t c r.tag) s = .next (State.complete { s.advance t with
      sync := { s.sync with waits := [], timeoutCnt := satInc s.sync.timeoutCnt } } r stTimeout [])) ∧
    ((s.advance t).deadlineDue r.deadline = false → exec (.syncWaitTimeout t c r.tag) s = .next (s.advance t))) ∧
  (∀ (s : State) (t pkg part k n : Nat), s.powered = true →
    let z := (s.advance t).expireWaits k
    let x := z.counter k
    (x.state = .live → x.value + n ≤ 2 ^ 31 - 1 → exec (.rolinkCounterSignal t pkg part k n) s =
      .next ((z.setCounter k { x with value := x.value + n }).grants k)) ∧
    (x.state = .live → 2 ^ 31 - 1 < x.value + n → exec (.rolinkCounterSignal t pkg part k n) s =
      .next ((z.setCounter k { x with value := 2 ^ 31 - 1 }).grants k)) ∧
    (x.state ≠ .live → exec (.rolinkCounterSignal t pkg part k n) s = .next z) ∧
    ((∀ w ∈ s.sync.waits, (s.advance t).waitLate k w = false) → z = s.advance t))

/-- The commands on counters, waits and remote signals. -/
def Obligations.CountersAndWaits : Prop :=
  Claims.CounterCommands ∧ Claims.WaitsAndSignals

/-- The oldest reply of a context is written where its ring has room: 32 bytes at RPL_PI, then RPL_PI; the context's vector is raised
once for a reply with IRQ. A full ring keeps it, and a failed write puts the context into ERROR. -/
def Claims.ReplyWrites : Prop :=
  ∀ (s : State) (t c : Nat) (ci : Word) (r : Reply) (rest : List Reply), s.powered = true → (s.ctx c).replies = r :: rest →
    (s.ctx c).state ≠ .detached →
    let x := s.ctx c
    ((s.hostDead = false ∨ firmwareFunc x.func = true) → (x.rplPi - ci).toNat < 2 ^ x.rplLog2 → ∃ u : State,
      exec (.replyWrite t c ci true) s = .next u ∧ (u.ctx c).replies = rest ∧ (u.ctx c).rplPi = x.rplPi + 1 ∧
      (let m := ((s.advance t).writeFunc x.func (x.rplRing + x.rplPi.toNat % 2 ^ x.rplLog2 * 32) r.bytes).writeFunc x.func (x.rcb + 8)
          (leBytes (x.rplPi + 1).toNat 4)
       u.hostMem = m.hostMem ∧ u.hubMem = m.hubMem) ∧
      ((r.irq = false ∨ firmwareFunc x.func = true) → u.cmd.msix = s.cmd.msix) ∧
      (r.irq = true → firmwareFunc x.func = false →
        tblGet 0 u.cmd.msix (x.func * 4096 + x.vector) = tblGet 0 s.cmd.msix (x.func * 4096 + x.vector) + 1) ∧
      u = { s.advance t with cmd := u.cmd, hostMem := u.hostMem, hubMem := u.hubMem }) ∧
    ((s.hostDead = false ∨ firmwareFunc x.func = true) → 2 ^ x.rplLog2 ≤ (x.rplPi - ci).toNat →
      exec (.replyWrite t c ci true) s = .next (s.advance t)) ∧
    (∀ ok, ok = false ∨ (s.hostDead = true ∧ firmwareFunc x.func = false) →
      exec (.replyWrite t c ci ok) s = .next ((s.advance t).ctxError c 3)) ∧ r.bytes.length = 32

/-- A queued command that has waited too long is answered BUSY unless it stands in the control queue, one whose deadline is due TIMEOUT.
A load window doubles the decimation under load, to 16 at most, and halves it without. A context in ATTACHED or SUSPENDED that fails
enters ERROR with its cause and one reply of tag 0xFFFF_FFFF. -/
def Claims.QueueEvents : Prop :=
  (∀ (s : State) (t c : Nat) (tag : Word),
    let old := fun q : Queued => q.cmd.ctx == c && q.cmd.tag == tag && (s.advance t).aged q
    (∀ q, s.cmd.queue.find? old = some q → exec (.busyAgeExpire t c tag) s =
      .next (State.complete { s.advance t with cmd := { s.cmd with queue := s.cmd.queue.erase q } } q.cmd stBusy [])) ∧
    (s.cmd.queue.find? old = none → exec (.busyAgeExpire t c tag) s = .next (s.advance t)) ∧
    (∀ q, (s.advance t).aged q = true ↔ q.control = false ∧ q.fetchedT + (s.partCfg q.part).busyAgeNs / 2 < max s.time.cnt t)) ∧
  (∀ (s : State) (t : Nat) (q : Queued), s.cmd.queue = [q] →
    ((s.advance t).deadlineDue q.cmd.deadline = true → exec (.commandDeadlineExpire t q.cmd.ctx q.cmd.tag) s =
      .next (State.complete { s.advance t with cmd := { s.cmd with queue := [] } } q.cmd stTimeout [])) ∧
    ((s.advance t).deadlineDue q.cmd.deadline = false →
      exec (.commandDeadlineExpire t q.cmd.ctx q.cmd.tag) s = .next (s.advance t))) ∧
  (∀ (s : State) (t load : Nat), s.powered = true → ∃ u : State, exec (.loadWindow t load) s = .next u ∧ u.cmd.load = min load 100 ∧
    (90 < load → u.cmd.decim = min 4 (s.cmd.decim + 1)) ∧
    (s.cmd.queue = [] → load < 60 → (∀ k ∈ queueKeys, 0 < s.qmax k.1 k.2) → u.cmd.decim = s.cmd.decim - 1) ∧
    (s.cmd.queue = [] → 60 ≤ load → load ≤ 90 → u.cmd.decim = s.cmd.decim) ∧
    u = { s.advance t with cmd := { s.cmd with load := u.cmd.load, qfill := u.cmd.qfill, decim := u.cmd.decim } }) ∧
  (∀ (s : State) (c cause : Nat), ((s.ctx c).state = .attached ∨ (s.ctx c).state = .suspended) →
    ((s.ctxError c cause).ctx c).state = .error ∧ ((s.ctxError c cause).ctx c).err = cause ∧
    (∃ y, ((s.ctxError c cause).ctx c).replies = (s.ctx c).replies ++ [y] ∧ y.tag = 0xFFFFFFFF ∧
      y.status = (if cause = 1 then stBadParam else stEcc) ∧ y.aux = BitVec.ofNat 16 cause) ∧ SameButCmd s (s.ctxError c cause))

/-- A FETCH entry reads what its slot brings: a producer index ahead of the consumer index by more than the ring is a RING error, one
that cannot be read a HOST_READ error; a packet that passes its checks is queued, one that does not is answered, and one that finds
its pending queue full is answered BUSY. -/
def Claims.CommandFetch : Prop :=
  (∀ (s : State) (t d e : Nat) (en : Entry) (reads : List CtxRead) (rings : List RingRead), (s.advance t).fires d e 5 = some en →
    (s.advance t).startedOf d e = none → ∃ u : State, exec (.fetch t d e reads rings) s = .next u ∧ e ∈ (u.dom d).fired ∧
      u.image = s.image ∧ u.safe = s.safe ∧
      (en.wdMin = 0 → en.wdMax = 0 → u = ((s.advance t).markFired d e).fetchSlot en.target reads rings ∧ u.sched.started = s.sched.started) ∧
      (en.wdMax ≠ 0 → u.sched.started.length = s.sched.started.length + 1)) ∧
  (∀ (s : State) (per left : Nat) (r : CtxRead), s.ctxDead r.c = true → s.serveCtx per left r = (s.ctxError r.c 2, left)) ∧
  (∀ (s : State) (per left : Nat) (r : CtxRead), firmwareFunc (s.ctx r.c).func = true ∨ s.hostDead = false →
    (r.cmdPi = none → s.serveCtx per left r = (s.ctxError r.c 2, left)) ∧
    (∀ pi, r.cmdPi = some pi → 2 ^ (s.ctx r.c).cmdLog2 < (pi - (s.ctx r.c).cmdCi).toNat → s.serveCtx per left r = (s.ctxError r.c 1, left))) ∧
  (∀ (s : State) (c : Nat) (p : Packet),
    let f := s.fetchOne c p (s.fetchClass c p)
    let free := s.queueLen (s.ctx c).part (s.fetchClass c p) < s.qmax (s.ctx c).part (s.fetchClass c p)
    (∀ st, s.headerCheck p = some st → s.fetchPacket c p = f.1.complete f.2 st []) ∧
    (s.headerCheck p = none → f.1.startCheck p (f.1.fetchCheck c p) = none →
      ((controlFamily p.opcode.toNat = true ∨ free) → ∃ q, (s.fetchPacket c p).cmd.queue = s.cmd.queue ++ [q] ∧ q.packet = p ∧
        q.cmd = f.2 ∧ q.control = controlFamily p.opcode.toNat ∧ q.fetchedT = s.time.cnt) ∧
      (controlFamily p.opcode.toNat = false → ¬ free → s.fetchPacket c p = f.1.complete f.2 stBusy [])))

/-- Replies, queued commands and command-fetch slots. -/
def Obligations.CommandQueues : Prop :=
  Claims.ReplyWrites ∧ Claims.QueueEvents ∧ Claims.CommandFetch

/-- IMG_LOAD is accepted once both dies are up, and before that held with what its read brought; the held command is accepted as both
are; LOADING is set from then until its reply. -/
def Claims.ImageLoads : Prop :=
  ∀ (s : State) (t c : Nat) (p : Packet) (img : Option Image),
    (s.Starts c p 0x0201 → chkImgLoad s c = none → s.mayLoad = true → ∃ (u : State) (q : Queued), exec (.imgLoad c p img) s = .next u ∧
      u.cmd.loadCmd = some q ∧ q.img = some img ∧ q.cmd = (s.begin_ c p (s.ctx c).cls).2 ∧ u.glob = { s.glob with loading := true } ∧
      u.cmd.loadT = some s.time.cnt ∧ u.image = s.image) ∧
    (s.Starts c p 0x0201 → chkImgLoad s c = none → s.mayLoad = false → s.headOf c = none → ∃ (u : State) (q : Queued),
      exec (.imgLoad c p img) s = .next u ∧ u.cmd.queue = s.cmd.queue ++ [q] ∧ q.img = some img ∧ q.packet = p ∧ u.glob = s.glob ∧
      SameButCmd s u) ∧
    (∀ q i, s.powered = true → s.headOf 0 = some q → q.img = some i → s.mayLoad = true → (s.ctx 0).state = .attached →
      s.fenceOk 0 q.cmd.uid q.packet = true →
      (s.advance t).startCheck q.packet (chkImgLoad s 0) = none → exec (.imgLoadAccept t) s = .next (State.acceptLoad { s.advance t with
        cmd := { s.cmd with queue := s.cmd.queue.erase q } } q)) ∧
    (s.mayLoad = false → exec (.imgLoadAccept t) s = .next (s.advance t))

/-- A load ends with the first of its checks that fails, and then changes nothing but LOADING and the reply; an image that passes is
loaded: the pins are armed, no partition is in safe state, nor is the package but for a Reset event or one that has arisen during the
load, the cap that waits takes effect, no sequence or wait is left, and every
register of the image's blocks is as it says. A read of the image that failed ends the load with ECC_UNCORRECTABLE. -/
def Claims.ImageInstalls : Prop :=
  ∀ (s : State) (t : Nat) (q : Queued), s.powered = true → s.cmd.loadCmd = some q → s.pwr.lpddrInit = false →
    let z := { s.advance t with glob := { s.glob with loading := false }, cmd := { s.cmd with loadCmd := none, loadT := none } }
    (∀ i st, q.img = some (some i) → z.loadCheck i = some st → st ≠ stSigFail →
      exec (.imgLoadComplete t) s = .next (z.complete q.cmd st [])) ∧
    (∀ i, q.img = some (some i) → z.loadCheck i = some stSigFail → exec (.imgLoadComplete t) s =
      .next (State.complete { z with sec := { s.sec with sigfailCnt := satInc s.sec.sigfailCnt } } q.cmd stSigFail [])) ∧
    (∀ i, q.img = some (some i) → z.verifyStatus i.env [0x10, 0x11] = none → i.packages ≠ s.systemPackages →
      exec (.imgLoadComplete t) s = .next (z.complete q.cmd stNoFit [])) ∧
    (∀ i, q.img = some (some i) → z.loadCheck i = none → ∃ u : State, exec (.imgLoadComplete t) s =
        .next (u.complete q.cmd stOk [w32 i.regions, w32 i.parts.length]) ∧
      u.image = some (imgPlaced i) ∧ u.glob.pkgCount = BitVec.ofNat 3 (i.packages - 1) ∧
      u.glob.pkgId = BitVec.ofNat 3 ((s.sec.mram.system.findIdx? fun d => d == devidHash).getD 0) ∧ u.glob.imageLoaded = true ∧ u.glob.loading = false ∧ u.safe.armed = true ∧ u.safe.parts = 0 ∧
      (s.loadEvents = [] → u.safe.package = s.safe.latched) ∧ (s.loadEvents ≠ [] → u.safe.package = true) ∧ u.cmd.loadT = none ∧
      u.safe.outA = u.pinLevel ∧ u.safe.outB = u.pinLevel ∧ u.pwr.cap = s.pwr.capNext.getD s.pwr.cap ∧
      u.srv.ents = [] ∧ u.sync.waits = [] ∧ u.lnk.rolFault = 0 ∧ u.sec.mram = s.sec.mram ∧
      u.sec.running = s.sec.running ∧ u.runningSvn i.env.svnIndex = some i.env.svn.toNat) ∧
    (q.img = some none → exec (.imgLoadComplete t) s = .next (z.complete q.cmd stEcc []))

/-- An image is loaded, or refused without another effect. -/
def Obligations.ImageLoads : Prop :=
  Claims.ImageLoads ∧ Claims.ImageInstalls

/-- IMG_UNLOAD leaves no image: every context but 0 is DETACHED, every counter FREE, D1 to D7 IDLE and D0 on the built-in table, and no
slot, sequence or solver problem remains; of the streams only the image's, which leave at the next stream-step boundary. With no image loaded it changes nothing. IMG_QUERY gives the image's identifier and
size, zeros without one. -/
def Obligations.ImageUnloads : Prop :=
  ∀ (s : State) (c : Nat) (p : Packet),
    let b := s.begin_ c p (s.ctx c).cls
    (s.Starts c p 0x0202 → chkImgUnload s c = none → s.glob.imageLoaded = true → ∃ u : State,
      exec (.imgUnload c p) s = .next (u.complete b.2 stOk []) ∧ u.image = none ∧ u.glob.imageLoaded = false ∧
      (∀ k, 1 ≤ k → k < 64 → (u.ctx k).state = .detached) ∧ (∀ k, (u.counter k).state = .free) ∧ u.sync.waits = [] ∧
      (u.dom 0).state = .run ∧ (u.dom 0).active.period = 20000 ∧ u.sched.builtin = true ∧ (∀ d, 1 ≤ d → (u.dom d).state = .idle) ∧
      u.cte.loops = [] ∧ u.srv.ents = [] ∧ (∀ k, (u.stream k).valid = true → (u.stream k).image = true ∧ (u.stream k).dropped = true) ∧
      u.slv.probs = [] ∧ u.time.cnt = s.time.cnt ∧ u.sec.mram = s.sec.mram) ∧
    (s.Starts c p 0x0202 → chkImgUnload s c = none → s.glob.imageLoaded = false →
      exec (.imgUnload c p) s = .next (b.1.complete b.2 stOk [])) ∧
    (s.Starts c p 0x0203 → chkImgQuery c = none →
      (s.image = none → exec (.imgQuery c p) s = .next (b.1.complete b.2 stOk [0, 0, 0, 0])) ∧
      (∀ i, s.image = some i → exec (.imgQuery c p) s = .next (b.1.complete b.2 stOk
        [w32 i.ident.toNat, w32 (i.ident.toNat / 2 ^ 32), w32 i.regions, w32 i.packages])))

/-- The monitors raise their events: channel B without an alive signal and a disagreement of the channels fault the supervisor, which
latches the package, drops both pins and holds HEARTBEAT low; a scheduler fault, a clock, a rail outside its window and a temperature
above +115 °C raise theirs, and a rail inside its window or a temperature below raises none. -/
def Claims.MonitorEvents : Prop :=
  ∀ (s : State) (t : Nat), s.powered = true →
    (s.PinsOk → s.reactLevel 0x17 = 2 → ∀ i, i = Instr.aliveTimeout t ∨ i = Instr.channelDisagree t → ∃ u : State, exec i s = .next u ∧
      u.safe.package = true ∧ u.safe.latched = true ∧ u.safe.outA = false ∧ u.safe.outB = false ∧ u.safe.hbRun = false ∧
      u.safe.heartbeat = false ∧ u.safe.logCount = s.safe.logCount + 1 ∧
      u = { s.advance t with safe := u.safe, cte := u.cte, eths := u.eths, records := u.records }) ∧
    exec (.schedFault t) s = .next ((s.advance t).raise 0x11 0xFF 0) ∧
    (∀ k ∈ [(ClockId.xtal, 0), (.refclk100, 1), (.hubPll, 2), (.diePll, 3), (.serdesPll, 4)],
      exec (.clockMonitorTrip t k.1 false) s = .next ((s.advance t).raise 0x12 0xFF k.2) ∧
      ∃ u : State, exec (.clockMonitorTrip t k.1 true) s = .next u ∧ u.safe.logCount = s.safe.logCount + 1 ∧
        u.pwr = { s.pwr with clkHub := s.pwr.clkHub && decide (k.2 ≠ 2), clkDie := s.pwr.clkDie && decide (k.2 ≠ 3),
                             clkSerdes := s.pwr.clkSerdes && decide (k.2 ≠ 4) }) ∧
    (∀ rail mv, (mv * 100 < (s.railWindow rail).1 ∨ (s.railWindow rail).2 < mv * 100) →
      exec (.voltageMonitorTrip t rail mv) s = .next ((s.advance t).raise 0x13 0xFF rail)) ∧
    (∀ rail mv, (s.railWindow rail).1 ≤ mv * 100 → mv * 100 ≤ (s.railWindow rail).2 →
      exec (.voltageMonitorTrip t rail mv) s = .next (s.advance t)) ∧
    (∀ sensor (tj : Int), 115 * 16 < tj → exec (.temperatureTrip t sensor tj) s = .next ((s.advance t).raise 0x14 0xFF sensor)) ∧
    (∀ sensor (tj : Int), tj ≤ 115 * 16 → exec (.temperatureTrip t sensor tj) s = .next (s.advance t))

/-- SAFE_IN low raises its event once an image has been loaded that enables the pin; before that it does nothing but show its level, and in
SAFE_HOLD it is logged only. HEARTBEAT changes level from HUB_READY on, not in SAFE_HOLD and not after a supervisor fault. -/
def Claims.SafetyPins : Prop :=
  ∀ (s : State) (t : Nat), s.powered = true →
    let z := { s.advance t with safe := { s.safe with safeIn := false } }
    (s.glob.safeHold = true → exec (.safeInLow t) s = .next (z.logEvent 0x15 2 0xFF 0)) ∧
    (s.glob.safeHold = false → s.safe.armed = true → s.safe.safeInEn = true → exec (.safeInLow t) s = .next (z.raise 0x15 0xFF 0)) ∧
    (s.glob.safeHold = false → (s.safe.armed = false ∨ s.safe.safeInEn = false) → exec (.safeInLow t) s = .next z) ∧
    (s.safe.hbRun = true → s.glob.hubReady = true → s.glob.safeHold = false → exec (.heartbeatToggle t) s =
      .next { s.advance t with safe := { s.safe with heartbeat := !s.safe.heartbeat } }) ∧
    ((s.safe.hbRun = false ∨ s.glob.hubReady = false ∨ s.glob.safeHold = true) → exec (.heartbeatToggle t) s = .next (s.advance t))

/-- Monitors, SAFE_IN and HEARTBEAT. -/
def Obligations.SafetyMonitors : Prop :=
  Claims.MonitorEvents ∧ Claims.SafetyPins

/-- A SELFTEST entry starts the next slice of its region, or abandons it where a step would pass the guard; a slice that passes moves
the pointer on and stamps the slice; one that fails is counted and raises SELFTEST_FAIL; a region whose oldest slice is older than
100 ms raises DIAG_LATE, once. -/
def Claims.SelfTests : Prop :=
  (∀ (s : State) (t d e : Nat) (en : Entry), (s.advance t).fires d e 8 = some en → s.entryDrained d en = false →
    (s.startedOf d e = none → ∃ u : State, exec (.selftest t d e false) s = .next u ∧
      u.selfTest en.target = { s.selfTest en.target with running := true } ∧ (∀ l, l ≠ en.target → u.selfTest l = s.selfTest l) ∧
      e ∈ (u.dom d).fired ∧ u.sched.started.length = s.sched.started.length + 1 ∧
      u = { s.advance t with time := u.time, safe := u.safe, sched := u.sched }) ∧
    ∃ u : State, exec (.selftest t d e true) s = .next u ∧ u.safe = { s.safe with stAbandon := satInc s.safe.stAbandon } ∧
      u.sched = s.sched) ∧
  (∀ (s : State) (t d e : Nat) (w : Started), s.powered = true → s.startedOf d e = some w → w.entry.action = 8 →
    (s.selfTest w.entry.target).running = true →
    let l := w.entry.target
    let x := s.selfTest l
    (x.next < x.passed.length → ∃ u : State, exec (.selftestSliceEnd t d e true) s = .next u ∧ (u.selfTest l).running = false ∧
      (u.selfTest l).next = (x.next + 1) % 40 ∧ (u.selfTest l).passed = x.passed.set x.next (max s.time.cnt t) ∧
      u.safe.stFail = s.safe.stFail ∧ (∀ j, j ≠ l → u.selfTest j = s.selfTest j)) ∧
    ∃ u : State, exec (.selftestSliceEnd t d e false) s = .next u ∧ (u.selfTest l).running = false ∧ (u.selfTest l).next = x.next ∧
      u.safe.stFail = satInc s.safe.stFail ∧ s.safe.logCount < u.safe.logCount) ∧
  (∀ (s : State) (t l p : Nat), s.powered = true → s.glob.imageLoaded = true → s.partOf l = some p → (s.physOf l).isSome = true →
    maskBit s.pwr.drained p = false → (s.advance t).covered l = false →
    ((s.selfTest l).late = false → ∃ u : State, exec (.coverLoss t l) s = .next u ∧ (u.selfTest l).late = true ∧
      u.safe.diagLate = satInc s.safe.diagLate ∧ u.safe.logCount = s.safe.logCount + 1) ∧
    ((s.selfTest l).late = true → exec (.coverLoss t l) s = .next (s.advance t)))

/-- A GOLDEN entry starts its chain. Its result is compared by CRC-64: a mismatch is counted and raises GOLDEN_FAIL, a passing run meets
the release condition of an earlier failure in the partition. -/
def Claims.GoldenFrames : Prop :=
  (∀ (s : State) (t d e : Nat) (en : Entry), (s.advance t).fires d e 7 = some en → s.entryDrained d en = false →
    s.startedOf d e = none → ∃ u : State, exec (.golden t d e) s = .next u ∧ e ∈ (u.dom d).fired ∧ u.safe = s.safe ∧
      u.sched.started = s.sched.started ++ [{ d := d, pool := (s.dom d).active.base + e, index := e, entry := en, firedT := max s.time.cnt t }] ∧
      u = { s.advance t with time := u.time, sched := u.sched }) ∧
  (∀ (s : State) (t d e : Nat) (w : Started) (img : Image) (g : GoldenCfg) (bs : List Byte), s.powered = true →
    s.startedOf d e = some w → s.image = some img → w.entry.action = 7 →
    img.safety.golden.find? (fun g => g.index == w.entry.target) = some g →
    let z := (s.advance t).completeEntry w stOk
    (g.crc = crc64 bs → exec (.goldenCompare t d e bs) s = .next (State.meetCondIn { z with safe := { z.safe with
      gfRun := satInc z.safe.gfRun } } w.entry.part 0x0C)) ∧
    (g.crc ≠ crc64 bs → exec (.goldenCompare t d e bs) s = .next (State.raise { z with safe := { z.safe with
      gfRun := satInc z.safe.gfRun, gfFail := satInc z.safe.gfFail } } 0x0C w.entry.part w.entry.target)))

/-- Self-test slices, their coverage, and golden frames. -/
def Obligations.SelfTestAndGolden : Prop :=
  Claims.SelfTests ∧ Claims.GoldenFrames

/-- SAFE_QUERY gives the status, the partitions and the cause. SAFE_ENTER raises HOST_REQUEST in a partition or for the package.
SAFE_RELEASE is refused while a release condition is not met or where an event of its scope falls in its cycle, and otherwise its scope alone leaves safe state and the pins follow.
SAFE_LOG_READ writes records of 16 bytes, zeros for what is not kept or not the sender's, and gives the newest index. The log keeps
256 records, the newest in place of the oldest, those of one cycle in the order of their codes. -/
def Obligations.SafetyCommands : Prop :=
  ∀ (s : State) (c : Nat) (p : Packet),
    let b := s.begin_ c p (s.ctx c).cls
    let z := fun h : Bool => { b.1 with safe := { s.safe with safeIn := h } }
    (s.Starts c p 0x0901 → exec (.safeQuery c p) s = .next (b.1.complete b.2 stOk [s.safeStatus, s.safePartState, s.safe.cause])) ∧
    (s.Starts c p 0x0902 → chkSafeScope s c p = none → u8 p 16 = 1 →
      exec (.safeEnter c p) s = .next ((b.1.raiseAt 0x20 0xFF c 2).complete b.2 stOk [])) ∧
    (s.Starts c p 0x0902 → chkSafeScope s c p = none → u8 p 16 ≠ 1 →
      exec (.safeEnter c p) s = .next ((b.1.raiseAt 0x20 (u8 p 17) c 1).complete b.2 stOk [])) ∧
    (∀ h, s.Starts c p 0x0903 → chkSafeScope s c p = none → u8 p 16 = 1 →
      ((z h).packageHeld = true ∨ s.eventNow 8 = true → exec (.safeRelease c p h) s = .next ((z h).complete b.2 stSafe [])) ∧
      ((z h).packageHeld = false → s.eventNow 8 = false → ∃ u : State, exec (.safeRelease c p h) s = .next (u.complete b.2 stOk []) ∧ u.safe.package = false ∧
        u.safe.parts = s.safe.parts ∧ u.safe.outA = u.pinLevel ∧ u.safe.outB = u.pinLevel ∧ tblGet [] u.safe.events 8 = [] ∧
        (∀ k, k ≠ 8 → tblGet [] u.safe.events k = tblGet [] s.safe.events k) ∧ u = { b.1 with safe := u.safe })) ∧
    (∀ h, s.Starts c p 0x0903 → chkSafeScope s c p = none → u8 p 16 ≠ 1 →
      ((z h).partHeld (u8 p 17) = true ∨ s.eventNow (u8 p 17) = true → exec (.safeRelease c p h) s = .next ((z h).complete b.2 stSafe [])) ∧
      ((z h).partHeld (u8 p 17) = false → s.eventNow (u8 p 17) = false → ∃ u : State, exec (.safeRelease c p h) s = .next (u.complete b.2 stOk []) ∧
        maskBit u.safe.parts (u8 p 17) = false ∧ (∀ k, k ≠ u8 p 17 → maskBit u.safe.parts k = maskBit s.safe.parts k) ∧
        u.safe.package = s.safe.package ∧ u.safe.outA = u.pinLevel ∧ u.safe.outB = u.pinLevel ∧ u = { b.1 with safe := u.safe })) ∧
    (s.Starts c p 0x0904 → chkSafeLogRead p = none → ∃ bs : List Byte, exec (.safeLogRead c p) s =
        .next ((b.1.writeFunc (s.ctx c).func (u64 p 24) bs).complete b.2 stOk [w32 ((s.safe.logCount - 1) % 65536)]) ∧
      bs.length = 16 * u16 p 18 ∧
      (∀ k r, k < u16 p 18 → s.logAt (u16 p 16 + k) = some r → (c = 0 ∨ r.part = (s.ctx c).part) → bytesAt bs (16 * k) 16 = r.bytes) ∧
      (∀ k r, k < u16 p 18 → s.logAt (u16 p 16 + k) = some r → c ≠ 0 → r.part ≠ (s.ctx c).part →
        bytesAt bs (16 * k) 16 = List.replicate 16 0) ∧
      (∀ k, k < u16 p 18 → s.logAt (u16 p 16 + k) = none → bytesAt bs (16 * k) 16 = List.replicate 16 0)) ∧
    (∀ r : LogRec, r.bytes.length = 16 ∧ leField r.bytes 0 1 = r.code % 256 ∧ leField r.bytes 1 1 = r.level % 256 ∧
      leField r.bytes 2 1 = r.part % 256 ∧ leField r.bytes 4 4 = r.detail % 2 ^ 32 ∧ leField r.bytes 8 8 = r.time % 2 ^ 64) ∧
    (∀ code level part detail x y, s.safe.log = x ++ y → (∀ q ∈ x, q.time / 2 ≠ s.time.cnt / 2 ∨ q.code ≤ code) →
      (∀ q ∈ y, q.time / 2 = s.time.cnt / 2 ∧ code < q.code) → (s.logEvent code level part detail).safe.log =
        (x ++ [(⟨code, level, part, detail, s.time.cnt⟩ : LogRec)] ++ y).drop (s.safe.log.length + 1 - 256))

/-- A zeroisation writes ZREC, ends every wrapped key, moves the epoch on unless the part is scrapped, and leaves no byte in
scratchpad, tile-core or hub memory; one that runs goes on. Its end empties LPDDR, opens the debug port of a part that is not scrapped, makes two
more log entries and replies to the command that waits. -/
def Claims.Zeroisation : Prop :=
  (∀ (s : State) (cmd : Option (CmdRef × List Word)) (d : Digest),
    (s.sec.mram.zrec = none →
      let u := s.beginZero cmd d
      u.cmp = { s.cmp with sp := [], spPoison := [], regions := u.cmp.regions } ∧ (∀ k, u.region k = { s.region k with tiles := [] }) ∧
      u.hubMem = [] ∧
      (∀ x ∈ u.slv.probs, (∀ v ∈ x.2.active, v = 0) ∧ (∀ v ∈ x.2.store, v = 0) ∧ (∀ v ∈ x.2.front, v = 0) ∧ ∀ v ∈ x.2.back, v = 0) ∧
      u.sec = { s.sec with zcmd := cmd, zcause := some d, mram := { s.sec.mram with
        epoch := (if s.sec.mram.lifecycle = 4 then s.sec.mram.epoch else (s.sec.mram.epoch + 1) % 2 ^ 32), wrapped := [],
        zrec := some (s.sec.mram.epoch + 1, 3) } } ∧
      u = { s with cmp := u.cmp, hubMem := [], slv := u.slv, sec := u.sec }) ∧
    (s.sec.mram.zrec.isSome = true → s.beginZero cmd d = s)) ∧
  (∀ (s : State) (t : Nat), s.powered = true → s.sec.mram.zrec.isSome = true → s.lnk.lpTrained = true → s.sec.log.length ≤ 1024 →
    ∃ u : State, (s.sec.zcmd = none → exec (.zeroisationComplete t) s = .next u) ∧
      (∀ r res, s.sec.zcmd = some (r, res) → exec (.zeroisationComplete t) s = .next (u.complete r stOk res)) ∧
      u.cmp = { s.cmp with lp := [], lpPoison := [] } ∧ u.pwr.lpddrInit = false ∧ u.sec.zcmd = none ∧ u.cmd = s.cmd ∧
      (s.sec.mram.lifecycle = 4 → u.sec.mram = { s.sec.mram with zrec := none } ∧ u.sec.log = s.sec.log) ∧
      (s.sec.mram.lifecycle ≠ 4 → u.sec.mram = { s.sec.mram with lifecycle := 3, debugOpen := true, zrec := none } ∧
        u.sec.log.length = min 1024 (s.sec.log.length + 2)))

/-- A tamper trip raises its event, is recorded with the lifecycle, and has the response of its sensor: a zeroisation where the policy
says so in PROVISIONED and FIELD, a part reset otherwise. A scrapped part ignores its sensors, and sensor 5 trips after 64 failed
reseeds. A reseed is due after 2^20 requests or while the DRBG is stopped; a nonce lapses after 60 s. -/
def Claims.TamperAndEntropy : Prop :=
  (∀ (s : State) (t sensor : Nat), s.powered = true → sensor ≤ 5 → s.sec.mram.lifecycle ≠ 4 → (sensor = 5 → 64 ≤ s.sec.fails) →
    let zero := maskBit s.sec.mram.policy sensor && !(s.sec.mram.lifecycle == 0 || s.sec.mram.lifecycle == 3)
    ∃ w : State, exec (.tamperTrip t sensor) s = .next (if zero then w.beginZero none (Config.sha3 [BitVec.ofNat 8 sensor]) else w.reboot) ∧
      w.sec.mram = { s.sec.mram with
        trips := (s.sec.mram.trips ++ [(⟨sensor, max s.time.cnt t, s.sec.mram.lifecycle⟩ : Trip)]).drop (s.sec.mram.trips.length + 1 - 16),
        tripCnt := satInc s.sec.mram.tripCnt } ∧
      w.sec.tamper = recWrite s.sec.tamper (bitAt zero 8 + sensor) ∧ w.safe.logCount = s.safe.logCount + 1 ∧
      (s.sec.mram.zrec = none → w.reboot.sec.mram = w.sec.mram ∧ w.reboot.image = none ∧ w.reboot.cmd = {} ∧ w.reboot.hubMem = [])) ∧
  (∀ (s : State) (t sensor : Nat), (s.sec.mram.lifecycle = 4 ∨ 5 < sensor ∨ (sensor = 5 ∧ s.sec.fails < 64)) →
    exec (.tamperTrip t sensor) s = .next (s.advance t)) ∧
  (∀ (s : State) (t : Nat), s.powered = true → (s.sec.rngFail = true ∨ 2 ^ 20 ≤ s.sec.reqs) →
    exec (.drbgReseed t true) s = .next { s.advance t with sec := { s.sec with rngFail := false, fails := 0, reqs := 0 } } ∧
    exec (.drbgReseed t false) s = .next { s.advance t with sec := { s.sec with rngFail := true, fails := s.sec.fails + 1 } }) ∧
  (∀ (s : State) (t t0 : Nat) (n : List Byte), s.sec.nonce = some (n, t0) →
    (t0 + 30000000000 ≤ max s.time.cnt t → exec (.nonceLapse t) s = .next { s.advance t with sec := { s.sec with nonce := none } }) ∧
    (max s.time.cnt t < t0 + 30000000000 → exec (.nonceLapse t) s = .next (s.advance t)))

/-- Zeroisation, tamper trips, reseeds and nonces. -/
def Obligations.TamperAndZeroisation : Prop :=
  Claims.Zeroisation ∧ Claims.TamperAndEntropy

/-- The security commands without an authorisation: SEC_QUERY gives the status, the epoch and the identity; SEC_NONCE writes a fresh
nonce of 64 bytes, which alone is outstanding; SEC_ATTEST writes a signed report for the verifier's nonce; SEC_LOG_READ writes entries
of 80 bytes; SEC_SVN_COMMIT never lowers a counter. -/
def Obligations.SecurityQueries : Prop :=
  ∀ (s : State) (c : Nat) (p : Packet),
    let f := (s.ctx c).func
    let b := s.begin_ c p (s.ctx c).cls
    let who := [s.secStatus, w32 s.sec.mram.epoch] ++ leWords (digestBytes devidHash) 3
    (s.Starts c p 0x0A01 → u64 p 24 = 0 → exec (.secQuery c p) s = .next (b.1.complete b.2 stOk who)) ∧
    (s.Starts c p 0x0A01 → u64 p 24 ≠ 0 → exec (.secQuery c p) s = .next ((b.1.writeFunc f (u64 p 24)
      (Config.publicKey 0 ++ Config.publicKey (1 + s.sec.mram.epoch))).complete b.2 stOk who)) ∧
    (s.Starts c p 0x0A02 → chkSecRandom s c = none → ∃ n : List Byte, n.length = 64 ∧ exec (.secNonce c p) s =
      .next ((State.writeFunc { b.1 with free := s.free + 1, sec := { s.sec with reqs := s.sec.reqs + 1, nonce := some (n, s.time.cnt) } }
        f (u64 p 24) n).complete b.2 stOk [])) ∧
    (∀ bs, s.Starts c p 0x0A03 → chkSecAttest s = none → exec (.secAttest c p (.data bs)) s = .next ((State.writeFunc { b.1 with
        free := s.free + 1, sec := { s.sec with reqs := s.sec.reqs + 1 } } f (u64 p 32) (s.report (bytesAt bs 0 64))).complete b.2 stOk
      [w32 (s.report (bytesAt bs 0 64)).length])) ∧
    (s.Starts c p 0x0A03 → chkSecAttest s = none → exec (.secAttest c p .failed) s = .next (b.1.complete b.2 stEcc [])) ∧
    (s.Starts c p 0x0A04 → chkSecLogRead s c p = none → ∃ bs : List Byte, exec (.secLogRead c p) s =
      .next ((b.1.writeFunc f (u64 p 24) bs).complete b.2 stOk [w32 s.sec.log.length]) ∧ bs.length = 80 * u16 p 18) ∧
    (∀ a, s.Starts c p 0x0A05 → chkSecSvnCommit s c p = none → ∃ u : State, exec (.secSvnCommit c p a) s =
        .next (u.complete b.2 stOk [w32 (tblGet 0 u.sec.mram.svn (u8 p 16))]) ∧
      tblGet 0 s.sec.mram.svn (u8 p 16) ≤ tblGet 0 u.sec.mram.svn (u8 p 16) ∧
      (∀ v, s.runningSvn (u8 p 16) = some v →
        tblGet 0 u.sec.mram.svn (u8 p 16) = max v (tblGet 0 s.sec.mram.svn (u8 p 16))) ∧
      (∀ k, k ≠ u8 p 16 → tblGet 0 u.sec.mram.svn k = tblGet 0 s.sec.mram.svn k) ∧ u = { b.1 with sec := u.sec, free := u.free })

/-- What a command that carries an authorisation does: SIGNATURE_FAIL, counted, where it does not verify for the outstanding nonce, the
action and the parameters; NOT_AUTHORISED where the signer or the lifecycle state is wrong; otherwise `done`, with the nonce used. -/
def Authorised (o : Host.Outcome State Fault Refusal) (s : State) (b : State × CmdRef) (a : Auth) (action : Nat) (param : Digest)
    (allowed : Bool) (done : State → State) : Prop :=
  (s.authGood a action param = false → o = .next (State.complete { b.1 with sec := { s.sec with
    sigfailCnt := satInc s.sec.sigfailCnt } } b.2 stSigFail [])) ∧
  (s.authGood a action param = true → allowed = false → o = .next (b.1.complete b.2 stNotAuth [])) ∧
  (s.authGood a action param = true → allowed = true → o = .next (done { b.1 with sec := { s.sec with nonce := none } }))

/-- The security commands under an authorisation: enrolling the owner, the lifecycle actions, opening the debug port, the tamper
policy, the import of a key and the system's identities, each with the signer, the state and the parameters that it needs. -/
def Obligations.AuthorisedCommands : Prop :=
  ∀ (s : State) (c : Nat) (p : Packet) (a : Auth),
    let m := s.sec.mram
    let b := s.begin_ c p (s.ctx c).cls
    let act := u8 p 16
    (∀ bs, s.Starts c p 0x0A06 → chkSecCtx s c = none →
      Authorised (exec (.secOwnerEnrol c p a (.data bs)) s) s b a 0x01 0 (m.lifecycle == 1 && m.owner.isNone) fun z =>
        (z.setMram { m with owner := some a.keyHash }).measureOwner.complete b.2 stOk []) ∧
    (s.Starts c p 0x0A07 → chkSecLifecycle s c p = none →
      Authorised (exec (.secLifecycle c p a) s) s b a act 0 (s.lifecycleOk act a) fun z =>
        if act = 0x08 then (State.setMram (z.measureAuth a) { m with lifecycle := 1, epoch := 1, puf := true, debugOpen := false }).complete b.2 stOk [1]
        else if act = 0x02 then (State.setMram (z.measureAuth a) { m with lifecycle := 2 }).complete b.2 stOk [2]
        else if act = 0x04 then
          (State.setMram (z.measureAuth a) { m with lifecycle := 2, debugOpen := false, trips := [], tripCnt := 0 }).complete b.2 stOk [2]
        else (State.setMram (z.measureAuth a) { m with lifecycle := 4, epoch := 0xFFFFFFFF, puf := false, debugOpen := false }).beginZero
          (some (b.2, [4])) (Config.sha3 (digestBytes a.message))) ∧
    (s.Starts c p 0x0A08 → chkSecDebugOpen s c = none →
      Authorised (exec (.secDebugOpen c p a) s) s b a 0x03 0 ((m.lifecycle == 1 && (s.byVendor a || s.byOwner a)) ||
        (m.lifecycle == 2 && (s.byOwner a || (m.debugVendor && s.byVendor a)))) fun z =>
          z.beginZero (some (b.2, [])) (Config.sha3 (digestBytes a.message))) ∧
    (s.Starts c p 0x0A09 → chkSecTamperPolicy s c p = none →
      Authorised (exec (.secTamperPolicy c p a) s) s b a 0x06 (Config.sha3 [BitVec.ofNat 8 act]) (m.lifecycle == 1 && s.byOwner a) fun z =>
        (z.setMram { m with policy := BitVec.ofNat 6 act }).measureOwner.complete b.2 stOk []) ∧
    (∀ bs, s.Starts c p 0x0A0A → chkSecKeyImport s c p = none →
      leField (bytesAt bs 0 1636) 1568 1 = act → leField (bytesAt bs 0 1636) 1569 1 = 1 →
      Authorised (exec (.secKeyImport c p a (.data bs)) s) s b a 0x07 (Config.sha3 (bytesAt bs 0 1636))
        ((m.lifecycle == 1 || m.lifecycle == 2) && s.byOwner a) fun z =>
          match Config.importKey m.epoch (bytesAt bs 0 1636) with
          | none => (z.random 0).2.complete b.2 stDataError []
          | some k => (State.measureAuth (State.setMram (z.random 0).2 { m with wrapped := tblSet [] m.wrapped act k }) a).complete b.2 stOk []) ∧
    (∀ bs, s.Starts c p 0x0A0B → chkSecSystemSet s c p = none →
      Authorised (exec (.secSystemSet c p a (.data bs)) s) s b a 0x06 (Config.sha3 (bytesAt bs 0 (64 * act))) (m.lifecycle == 1 && s.byOwner a) fun z =>
        (z.setMram { m with system := (List.range act).map fun i => BitVec.ofNat 512 (leField (bytesAt bs 0 (64 * act)) (64 * i) 64) }).measureOwner.complete
          b.2 stOk [])

/-- The SPDM requests, which husk firmware answers over the mailbox while the link is up: the negotiation in its order, certificates,
signed measurements, sessions, and the keys of an IDE stream in an established session. A request ahead of the negotiation or in a
session that is not established gets an ERROR response (the model's choice, log entry 26). -/
def Obligations.SpdmRequests : Prop :=
  ∀ (s : State) (q : SpdmReq), s.powered = true → s.sec.huskReady = true → s.lnk.l0 = true →
    let x := s.sec.spdm
    let say := fun (y : Spdm) (k : SpdmKind) (ok : Bool) (d : List Byte) =>
      ({ s with sec := { s.sec with spdm := { y with reply := some ⟨k, ok, d⟩ } } } : State)
    let open_ := ∀ k, q.session = some k → k ∈ x.sessions
    (x.stage < 3 → exec (.challenge q) s = .next (say x .challenge false []) ∧ exec (.getMeasurements q) s = .next (say x .measurements false []) ∧
      exec (.keyExchange q) s = .next (say x .keyExchange false [])) ∧
    (open_ → exec (.getVersion q) s = .next (say { x with stage := 1 } .version true [0x14])) ∧
    (open_ → 1 ≤ x.stage → exec (.getCapabilities q) s = .next (say { x with stage := max 2 x.stage } .capabilities true [])) ∧
    (open_ → 2 ≤ x.stage → q.ok = true → exec (.negotiateAlgorithms q) s = .next (say { x with stage := 3 } .algorithms true [])) ∧
    (open_ → 3 ≤ x.stage →
      exec (.getDigests q) s = .next (say x .digests true (s.flash.certs.flatMap fun e => digestBytes (Config.sha3 e.2))) ∧
      (∀ e ∈ s.flash.certs, e.1 = q.slot → e.1 ≤ 1 → (s.flash.certs.map Prod.fst).Nodup →
        exec (.getCertificate q) s = .next (say x .certificate true ((e.2.drop q.offset).take q.length)) ∧
        exec (.challenge q) s = .next (say x .challenge true (Config.sign 0 (s.report (bytesAt q.nonce 0 32))))) ∧
      exec (.getMeasurements q) s = .next (say x .measurements true ((List.range 16).flatMap fun i => digestBytes (tblGet 0 s.sec.slots i))) ∧
      (s.sec.rngFail = false → q.ok = true → ∃ u : State, exec (.keyExchange q) s = .next u ∧
        u.sec.spdm.handshake = x.handshake ++ [x.next] ∧ u.sec.spdm.next = x.next + 1 ∧ u.sec.spdm.sessions = x.sessions ∧
        u.sec.reqs = s.sec.reqs + 1 ∧ u = { s with free := u.free, sec := u.sec }) ∧
      (s.sec.rngFail = true → exec (.keyExchange q) s = .next (say x .keyExchange false []))) ∧
    (∀ k, q.session = some k →
      (k ∈ x.handshake → q.ok = true → exec (.finish q) s =
        .next (say { x with handshake := x.handshake.erase k, sessions := x.sessions ++ [k] } .finish true [])) ∧
      (k ∈ x.handshake → q.ok = false → exec (.finish q) s = .next (say { x with handshake := x.handshake.erase k } .finish false [])) ∧
      (k ∉ x.handshake → exec (.finish q) s = .next (say x .finish false [])) ∧
      (3 ≤ x.stage → k ∈ x.sessions → exec (.endSession q) s = .next (say { x with sessions := x.sessions.erase k } .endSession true [])) ∧
      (∀ i, 3 ≤ x.stage → k ∈ x.sessions → q.ok = true → ∃ u : State, exec (.ideKm q i) s = .next u ∧
        tblGet .unkeyed u.lnk.ide (ideKey i) = .secure ∧ (∀ j, j ≠ ideKey i → tblGet .unkeyed u.lnk.ide j = tblGet .unkeyed s.lnk.ide j) ∧
        u = { say x .vendorDefined true [] with lnk := u.lnk }) ∧
      (∀ i, k ∉ x.sessions → exec (.ideKm q i) s = .next (say x .vendorDefined false []))) ∧
    (∀ i, q.session = none → exec (.ideKm q i) s = .next (say x .vendorDefined false []))

/-- SRV_DRAIN makes a partition draining and answers its waiting solves BUSY; a drained partition is left as it is. The drain completes
once every region of it is idle: the partition is drained, its watchdog windows are disarmed and every drain of it is replied to. -/
def Obligations.PartitionsDrain : Prop :=
  (∀ (s : State) (c : Nat) (p : Packet) (q : Nat), s.Starts c p 0x0B01 → chkSrvDrain s c p = none → s.drainPart p = some q →
    let b := s.begin_ c p (s.ctx c).cls
    (maskBit s.pwr.drained q = true → exec (.srvDrain c p) s = .next (b.1.complete b.2 stOk [])) ∧
    (maskBit s.pwr.drained q = false → ∃ u : State, exec (.srvDrain c p) s = .next u ∧
      u.pwr = { s.pwr with draining := maskSet s.pwr.draining q, drainCmd := s.pwr.drainCmd ++ [(q, b.2)] } ∧
      (∀ k r, (s.prob k).cmd = some r → (s.prob k).desc.part = q → (s.prob k).run = none → (u.prob k).cmd = none) ∧
      u = { b.1 with pwr := u.pwr, slv := u.slv, cmd := u.cmd })) ∧
  (∀ (s : State) (t q : Nat), s.powered = true → maskBit s.pwr.draining q = true →
    ((s.advance t).partIdle q = true → ∃ u : State, exec (.drainComplete t q) s = .next (List.foldl (fun s r => s.complete r stOk []) u
        ((s.pwr.drainCmd.filter fun e => e.1 == q).map Prod.snd)) ∧
      u.pwr = { s.pwr with draining := maskClear s.pwr.draining q, drained := maskSet s.pwr.drained q,
                           drainCmd := s.pwr.drainCmd.filter fun e => e.1 != q } ∧
      (∀ w ∈ u.sched.started, w.entry.part = q → w.armed = false)) ∧
    ((s.advance t).partIdle q = false → exec (.drainComplete t q) s = .next (s.advance t)))

/-- SRV_REPAIR runs until its tests end. Then what they found, or the tile that was named, is written to MRAM, and the logical region is
rebound to another region that is available and that no logical region holds, or is left unbound; nothing is rebound where nothing
failed, or where the records would not fit. -/
def Claims.Repairs : Prop :=
  (∀ (s : State) (c : Nat) (p : Packet), s.Starts c p 0x0B02 → chkSrvRepair s c p = none →
    let b := s.begin_ c p (s.ctx c).cls
    exec (.srvRepair c p) s = .next { b.1 with pwr := { s.pwr with repairCmd := s.pwr.repairCmd ++ [(b.2, u8 p 16, u8 p 17)] } }) ∧
  (∀ (s : State) (t q l tile : Nat) (r : CmdRef) (f : RepairFound), s.powered = true → s.pwr.repairCmd = [(r, l, tile)] → s.partOf l = some q →
    let z := { s.advance t with pwr := { s.pwr with repairCmd := [] } }
    (s.physOf l = none → exec (.repairComplete t q f) s = .next (z.complete r stOk [0, 0])) ∧
    (∀ k, s.physOf l = some k →
      let recs := repairRecords k tile f
      (8192 < s.sec.mram.repair.length + recs.length → exec (.repairComplete t q f) s = .next (z.complete r stNoFit [])) ∧
      (s.sec.mram.repair.length ≤ 8192 → recs = [] →
        exec (.repairComplete t q f) s = .next ((z.repairMet q l k).complete r stOk [0, s.lmapWord l])) ∧
      (s.sec.mram.repair.length + recs.length ≤ 8192 → recs ≠ [] → ∃ u : State, exec (.repairComplete t q f) s =
          .next (u.complete r stOk [w32 recs.length, u.lmapWord l]) ∧
        u.sec = { s.sec with mram := { s.sec.mram with repair := s.sec.mram.repair ++ recs } } ∧
        (∀ x, u.physOf l = some x → u.available x = true ∧ x ≠ k ∧ ∀ j, j ≠ l → u.physOf j ≠ some x) ∧
        (∀ j, j ≠ l → u.physOf j = s.physOf j))))

/-- SRV_RESUME runs until the reload and the tests end; a store that cannot be read leaves the partition drained, and otherwise it leaves
its drain with no tile core halted. SRV_PART_LOAD refuses by the first of its checks that fails, and else adds its tables to the image
and waits for the resumption. -/
def Claims.Resumptions : Prop :=
  (∀ (s : State) (c : Nat) (p : Packet), s.Starts c p 0x0B03 → chkSrvResume s c p = none →
    let b := s.begin_ c p (s.ctx c).cls
    exec (.srvResume c p) s = .next { b.1 with pwr := { s.pwr with resumeCmd := s.pwr.resumeCmd ++ [(u8 p 16, b.2)] } }) ∧
  (∀ (s : State) (t q : Nat) (r : CmdRef) (fail : List Nat), s.powered = true → s.pwr.resumeCmd = [(q, r)] →
    exec (.resumeComplete t q false fail) s = .next (State.complete { s.advance t with pwr := { s.pwr with resumeCmd := [] } } r stEcc []) ∧
    (s.pwr.partImage = [] → ∃ u : State, exec (.resumeComplete t q true fail) s = .next (u.complete r stOk []) ∧
      maskBit u.pwr.drained q = false ∧ (∀ k, k ≠ q → maskBit u.pwr.drained k = maskBit s.pwr.drained k) ∧
      u.pwr.resumeCmd = [] ∧ u.image = s.image ∧ (∀ k ∈ s.physParts q, (u.region k).halted = 0) ∧ u.sec = s.sec)) ∧
  (∀ (s : State) (c : Nat) (p : Packet) (i j : Image), s.Starts c p 0x0B04 → chkSrvPartLoad s c p = none → s.image = some i →
    let q := u8 p 16
    let b := s.begin_ c p (s.ctx c).cls
    (∀ st, b.1.partCheck i j q = some st → st ≠ stSigFail → exec (.srvPartLoad c p (some j)) s = .next (b.1.complete b.2 st [])) ∧
    (b.1.partCheck i j q = none → ∃ u : State, exec (.srvPartLoad c p (some j)) s = .next (u.complete b.2 stOk []) ∧
      u.image = some (withPartTables i j) ∧ (u.pwr.partImage.find? fun e => e.1 == q) = some (q, j) ∧ u.pwr.drained = s.pwr.drained ∧
      u.sec.mram = s.sec.mram ∧ u.cmp = s.cmp) ∧
    exec (.srvPartLoad c p none) s = .next (b.1.complete b.2 stEcc []))

/-- Repair, resumption and partition images. -/
def Obligations.RepairAndResume : Prop :=
  Claims.Repairs ∧ Claims.Resumptions

/-- New firmware is held once it verifies, takes over with its measurement and the queues as they are, and the reply follows the return.
A flash write puts copy B and copy A in place and the directory in order, or leaves copy A alone where copy B does not read back. -/
def Claims.FirmwareUpdates : Prop :=
  (∀ (s : State) (c : Nat) (p : Packet) (e : Envelope),
    let b := s.begin_ c p (s.ctx c).cls
    (s.Starts c p 0x0B05 → chkSrvFirmware s c = none → s.verifyStatus e [0x01] = none → exec (.srvFwUpdate c p (some e)) s =
      .next { b.1 with pwr := { s.pwr with handover := .loaded, fwCmd := some (b.2, e) } }) ∧
    (s.Starts c p 0x0B05 → chkSrvFirmware s c = none → s.verifyStatus e [0x01] = some stSigFail → exec (.srvFwUpdate c p (some e)) s =
      .next (State.complete { b.1 with sec := { s.sec with sigfailCnt := satInc s.sec.sigfailCnt } } b.2 stSigFail [])) ∧
    (s.Starts c p 0x0B06 → chkSrvFirmware s c = none → s.verifyStatus e [0x01, 0x02, 0x03, 0x04] = none →
      exec (.srvFlashWrite c p (some e)) s = .next { b.1 with pwr := { s.pwr with flashCmd := some (b.2, e) } }) ∧
    (s.Starts c p 0x0B06 → chkSrvFirmware s c = none → exec (.srvFlashWrite c p none) s = .next (b.1.complete b.2 stEcc []))) ∧
  (∀ (s : State) (t : Nat) (r : CmdRef) (e : Envelope), s.powered = true → s.pwr.fwCmd = some (r, e) →
    (s.pwr.handover = .loaded → ∃ u : State, exec (.fwHandoverTakeover t) s = .next u ∧ u.pwr = { s.pwr with handover := .core2 } ∧
      u.cmd = s.cmd ∧ u.sec.running = tblInsert (tblErase s.sec.running 1) 1 (e.svnIndex, e.svn.toNat) ∧
      tblGet 0 u.sec.slots 1 = Config.sha3 (digestBytes (tblGet 0 s.sec.slots 1) ++ digestBytes e.headerDigest) ∧
      (∀ k, k ≠ 1 → tblGet 0 u.sec.slots k = tblGet 0 s.sec.slots k)) ∧
    (s.pwr.handover = .core2 → exec (.fwHandoverReturn t) s = .next (State.complete { s.advance t with
      pwr := { s.pwr with handover := .none, fwCmd := none } } r stOk []))) ∧
  (∀ (s : State) (t : Nat) (r : CmdRef) (e : Envelope), s.powered = true → s.pwr.flashCmd = some (r, e) →
    (∃ u : State, exec (.flashWriteComplete t true) s = .next (u.complete r stOk [2]) ∧ u.flash.dirOk = true ∧ u.pwr.flashCmd = none ∧
      (∀ k x, (u.flash.copies.find? fun y => y.type == e.type.toNat && y.copyB == k) = some x → x.env = e) ∧
      (∀ k ty, ty ≠ e.type.toNat → (u.flash.copies.find? fun y => y.type == ty && y.copyB == k) =
        s.flash.copies.find? fun y => y.type == ty && y.copyB == k)) ∧
    ∃ u : State, exec (.flashWriteComplete t false) s = .next (u.complete r stDataError []) ∧ u.pwr.flashCmd = none ∧
      ∀ ty, (u.flash.copies.find? fun y => y.type == ty && y.copyB == false) =
        s.flash.copies.find? fun y => y.type == ty && y.copyB == false)

/-- SRV_RESET is a part reset, which leaves what MRAM and the board hold and nothing else. PWR_CAP_SET sets the cap, from the next load
on where no image is loaded. SRV_QUERY gives the power state, the service state and the number of repair records. -/
def Claims.ServiceCommands : Prop :=
  ∀ (s : State) (c : Nat) (p : Packet),
    let b := s.begin_ c p (s.ctx c).cls
    (s.Starts c p 0x0B07 → c = 0 → exec (.srvReset c p) s = .next s.reboot ∧ s.reboot.sec.mram = s.sec.mram ∧ s.reboot.image = none ∧
      s.reboot.cmd = {} ∧ s.reboot.time = State.reset.time ∧ s.reboot.hostMem = s.hostMem ∧ s.reboot.flash = s.flash ∧
      s.reboot.pending = s.pending ∧ s.reboot.cmp.sp = []) ∧
    (s.Starts c p 0x0B08 → chkPwrCapSet s c p = none →
      (s.glob.imageLoaded = true → exec (.pwrCapSet c p) s = .next (State.complete { b.1 with pwr := { s.pwr with
        cap := u32 p 20, capNext := none } } b.2 stOk [w32 (u32 p 20)])) ∧
      (s.glob.imageLoaded = false → exec (.pwrCapSet c p) s = .next (State.complete { b.1 with pwr := { s.pwr with
        capNext := some (u32 p 20) } } b.2 stOk [w32 s.pwr.cap]))) ∧
    (s.Starts c p 0x0B09 → exec (.srvQuery c p) s = .next (b.1.complete b.2 stOk [s.pwrStatus, s.pwrSvc, s.repairCnt]))

/-- Firmware, flash and the other service commands. -/
def Obligations.FirmwareAndService : Prop :=
  Claims.FirmwareUpdates ∧ Claims.ServiceCommands

/-- TLM_OPEN takes the lowest closed stream, TLM_CLOSE closes one. A period's end counts one record; it is written behind the producer
index where SEQ is a multiple of the decimation and the ring has room, then the index, and a write that fails puts the context into
ERROR. A record has 64 bytes. -/
def Obligations.TelemetryRecords : Prop :=
  (∀ (s : State) (c : Nat) (p : Packet),
    let b := s.begin_ c p (s.ctx c).cls
    (∀ i, s.Starts c p 0x0C01 → chkTlmOpen s p = none → s.freeTlm = some i → exec (.tlmOpen c p) s = .next ((b.1.setTlm i (some
      { ctx := c, kind := u8 p 16, period := u8 p 17, log2 := u8 p 18, ring := u64 p 24, droop0 := s.droops })).complete b.2 stOk [w32 i])) ∧
    (s.Starts c p 0x0C02 → chkTlmClose s c p = none →
      exec (.tlmClose c p) s = .next ((b.1.setTlm (u8 p 16) none).complete b.2 stOk []))) ∧
  (∀ (s : State) (t i : Nat) (x : Tlm) (m : TlmSamples), s.powered = true → s.tlm i = some x →
    let seq := x.seq + 1
    let y : Tlm := { x with seq := seq, droop0 := s.droops }
    let room := (BitVec.ofNat 16 x.prod - BitVec.ofNat 16 x.cons).toNat < 2 ^ x.log2 - 1
    let f := (s.ctx x.ctx).func
    ((seq.toNat % 2 ^ s.cmd.decim ≠ 0 ∨ ¬ room ∨ s.pwr.handover = .loaded) →
      exec (.telemetryRecord t i m) s = .next ((s.advance t).setTlm i (some y))) ∧
    (seq.toNat % 2 ^ s.cmd.decim = 0 → room → s.pwr.handover ≠ .loaded →
      (m.writeOk = false ∨ (s.hostDead = true ∧ firmwareFunc f = false) → exec (.telemetryRecord t i m) s = .next (((s.advance t).setTlm i (some y)).ctxError x.ctx 3)) ∧
      (m.writeOk = true → (s.hostDead = false ∨ firmwareFunc f = true) → exec (.telemetryRecord t i m) s =
        .next ((((s.advance t).writeFunc f (x.ring + 64 + 64 * (x.prod % 2 ^ x.log2)) ((s.advance t).tlmRecord x m seq)).writeFunc f x.ring
          (leBytes ((x.prod + 1) % 65536) 4)).setTlm i (some { y with prod := (x.prod + 1) % 65536 })))) ∧
    (s.tlmRecord x m seq).length = 64)

/-- The four memories keep their canonical form: addresses strictly rising, no byte listed that reads as 0. -/
def Obligations.MemoriesKeepForm : Prop :=
  ∀ (s u : State), s.MemOk → step s = .next u → u.MemOk

/-- No step drives a safety pin high where it must be low: before the first image load, in SAFE_HOLD, in package safe state and with a
partition of SAFE_PIN_MASK in safe state (R376). -/
def Obligations.PinsStayLow : Prop :=
  ∀ (s u : State), s.PinsOk → step s = .next u → u.PinsOk

/-- The counter never runs back (R250), but for a start or a reset of the part: power-good's edges, RESET_N, SRV_RESET and a tamper
trip. -/
def Obligations.TimeRunsOn : Prop :=
  ∀ (i : Instr) (s u : State), exec i s = .next u → s.time.cnt ≤ u.time.cnt ∨ (∃ f, i = .pwrgoodRise f) ∨ i = .pwrgoodFall ∨
    (∃ n, i = .resetNAssert n) ∨ (∃ c p, i = .srvReset c p) ∨ ∃ t n, i = .tamperTrip t n

/-- What MRAM holds against every step (R402, R404, R406, R408, R439): no SVN counter falls, an enrolled owner stays, no repair record is
lost, the lifecycle state moves only by SEC_LIFECYCLE and at the end of a zeroisation, and a scrapped part stays scrapped. -/
def Obligations.MramRatchets : Prop :=
  ∀ (i : Instr) (s u : State), exec i s = .next u →
    let m := s.sec.mram
    let n := u.sec.mram
    (∀ k, tblGet 0 m.svn k ≤ tblGet 0 n.svn k) ∧ (∀ o, m.owner = some o → n.owner = some o) ∧ m.repair <+: n.repair ∧
    (n.lifecycle ≠ m.lifecycle → (∃ c p a, i = .secLifecycle c p a) ∨ ∃ t, i = .zeroisationComplete t) ∧
    (m.lifecycle = 4 → n.lifecycle = 4)

/-- Bytes and numbers (R11): a number of k little-endian bytes reads back, memory written is read back, and no other byte changes. -/
def Obligations.BytesReadBack : Prop :=
  (∀ n k, leNat (leBytes n k) = n % 2 ^ (8 * k) ∧ (leBytes n k).length = k) ∧
  (∀ (m : Mem) (a : Nat) (bs : List Byte), memRead (memWrite m a bs) a bs.length = bs ∧
    (∀ x, (x < a ∨ a + bs.length ≤ x) → memGet (memWrite m a bs) x = memGet m x) ∧
    (Memory.wf m = true → Memory.wf (memWrite m a bs) = true)) ∧
  (∀ (m : Mem) (a : Nat) (n k : Nat), leNat (memRead (memWrite m a (leBytes n k)) a k) = n % 2 ^ (8 * k))
end

