-- ==== Sys2Proof/Laws/Table.lean ====
section
/-! SUPPORT. The laws of the sparse tables and of memory: a read after a write, the writes that leave a key alone, and the canonical
form, which every operation keeps. -/
namespace Sys2Proof.Machine

variable {α : Type}

@[simp] theorem tblGet_nil (d : α) (n : Nat) : tblGet d [] n = d := rfl

theorem tblGet_tblErase (d : α) (t : Tbl α) (n m : Nat) : tblGet d (tblErase t n) m = if m = n then d else tblGet d t m := by
  induction t with
  | nil => simp [tblErase]
  | cons e t ih =>
    obtain ⟨k, v⟩ := e
    by_cases hk : k = n
    · subst hk
      by_cases hm : m = k
      · subst hm; simpa [tblErase] using ih
      · simp [tblErase, ih, hm, tblGet, Ne.symm hm]
    · by_cases hm : m = n
      · subst hm; simp [tblErase, tblGet, ih, hk]
      · by_cases hkm : k = m <;> simp [tblErase, tblGet, ih, hk, hm, hkm]

theorem tblGet_tblInsert_erased (d : α) (t : Tbl α) (n m : Nat) (v : α) (h : ∀ e ∈ t, e.1 ≠ n) :
    tblGet d (tblInsert t n v) m = if m = n then v else tblGet d t m := by
  induction t with
  | nil => simp [tblInsert, tblGet, eq_comm]
  | cons e t ih =>
    obtain ⟨k, w⟩ := e
    have hk : k ≠ n := h (k, w) (by simp)
    have ih := ih (fun e he => h e (by simp [he]))
    by_cases hlt : n < k
    · by_cases hm : m = n
      · subst hm; simp [tblInsert, tblGet, hlt]
      · simp [tblInsert, tblGet, hlt, hm, Ne.symm hm]
    · by_cases hkm : k = m
      · subst hkm; simp [tblInsert, tblGet, hlt, hk]
      · simp [tblInsert, tblGet, hlt, hkm, ih]

theorem tblErase_keys (t : Tbl α) (n : Nat) : ∀ e ∈ tblErase t n, e.1 ≠ n := by
  induction t with
  | nil => simp [tblErase]
  | cons e t ih =>
    obtain ⟨k, v⟩ := e
    by_cases hk : k = n
    · simpa [tblErase, hk] using ih
    · intro e he
      rcases List.mem_cons.1 (by simpa [tblErase, hk] using he) with rfl | h
      · exact hk
      · exact ih e h

/-- What a key holds after a write of a key. -/
@[simp] theorem tblGet_tblSet [DecidableEq α] (d : α) (t : Tbl α) (n m : Nat) (v : α) :
    tblGet d (tblSet d t n v) m = if m = n then v else tblGet d t m := by
  unfold tblSet
  split
  · rename_i h; subst h; rw [tblGet_tblErase]
  · rw [tblGet_tblInsert_erased _ _ _ _ _ (tblErase_keys t n), tblGet_tblErase]
    split <;> rfl

/-! ## The canonical form -/

theorem tblWfFrom_mono [DecidableEq α] (d : α) (t : Tbl α) (a b : Nat) (h : a ≤ b) (w : tblWfFrom d b t = true) :
    tblWfFrom d a t = true := by
  cases t with
  | nil => rfl
  | cons e t =>
    obtain ⟨k, v⟩ := e
    simp only [tblWfFrom, Bool.and_eq_true, decide_eq_true_eq] at w ⊢
    exact ⟨⟨by omega, w.1.2⟩, w.2⟩

theorem tblErase_wf [DecidableEq α] (d : α) (t : Tbl α) (n lo : Nat) (w : tblWfFrom d lo t = true) :
    tblWfFrom d lo (tblErase t n) = true := by
  induction t generalizing lo with
  | nil => rfl
  | cons e t ih =>
    obtain ⟨k, v⟩ := e
    simp [tblWfFrom] at w
    by_cases hk : k = n
    · simp only [tblErase, hk, if_true]
      exact tblWfFrom_mono d _ _ _ (by omega) (ih (k + 1) w.2)
    · simp [tblErase, hk, tblWfFrom, w.1, ih (k + 1) w.2]

theorem tblInsert_wf [DecidableEq α] (d : α) (t : Tbl α) (n lo : Nat) (v : α) (hv : v ≠ d) (hlo : lo ≤ n)
    (h : ∀ e ∈ t, e.1 ≠ n) (w : tblWfFrom d lo t = true) : tblWfFrom d lo (tblInsert t n v) = true := by
  induction t generalizing lo with
  | nil => simp [tblInsert, tblWfFrom, hv, hlo]
  | cons e t ih =>
    obtain ⟨k, x⟩ := e
    have hk : k ≠ n := h (k, x) (by simp)
    simp [tblWfFrom] at w
    by_cases hlt : n < k
    · simp [tblInsert, hlt, tblWfFrom, hv, hlo, w]
    · simp [tblInsert, hlt, tblWfFrom, w.1, ih (k + 1) (by omega) (fun e he => h e (by simp [he])) w.2]

/-- A write keeps the canonical form. -/
theorem tblSet_wf [DecidableEq α] (d : α) (t : Tbl α) (n : Nat) (v : α) (w : tblWf d t = true) : tblWf d (tblSet d t n v) = true := by
  unfold tblSet
  split
  · exact tblErase_wf d t n 0 w
  · exact tblInsert_wf d _ n 0 v ‹_› (Nat.zero_le _) (tblErase_keys t n) (tblErase_wf d t n 0 w)

/-! ## Memory -/

@[simp] theorem memGet_memSet (m : Mem) (a b : Nat) (x : Byte) : memGet (memSet m a x) b = if b = a then x else memGet m b :=
  tblGet_tblSet _ _ _ _ _

/-- A byte after a run of bytes has been written: the run's where it lies in it, else as before. -/
theorem memGet_memWrite (m : Mem) (a b : Nat) (bs : List Byte) :
    memGet (memWrite m a bs) b = if a ≤ b ∧ b < a + bs.length then bs.getD (b - a) 0 else memGet m b := by
  induction bs generalizing m a with
  | nil => simp [memWrite]
  | cons x bs ih =>
    rw [memWrite, ih]
    by_cases h : b = a
    · subst h; simp
    · by_cases hr : a + 1 ≤ b ∧ b < a + 1 + bs.length
      · have h2 : a ≤ b ∧ b < a + (x :: bs).length := by simp; omega
        have h3 : b - a = (b - (a + 1)) + 1 := by omega
        rw [if_pos hr, if_pos h2, h3]; simp
      · have h2 : ¬(a ≤ b ∧ b < a + (x :: bs).length) := by simp; omega
        rw [if_neg hr, if_neg h2]; simp [h]

theorem memSet_wf (m : Mem) (a : Nat) (b : Byte) (w : Memory.wf m = true) : Memory.wf (memSet m a b) = true := tblSet_wf _ _ _ _ w

theorem memWrite_wf (m : Mem) (a : Nat) (bs : List Byte) (w : Memory.wf m = true) : Memory.wf (memWrite m a bs) = true := by
  induction bs generalizing m a with
  | nil => exact w
  | cons x bs ih => exact ih _ _ (memSet_wf m a x w)

theorem nil_wf : Memory.wf [] = true := rfl

/-- Writing at scratchpad addresses keeps the canonical form of the scratchpad contents. -/
theorem spWrite_wf (s : State) (spa : Nat) (bs : List Byte) (w : Memory.wf s.cmp.sp = true) : Memory.wf (s.spWrite spa bs).cmp.sp = true := by
  induction bs generalizing s spa with
  | nil => exact w
  | cons x bs ih =>
    rw [State.spWrite]
    apply ih
    split
    · exact memSet_wf _ _ _ w
    · exact w

theorem lpWrite_wf (s : State) (a : Nat) (bs : List Byte) (w : Memory.wf s.cmp.lp = true) : Memory.wf (s.lpWrite a bs).cmp.lp = true :=
  memWrite_wf _ _ _ w

theorem reset_memories_wf : Memory.wf State.reset.cmp.sp = true ∧ Memory.wf State.reset.cmp.lp = true ∧
    Memory.wf State.reset.hostMem = true ∧ Memory.wf State.reset.hubMem = true := ⟨rfl, rfl, rfl, rfl⟩

/-- A number read back from its little-endian bytes (R11). -/
theorem leBytes_length (n k : Nat) : (leBytes n k).length = k := by
  induction k generalizing n with
  | zero => rfl
  | succ k ih => simp [leBytes, ih]

end Sys2Proof.Machine
end

