-- ==== Sys2Proof/Laws/State.lean ====
section
/-! SUPPORT. What each update of State leaves in each of its fields: one lemma for each update and field it does not change, and what a
key of the table that it changes holds afterwards. -/
namespace Sys2Proof.Machine

@[simp] theorem State.advance_pending (s : State) (t : Nat) : (s.advance t).pending = s.pending := rfl
@[simp] theorem State.advance_powered (s : State) (t : Nat) : (s.advance t).powered = s.powered := rfl
@[simp] theorem State.advance_glob (s : State) (t : Nat) : (s.advance t).glob = s.glob := rfl
@[simp] theorem State.advance_sched (s : State) (t : Nat) : (s.advance t).sched = s.sched := rfl
@[simp] theorem State.advance_cmd (s : State) (t : Nat) : (s.advance t).cmd = s.cmd := rfl
@[simp] theorem State.advance_sync (s : State) (t : Nat) : (s.advance t).sync = s.sync := rfl
@[simp] theorem State.advance_safe (s : State) (t : Nat) : (s.advance t).safe = s.safe := rfl
@[simp] theorem State.advance_pwr (s : State) (t : Nat) : (s.advance t).pwr = s.pwr := rfl
@[simp] theorem State.advance_cte (s : State) (t : Nat) : (s.advance t).cte = s.cte := rfl
@[simp] theorem State.advance_mio (s : State) (t : Nat) : (s.advance t).mio = s.mio := rfl
@[simp] theorem State.advance_cmp (s : State) (t : Nat) : (s.advance t).cmp = s.cmp := rfl
@[simp] theorem State.advance_srv (s : State) (t : Nat) : (s.advance t).srv = s.srv := rfl
@[simp] theorem State.advance_strm (s : State) (t : Nat) : (s.advance t).strm = s.strm := rfl
@[simp] theorem State.advance_slv (s : State) (t : Nat) : (s.advance t).slv = s.slv := rfl
@[simp] theorem State.advance_cap (s : State) (t : Nat) : (s.advance t).cap = s.cap := rfl
@[simp] theorem State.advance_ppe (s : State) (t : Nat) : (s.advance t).ppe = s.ppe := rfl
@[simp] theorem State.advance_cans (s : State) (t : Nat) : (s.advance t).cans = s.cans := rfl
@[simp] theorem State.advance_eths (s : State) (t : Nat) : (s.advance t).eths = s.eths := rfl
@[simp] theorem State.advance_lnk (s : State) (t : Nat) : (s.advance t).lnk = s.lnk := rfl
@[simp] theorem State.advance_sec (s : State) (t : Nat) : (s.advance t).sec = s.sec := rfl
@[simp] theorem State.advance_flash (s : State) (t : Nat) : (s.advance t).flash = s.flash := rfl
@[simp] theorem State.advance_image (s : State) (t : Nat) : (s.advance t).image = s.image := rfl
@[simp] theorem State.advance_hostMem (s : State) (t : Nat) : (s.advance t).hostMem = s.hostMem := rfl
@[simp] theorem State.advance_hubMem (s : State) (t : Nat) : (s.advance t).hubMem = s.hubMem := rfl
@[simp] theorem State.advance_free (s : State) (t : Nat) : (s.advance t).free = s.free := rfl

@[simp] theorem State.setDom_pending (s : State) (d : Nat) (x : Domain) : (s.setDom d x).pending = s.pending := rfl
@[simp] theorem State.setDom_powered (s : State) (d : Nat) (x : Domain) : (s.setDom d x).powered = s.powered := rfl
@[simp] theorem State.setDom_glob (s : State) (d : Nat) (x : Domain) : (s.setDom d x).glob = s.glob := rfl
@[simp] theorem State.setDom_sched (s : State) (d : Nat) (x : Domain) : (s.setDom d x).sched = s.sched := rfl
@[simp] theorem State.setDom_cmd (s : State) (d : Nat) (x : Domain) : (s.setDom d x).cmd = s.cmd := rfl
@[simp] theorem State.setDom_sync (s : State) (d : Nat) (x : Domain) : (s.setDom d x).sync = s.sync := rfl
@[simp] theorem State.setDom_safe (s : State) (d : Nat) (x : Domain) : (s.setDom d x).safe = s.safe := rfl
@[simp] theorem State.setDom_pwr (s : State) (d : Nat) (x : Domain) : (s.setDom d x).pwr = s.pwr := rfl
@[simp] theorem State.setDom_cte (s : State) (d : Nat) (x : Domain) : (s.setDom d x).cte = s.cte := rfl
@[simp] theorem State.setDom_mio (s : State) (d : Nat) (x : Domain) : (s.setDom d x).mio = s.mio := rfl
@[simp] theorem State.setDom_cmp (s : State) (d : Nat) (x : Domain) : (s.setDom d x).cmp = s.cmp := rfl
@[simp] theorem State.setDom_srv (s : State) (d : Nat) (x : Domain) : (s.setDom d x).srv = s.srv := rfl
@[simp] theorem State.setDom_strm (s : State) (d : Nat) (x : Domain) : (s.setDom d x).strm = s.strm := rfl
@[simp] theorem State.setDom_slv (s : State) (d : Nat) (x : Domain) : (s.setDom d x).slv = s.slv := rfl
@[simp] theorem State.setDom_cap (s : State) (d : Nat) (x : Domain) : (s.setDom d x).cap = s.cap := rfl
@[simp] theorem State.setDom_ppe (s : State) (d : Nat) (x : Domain) : (s.setDom d x).ppe = s.ppe := rfl
@[simp] theorem State.setDom_cans (s : State) (d : Nat) (x : Domain) : (s.setDom d x).cans = s.cans := rfl
@[simp] theorem State.setDom_eths (s : State) (d : Nat) (x : Domain) : (s.setDom d x).eths = s.eths := rfl
@[simp] theorem State.setDom_lnk (s : State) (d : Nat) (x : Domain) : (s.setDom d x).lnk = s.lnk := rfl
@[simp] theorem State.setDom_sec (s : State) (d : Nat) (x : Domain) : (s.setDom d x).sec = s.sec := rfl
@[simp] theorem State.setDom_flash (s : State) (d : Nat) (x : Domain) : (s.setDom d x).flash = s.flash := rfl
@[simp] theorem State.setDom_image (s : State) (d : Nat) (x : Domain) : (s.setDom d x).image = s.image := rfl
@[simp] theorem State.setDom_hostMem (s : State) (d : Nat) (x : Domain) : (s.setDom d x).hostMem = s.hostMem := rfl
@[simp] theorem State.setDom_hubMem (s : State) (d : Nat) (x : Domain) : (s.setDom d x).hubMem = s.hubMem := rfl
@[simp] theorem State.setDom_free (s : State) (d : Nat) (x : Domain) : (s.setDom d x).free = s.free := rfl
@[simp] theorem State.setDom_mark (s : State) (d : Nat) (x : Domain) : (s.setDom d x).mark = s.mark := rfl
@[simp] theorem State.setDom_records (s : State) (d : Nat) (x : Domain) : (s.setDom d x).records = s.records := rfl

@[simp] theorem State.setCtx_pending (s : State) (c : Nat) (x : Ctx) : (s.setCtx c x).pending = s.pending := rfl
@[simp] theorem State.setCtx_powered (s : State) (c : Nat) (x : Ctx) : (s.setCtx c x).powered = s.powered := rfl
@[simp] theorem State.setCtx_glob (s : State) (c : Nat) (x : Ctx) : (s.setCtx c x).glob = s.glob := rfl
@[simp] theorem State.setCtx_time (s : State) (c : Nat) (x : Ctx) : (s.setCtx c x).time = s.time := rfl
@[simp] theorem State.setCtx_sched (s : State) (c : Nat) (x : Ctx) : (s.setCtx c x).sched = s.sched := rfl
@[simp] theorem State.setCtx_sync (s : State) (c : Nat) (x : Ctx) : (s.setCtx c x).sync = s.sync := rfl
@[simp] theorem State.setCtx_safe (s : State) (c : Nat) (x : Ctx) : (s.setCtx c x).safe = s.safe := rfl
@[simp] theorem State.setCtx_pwr (s : State) (c : Nat) (x : Ctx) : (s.setCtx c x).pwr = s.pwr := rfl
@[simp] theorem State.setCtx_cte (s : State) (c : Nat) (x : Ctx) : (s.setCtx c x).cte = s.cte := rfl
@[simp] theorem State.setCtx_mio (s : State) (c : Nat) (x : Ctx) : (s.setCtx c x).mio = s.mio := rfl
@[simp] theorem State.setCtx_cmp (s : State) (c : Nat) (x : Ctx) : (s.setCtx c x).cmp = s.cmp := rfl
@[simp] theorem State.setCtx_srv (s : State) (c : Nat) (x : Ctx) : (s.setCtx c x).srv = s.srv := rfl
@[simp] theorem State.setCtx_strm (s : State) (c : Nat) (x : Ctx) : (s.setCtx c x).strm = s.strm := rfl
@[simp] theorem State.setCtx_slv (s : State) (c : Nat) (x : Ctx) : (s.setCtx c x).slv = s.slv := rfl
@[simp] theorem State.setCtx_cap (s : State) (c : Nat) (x : Ctx) : (s.setCtx c x).cap = s.cap := rfl
@[simp] theorem State.setCtx_ppe (s : State) (c : Nat) (x : Ctx) : (s.setCtx c x).ppe = s.ppe := rfl
@[simp] theorem State.setCtx_cans (s : State) (c : Nat) (x : Ctx) : (s.setCtx c x).cans = s.cans := rfl
@[simp] theorem State.setCtx_eths (s : State) (c : Nat) (x : Ctx) : (s.setCtx c x).eths = s.eths := rfl
@[simp] theorem State.setCtx_lnk (s : State) (c : Nat) (x : Ctx) : (s.setCtx c x).lnk = s.lnk := rfl
@[simp] theorem State.setCtx_sec (s : State) (c : Nat) (x : Ctx) : (s.setCtx c x).sec = s.sec := rfl
@[simp] theorem State.setCtx_flash (s : State) (c : Nat) (x : Ctx) : (s.setCtx c x).flash = s.flash := rfl
@[simp] theorem State.setCtx_image (s : State) (c : Nat) (x : Ctx) : (s.setCtx c x).image = s.image := rfl
@[simp] theorem State.setCtx_hostMem (s : State) (c : Nat) (x : Ctx) : (s.setCtx c x).hostMem = s.hostMem := rfl
@[simp] theorem State.setCtx_hubMem (s : State) (c : Nat) (x : Ctx) : (s.setCtx c x).hubMem = s.hubMem := rfl
@[simp] theorem State.setCtx_free (s : State) (c : Nat) (x : Ctx) : (s.setCtx c x).free = s.free := rfl
@[simp] theorem State.setCtx_mark (s : State) (c : Nat) (x : Ctx) : (s.setCtx c x).mark = s.mark := rfl
@[simp] theorem State.setCtx_records (s : State) (c : Nat) (x : Ctx) : (s.setCtx c x).records = s.records := rfl

@[simp] theorem State.setCounter_pending (s : State) (k : Nat) (x : Counter) : (s.setCounter k x).pending = s.pending := rfl
@[simp] theorem State.setCounter_powered (s : State) (k : Nat) (x : Counter) : (s.setCounter k x).powered = s.powered := rfl
@[simp] theorem State.setCounter_glob (s : State) (k : Nat) (x : Counter) : (s.setCounter k x).glob = s.glob := rfl
@[simp] theorem State.setCounter_time (s : State) (k : Nat) (x : Counter) : (s.setCounter k x).time = s.time := rfl
@[simp] theorem State.setCounter_sched (s : State) (k : Nat) (x : Counter) : (s.setCounter k x).sched = s.sched := rfl
@[simp] theorem State.setCounter_cmd (s : State) (k : Nat) (x : Counter) : (s.setCounter k x).cmd = s.cmd := rfl
@[simp] theorem State.setCounter_safe (s : State) (k : Nat) (x : Counter) : (s.setCounter k x).safe = s.safe := rfl
@[simp] theorem State.setCounter_pwr (s : State) (k : Nat) (x : Counter) : (s.setCounter k x).pwr = s.pwr := rfl
@[simp] theorem State.setCounter_cte (s : State) (k : Nat) (x : Counter) : (s.setCounter k x).cte = s.cte := rfl
@[simp] theorem State.setCounter_mio (s : State) (k : Nat) (x : Counter) : (s.setCounter k x).mio = s.mio := rfl
@[simp] theorem State.setCounter_cmp (s : State) (k : Nat) (x : Counter) : (s.setCounter k x).cmp = s.cmp := rfl
@[simp] theorem State.setCounter_srv (s : State) (k : Nat) (x : Counter) : (s.setCounter k x).srv = s.srv := rfl
@[simp] theorem State.setCounter_strm (s : State) (k : Nat) (x : Counter) : (s.setCounter k x).strm = s.strm := rfl
@[simp] theorem State.setCounter_slv (s : State) (k : Nat) (x : Counter) : (s.setCounter k x).slv = s.slv := rfl
@[simp] theorem State.setCounter_cap (s : State) (k : Nat) (x : Counter) : (s.setCounter k x).cap = s.cap := rfl
@[simp] theorem State.setCounter_ppe (s : State) (k : Nat) (x : Counter) : (s.setCounter k x).ppe = s.ppe := rfl
@[simp] theorem State.setCounter_cans (s : State) (k : Nat) (x : Counter) : (s.setCounter k x).cans = s.cans := rfl
@[simp] theorem State.setCounter_eths (s : State) (k : Nat) (x : Counter) : (s.setCounter k x).eths = s.eths := rfl
@[simp] theorem State.setCounter_lnk (s : State) (k : Nat) (x : Counter) : (s.setCounter k x).lnk = s.lnk := rfl
@[simp] theorem State.setCounter_sec (s : State) (k : Nat) (x : Counter) : (s.setCounter k x).sec = s.sec := rfl
@[simp] theorem State.setCounter_flash (s : State) (k : Nat) (x : Counter) : (s.setCounter k x).flash = s.flash := rfl
@[simp] theorem State.setCounter_image (s : State) (k : Nat) (x : Counter) : (s.setCounter k x).image = s.image := rfl
@[simp] theorem State.setCounter_hostMem (s : State) (k : Nat) (x : Counter) : (s.setCounter k x).hostMem = s.hostMem := rfl
@[simp] theorem State.setCounter_hubMem (s : State) (k : Nat) (x : Counter) : (s.setCounter k x).hubMem = s.hubMem := rfl
@[simp] theorem State.setCounter_free (s : State) (k : Nat) (x : Counter) : (s.setCounter k x).free = s.free := rfl
@[simp] theorem State.setCounter_mark (s : State) (k : Nat) (x : Counter) : (s.setCounter k x).mark = s.mark := rfl
@[simp] theorem State.setCounter_records (s : State) (k : Nat) (x : Counter) : (s.setCounter k x).records = s.records := rfl

@[simp] theorem State.setLoop_pending (s : State) (n : Nat) (x : Loop) : (s.setLoop n x).pending = s.pending := rfl
@[simp] theorem State.setLoop_powered (s : State) (n : Nat) (x : Loop) : (s.setLoop n x).powered = s.powered := rfl
@[simp] theorem State.setLoop_glob (s : State) (n : Nat) (x : Loop) : (s.setLoop n x).glob = s.glob := rfl
@[simp] theorem State.setLoop_time (s : State) (n : Nat) (x : Loop) : (s.setLoop n x).time = s.time := rfl
@[simp] theorem State.setLoop_sched (s : State) (n : Nat) (x : Loop) : (s.setLoop n x).sched = s.sched := rfl
@[simp] theorem State.setLoop_cmd (s : State) (n : Nat) (x : Loop) : (s.setLoop n x).cmd = s.cmd := rfl
@[simp] theorem State.setLoop_sync (s : State) (n : Nat) (x : Loop) : (s.setLoop n x).sync = s.sync := rfl
@[simp] theorem State.setLoop_safe (s : State) (n : Nat) (x : Loop) : (s.setLoop n x).safe = s.safe := rfl
@[simp] theorem State.setLoop_pwr (s : State) (n : Nat) (x : Loop) : (s.setLoop n x).pwr = s.pwr := rfl
@[simp] theorem State.setLoop_mio (s : State) (n : Nat) (x : Loop) : (s.setLoop n x).mio = s.mio := rfl
@[simp] theorem State.setLoop_cmp (s : State) (n : Nat) (x : Loop) : (s.setLoop n x).cmp = s.cmp := rfl
@[simp] theorem State.setLoop_srv (s : State) (n : Nat) (x : Loop) : (s.setLoop n x).srv = s.srv := rfl
@[simp] theorem State.setLoop_strm (s : State) (n : Nat) (x : Loop) : (s.setLoop n x).strm = s.strm := rfl
@[simp] theorem State.setLoop_slv (s : State) (n : Nat) (x : Loop) : (s.setLoop n x).slv = s.slv := rfl
@[simp] theorem State.setLoop_cap (s : State) (n : Nat) (x : Loop) : (s.setLoop n x).cap = s.cap := rfl
@[simp] theorem State.setLoop_ppe (s : State) (n : Nat) (x : Loop) : (s.setLoop n x).ppe = s.ppe := rfl
@[simp] theorem State.setLoop_cans (s : State) (n : Nat) (x : Loop) : (s.setLoop n x).cans = s.cans := rfl
@[simp] theorem State.setLoop_eths (s : State) (n : Nat) (x : Loop) : (s.setLoop n x).eths = s.eths := rfl
@[simp] theorem State.setLoop_lnk (s : State) (n : Nat) (x : Loop) : (s.setLoop n x).lnk = s.lnk := rfl
@[simp] theorem State.setLoop_sec (s : State) (n : Nat) (x : Loop) : (s.setLoop n x).sec = s.sec := rfl
@[simp] theorem State.setLoop_flash (s : State) (n : Nat) (x : Loop) : (s.setLoop n x).flash = s.flash := rfl
@[simp] theorem State.setLoop_image (s : State) (n : Nat) (x : Loop) : (s.setLoop n x).image = s.image := rfl
@[simp] theorem State.setLoop_hostMem (s : State) (n : Nat) (x : Loop) : (s.setLoop n x).hostMem = s.hostMem := rfl
@[simp] theorem State.setLoop_hubMem (s : State) (n : Nat) (x : Loop) : (s.setLoop n x).hubMem = s.hubMem := rfl
@[simp] theorem State.setLoop_free (s : State) (n : Nat) (x : Loop) : (s.setLoop n x).free = s.free := rfl
@[simp] theorem State.setLoop_mark (s : State) (n : Nat) (x : Loop) : (s.setLoop n x).mark = s.mark := rfl
@[simp] theorem State.setLoop_records (s : State) (n : Nat) (x : Loop) : (s.setLoop n x).records = s.records := rfl

@[simp] theorem State.setGroup_pending (s : State) (g : Nat) (x : Group) : (s.setGroup g x).pending = s.pending := rfl
@[simp] theorem State.setGroup_powered (s : State) (g : Nat) (x : Group) : (s.setGroup g x).powered = s.powered := rfl
@[simp] theorem State.setGroup_glob (s : State) (g : Nat) (x : Group) : (s.setGroup g x).glob = s.glob := rfl
@[simp] theorem State.setGroup_time (s : State) (g : Nat) (x : Group) : (s.setGroup g x).time = s.time := rfl
@[simp] theorem State.setGroup_sched (s : State) (g : Nat) (x : Group) : (s.setGroup g x).sched = s.sched := rfl
@[simp] theorem State.setGroup_cmd (s : State) (g : Nat) (x : Group) : (s.setGroup g x).cmd = s.cmd := rfl
@[simp] theorem State.setGroup_sync (s : State) (g : Nat) (x : Group) : (s.setGroup g x).sync = s.sync := rfl
@[simp] theorem State.setGroup_safe (s : State) (g : Nat) (x : Group) : (s.setGroup g x).safe = s.safe := rfl
@[simp] theorem State.setGroup_pwr (s : State) (g : Nat) (x : Group) : (s.setGroup g x).pwr = s.pwr := rfl
@[simp] theorem State.setGroup_mio (s : State) (g : Nat) (x : Group) : (s.setGroup g x).mio = s.mio := rfl
@[simp] theorem State.setGroup_cmp (s : State) (g : Nat) (x : Group) : (s.setGroup g x).cmp = s.cmp := rfl
@[simp] theorem State.setGroup_srv (s : State) (g : Nat) (x : Group) : (s.setGroup g x).srv = s.srv := rfl
@[simp] theorem State.setGroup_strm (s : State) (g : Nat) (x : Group) : (s.setGroup g x).strm = s.strm := rfl
@[simp] theorem State.setGroup_slv (s : State) (g : Nat) (x : Group) : (s.setGroup g x).slv = s.slv := rfl
@[simp] theorem State.setGroup_cap (s : State) (g : Nat) (x : Group) : (s.setGroup g x).cap = s.cap := rfl
@[simp] theorem State.setGroup_ppe (s : State) (g : Nat) (x : Group) : (s.setGroup g x).ppe = s.ppe := rfl
@[simp] theorem State.setGroup_cans (s : State) (g : Nat) (x : Group) : (s.setGroup g x).cans = s.cans := rfl
@[simp] theorem State.setGroup_eths (s : State) (g : Nat) (x : Group) : (s.setGroup g x).eths = s.eths := rfl
@[simp] theorem State.setGroup_lnk (s : State) (g : Nat) (x : Group) : (s.setGroup g x).lnk = s.lnk := rfl
@[simp] theorem State.setGroup_sec (s : State) (g : Nat) (x : Group) : (s.setGroup g x).sec = s.sec := rfl
@[simp] theorem State.setGroup_flash (s : State) (g : Nat) (x : Group) : (s.setGroup g x).flash = s.flash := rfl
@[simp] theorem State.setGroup_image (s : State) (g : Nat) (x : Group) : (s.setGroup g x).image = s.image := rfl
@[simp] theorem State.setGroup_hostMem (s : State) (g : Nat) (x : Group) : (s.setGroup g x).hostMem = s.hostMem := rfl
@[simp] theorem State.setGroup_hubMem (s : State) (g : Nat) (x : Group) : (s.setGroup g x).hubMem = s.hubMem := rfl
@[simp] theorem State.setGroup_free (s : State) (g : Nat) (x : Group) : (s.setGroup g x).free = s.free := rfl
@[simp] theorem State.setGroup_mark (s : State) (g : Nat) (x : Group) : (s.setGroup g x).mark = s.mark := rfl
@[simp] theorem State.setGroup_records (s : State) (g : Nat) (x : Group) : (s.setGroup g x).records = s.records := rfl

@[simp] theorem State.setRegion_pending (s : State) (k : Nat) (x : Region) : (s.setRegion k x).pending = s.pending := rfl
@[simp] theorem State.setRegion_powered (s : State) (k : Nat) (x : Region) : (s.setRegion k x).powered = s.powered := rfl
@[simp] theorem State.setRegion_glob (s : State) (k : Nat) (x : Region) : (s.setRegion k x).glob = s.glob := rfl
@[simp] theorem State.setRegion_time (s : State) (k : Nat) (x : Region) : (s.setRegion k x).time = s.time := rfl
@[simp] theorem State.setRegion_sched (s : State) (k : Nat) (x : Region) : (s.setRegion k x).sched = s.sched := rfl
@[simp] theorem State.setRegion_cmd (s : State) (k : Nat) (x : Region) : (s.setRegion k x).cmd = s.cmd := rfl
@[simp] theorem State.setRegion_sync (s : State) (k : Nat) (x : Region) : (s.setRegion k x).sync = s.sync := rfl
@[simp] theorem State.setRegion_safe (s : State) (k : Nat) (x : Region) : (s.setRegion k x).safe = s.safe := rfl
@[simp] theorem State.setRegion_pwr (s : State) (k : Nat) (x : Region) : (s.setRegion k x).pwr = s.pwr := rfl
@[simp] theorem State.setRegion_cte (s : State) (k : Nat) (x : Region) : (s.setRegion k x).cte = s.cte := rfl
@[simp] theorem State.setRegion_mio (s : State) (k : Nat) (x : Region) : (s.setRegion k x).mio = s.mio := rfl
@[simp] theorem State.setRegion_srv (s : State) (k : Nat) (x : Region) : (s.setRegion k x).srv = s.srv := rfl
@[simp] theorem State.setRegion_strm (s : State) (k : Nat) (x : Region) : (s.setRegion k x).strm = s.strm := rfl
@[simp] theorem State.setRegion_slv (s : State) (k : Nat) (x : Region) : (s.setRegion k x).slv = s.slv := rfl
@[simp] theorem State.setRegion_cap (s : State) (k : Nat) (x : Region) : (s.setRegion k x).cap = s.cap := rfl
@[simp] theorem State.setRegion_ppe (s : State) (k : Nat) (x : Region) : (s.setRegion k x).ppe = s.ppe := rfl
@[simp] theorem State.setRegion_cans (s : State) (k : Nat) (x : Region) : (s.setRegion k x).cans = s.cans := rfl
@[simp] theorem State.setRegion_eths (s : State) (k : Nat) (x : Region) : (s.setRegion k x).eths = s.eths := rfl
@[simp] theorem State.setRegion_lnk (s : State) (k : Nat) (x : Region) : (s.setRegion k x).lnk = s.lnk := rfl
@[simp] theorem State.setRegion_sec (s : State) (k : Nat) (x : Region) : (s.setRegion k x).sec = s.sec := rfl
@[simp] theorem State.setRegion_flash (s : State) (k : Nat) (x : Region) : (s.setRegion k x).flash = s.flash := rfl
@[simp] theorem State.setRegion_image (s : State) (k : Nat) (x : Region) : (s.setRegion k x).image = s.image := rfl
@[simp] theorem State.setRegion_hostMem (s : State) (k : Nat) (x : Region) : (s.setRegion k x).hostMem = s.hostMem := rfl
@[simp] theorem State.setRegion_hubMem (s : State) (k : Nat) (x : Region) : (s.setRegion k x).hubMem = s.hubMem := rfl
@[simp] theorem State.setRegion_free (s : State) (k : Nat) (x : Region) : (s.setRegion k x).free = s.free := rfl
@[simp] theorem State.setRegion_mark (s : State) (k : Nat) (x : Region) : (s.setRegion k x).mark = s.mark := rfl
@[simp] theorem State.setRegion_records (s : State) (k : Nat) (x : Region) : (s.setRegion k x).records = s.records := rfl

@[simp] theorem State.setPort_pending (s : State) (k : Nat) (x : RegionSp) : (s.setPort k x).pending = s.pending := rfl
@[simp] theorem State.setPort_powered (s : State) (k : Nat) (x : RegionSp) : (s.setPort k x).powered = s.powered := rfl
@[simp] theorem State.setPort_glob (s : State) (k : Nat) (x : RegionSp) : (s.setPort k x).glob = s.glob := rfl
@[simp] theorem State.setPort_time (s : State) (k : Nat) (x : RegionSp) : (s.setPort k x).time = s.time := rfl
@[simp] theorem State.setPort_sched (s : State) (k : Nat) (x : RegionSp) : (s.setPort k x).sched = s.sched := rfl
@[simp] theorem State.setPort_cmd (s : State) (k : Nat) (x : RegionSp) : (s.setPort k x).cmd = s.cmd := rfl
@[simp] theorem State.setPort_sync (s : State) (k : Nat) (x : RegionSp) : (s.setPort k x).sync = s.sync := rfl
@[simp] theorem State.setPort_safe (s : State) (k : Nat) (x : RegionSp) : (s.setPort k x).safe = s.safe := rfl
@[simp] theorem State.setPort_pwr (s : State) (k : Nat) (x : RegionSp) : (s.setPort k x).pwr = s.pwr := rfl
@[simp] theorem State.setPort_cte (s : State) (k : Nat) (x : RegionSp) : (s.setPort k x).cte = s.cte := rfl
@[simp] theorem State.setPort_mio (s : State) (k : Nat) (x : RegionSp) : (s.setPort k x).mio = s.mio := rfl
@[simp] theorem State.setPort_srv (s : State) (k : Nat) (x : RegionSp) : (s.setPort k x).srv = s.srv := rfl
@[simp] theorem State.setPort_strm (s : State) (k : Nat) (x : RegionSp) : (s.setPort k x).strm = s.strm := rfl
@[simp] theorem State.setPort_slv (s : State) (k : Nat) (x : RegionSp) : (s.setPort k x).slv = s.slv := rfl
@[simp] theorem State.setPort_cap (s : State) (k : Nat) (x : RegionSp) : (s.setPort k x).cap = s.cap := rfl
@[simp] theorem State.setPort_ppe (s : State) (k : Nat) (x : RegionSp) : (s.setPort k x).ppe = s.ppe := rfl
@[simp] theorem State.setPort_cans (s : State) (k : Nat) (x : RegionSp) : (s.setPort k x).cans = s.cans := rfl
@[simp] theorem State.setPort_eths (s : State) (k : Nat) (x : RegionSp) : (s.setPort k x).eths = s.eths := rfl
@[simp] theorem State.setPort_lnk (s : State) (k : Nat) (x : RegionSp) : (s.setPort k x).lnk = s.lnk := rfl
@[simp] theorem State.setPort_sec (s : State) (k : Nat) (x : RegionSp) : (s.setPort k x).sec = s.sec := rfl
@[simp] theorem State.setPort_flash (s : State) (k : Nat) (x : RegionSp) : (s.setPort k x).flash = s.flash := rfl
@[simp] theorem State.setPort_image (s : State) (k : Nat) (x : RegionSp) : (s.setPort k x).image = s.image := rfl
@[simp] theorem State.setPort_hostMem (s : State) (k : Nat) (x : RegionSp) : (s.setPort k x).hostMem = s.hostMem := rfl
@[simp] theorem State.setPort_hubMem (s : State) (k : Nat) (x : RegionSp) : (s.setPort k x).hubMem = s.hubMem := rfl
@[simp] theorem State.setPort_free (s : State) (k : Nat) (x : RegionSp) : (s.setPort k x).free = s.free := rfl
@[simp] theorem State.setPort_mark (s : State) (k : Nat) (x : RegionSp) : (s.setPort k x).mark = s.mark := rfl
@[simp] theorem State.setPort_records (s : State) (k : Nat) (x : RegionSp) : (s.setPort k x).records = s.records := rfl

@[simp] theorem State.setCan_pending (s : State) (c : Nat) (x : Can) : (s.setCan c x).pending = s.pending := rfl
@[simp] theorem State.setCan_powered (s : State) (c : Nat) (x : Can) : (s.setCan c x).powered = s.powered := rfl
@[simp] theorem State.setCan_glob (s : State) (c : Nat) (x : Can) : (s.setCan c x).glob = s.glob := rfl
@[simp] theorem State.setCan_time (s : State) (c : Nat) (x : Can) : (s.setCan c x).time = s.time := rfl
@[simp] theorem State.setCan_sched (s : State) (c : Nat) (x : Can) : (s.setCan c x).sched = s.sched := rfl
@[simp] theorem State.setCan_cmd (s : State) (c : Nat) (x : Can) : (s.setCan c x).cmd = s.cmd := rfl
@[simp] theorem State.setCan_sync (s : State) (c : Nat) (x : Can) : (s.setCan c x).sync = s.sync := rfl
@[simp] theorem State.setCan_safe (s : State) (c : Nat) (x : Can) : (s.setCan c x).safe = s.safe := rfl
@[simp] theorem State.setCan_pwr (s : State) (c : Nat) (x : Can) : (s.setCan c x).pwr = s.pwr := rfl
@[simp] theorem State.setCan_cte (s : State) (c : Nat) (x : Can) : (s.setCan c x).cte = s.cte := rfl
@[simp] theorem State.setCan_mio (s : State) (c : Nat) (x : Can) : (s.setCan c x).mio = s.mio := rfl
@[simp] theorem State.setCan_cmp (s : State) (c : Nat) (x : Can) : (s.setCan c x).cmp = s.cmp := rfl
@[simp] theorem State.setCan_srv (s : State) (c : Nat) (x : Can) : (s.setCan c x).srv = s.srv := rfl
@[simp] theorem State.setCan_strm (s : State) (c : Nat) (x : Can) : (s.setCan c x).strm = s.strm := rfl
@[simp] theorem State.setCan_slv (s : State) (c : Nat) (x : Can) : (s.setCan c x).slv = s.slv := rfl
@[simp] theorem State.setCan_cap (s : State) (c : Nat) (x : Can) : (s.setCan c x).cap = s.cap := rfl
@[simp] theorem State.setCan_ppe (s : State) (c : Nat) (x : Can) : (s.setCan c x).ppe = s.ppe := rfl
@[simp] theorem State.setCan_eths (s : State) (c : Nat) (x : Can) : (s.setCan c x).eths = s.eths := rfl
@[simp] theorem State.setCan_lnk (s : State) (c : Nat) (x : Can) : (s.setCan c x).lnk = s.lnk := rfl
@[simp] theorem State.setCan_sec (s : State) (c : Nat) (x : Can) : (s.setCan c x).sec = s.sec := rfl
@[simp] theorem State.setCan_flash (s : State) (c : Nat) (x : Can) : (s.setCan c x).flash = s.flash := rfl
@[simp] theorem State.setCan_image (s : State) (c : Nat) (x : Can) : (s.setCan c x).image = s.image := rfl
@[simp] theorem State.setCan_hostMem (s : State) (c : Nat) (x : Can) : (s.setCan c x).hostMem = s.hostMem := rfl
@[simp] theorem State.setCan_hubMem (s : State) (c : Nat) (x : Can) : (s.setCan c x).hubMem = s.hubMem := rfl
@[simp] theorem State.setCan_free (s : State) (c : Nat) (x : Can) : (s.setCan c x).free = s.free := rfl
@[simp] theorem State.setCan_mark (s : State) (c : Nat) (x : Can) : (s.setCan c x).mark = s.mark := rfl
@[simp] theorem State.setCan_records (s : State) (c : Nat) (x : Can) : (s.setCan c x).records = s.records := rfl

@[simp] theorem State.setEth_pending (s : State) (p : Nat) (x : Eth) : (s.setEth p x).pending = s.pending := rfl
@[simp] theorem State.setEth_powered (s : State) (p : Nat) (x : Eth) : (s.setEth p x).powered = s.powered := rfl
@[simp] theorem State.setEth_glob (s : State) (p : Nat) (x : Eth) : (s.setEth p x).glob = s.glob := rfl
@[simp] theorem State.setEth_time (s : State) (p : Nat) (x : Eth) : (s.setEth p x).time = s.time := rfl
@[simp] theorem State.setEth_sched (s : State) (p : Nat) (x : Eth) : (s.setEth p x).sched = s.sched := rfl
@[simp] theorem State.setEth_cmd (s : State) (p : Nat) (x : Eth) : (s.setEth p x).cmd = s.cmd := rfl
@[simp] theorem State.setEth_sync (s : State) (p : Nat) (x : Eth) : (s.setEth p x).sync = s.sync := rfl
@[simp] theorem State.setEth_safe (s : State) (p : Nat) (x : Eth) : (s.setEth p x).safe = s.safe := rfl
@[simp] theorem State.setEth_pwr (s : State) (p : Nat) (x : Eth) : (s.setEth p x).pwr = s.pwr := rfl
@[simp] theorem State.setEth_cte (s : State) (p : Nat) (x : Eth) : (s.setEth p x).cte = s.cte := rfl
@[simp] theorem State.setEth_mio (s : State) (p : Nat) (x : Eth) : (s.setEth p x).mio = s.mio := rfl
@[simp] theorem State.setEth_cmp (s : State) (p : Nat) (x : Eth) : (s.setEth p x).cmp = s.cmp := rfl
@[simp] theorem State.setEth_srv (s : State) (p : Nat) (x : Eth) : (s.setEth p x).srv = s.srv := rfl
@[simp] theorem State.setEth_strm (s : State) (p : Nat) (x : Eth) : (s.setEth p x).strm = s.strm := rfl
@[simp] theorem State.setEth_slv (s : State) (p : Nat) (x : Eth) : (s.setEth p x).slv = s.slv := rfl
@[simp] theorem State.setEth_cap (s : State) (p : Nat) (x : Eth) : (s.setEth p x).cap = s.cap := rfl
@[simp] theorem State.setEth_ppe (s : State) (p : Nat) (x : Eth) : (s.setEth p x).ppe = s.ppe := rfl
@[simp] theorem State.setEth_cans (s : State) (p : Nat) (x : Eth) : (s.setEth p x).cans = s.cans := rfl
@[simp] theorem State.setEth_lnk (s : State) (p : Nat) (x : Eth) : (s.setEth p x).lnk = s.lnk := rfl
@[simp] theorem State.setEth_sec (s : State) (p : Nat) (x : Eth) : (s.setEth p x).sec = s.sec := rfl
@[simp] theorem State.setEth_flash (s : State) (p : Nat) (x : Eth) : (s.setEth p x).flash = s.flash := rfl
@[simp] theorem State.setEth_image (s : State) (p : Nat) (x : Eth) : (s.setEth p x).image = s.image := rfl
@[simp] theorem State.setEth_hostMem (s : State) (p : Nat) (x : Eth) : (s.setEth p x).hostMem = s.hostMem := rfl
@[simp] theorem State.setEth_hubMem (s : State) (p : Nat) (x : Eth) : (s.setEth p x).hubMem = s.hubMem := rfl
@[simp] theorem State.setEth_free (s : State) (p : Nat) (x : Eth) : (s.setEth p x).free = s.free := rfl
@[simp] theorem State.setEth_mark (s : State) (p : Nat) (x : Eth) : (s.setEth p x).mark = s.mark := rfl
@[simp] theorem State.setEth_records (s : State) (p : Nat) (x : Eth) : (s.setEth p x).records = s.records := rfl

@[simp] theorem State.setCam_pending (s : State) (i : Nat) (x : Cam) : (s.setCam i x).pending = s.pending := rfl
@[simp] theorem State.setCam_powered (s : State) (i : Nat) (x : Cam) : (s.setCam i x).powered = s.powered := rfl
@[simp] theorem State.setCam_glob (s : State) (i : Nat) (x : Cam) : (s.setCam i x).glob = s.glob := rfl
@[simp] theorem State.setCam_time (s : State) (i : Nat) (x : Cam) : (s.setCam i x).time = s.time := rfl
@[simp] theorem State.setCam_sched (s : State) (i : Nat) (x : Cam) : (s.setCam i x).sched = s.sched := rfl
@[simp] theorem State.setCam_cmd (s : State) (i : Nat) (x : Cam) : (s.setCam i x).cmd = s.cmd := rfl
@[simp] theorem State.setCam_sync (s : State) (i : Nat) (x : Cam) : (s.setCam i x).sync = s.sync := rfl
@[simp] theorem State.setCam_safe (s : State) (i : Nat) (x : Cam) : (s.setCam i x).safe = s.safe := rfl
@[simp] theorem State.setCam_pwr (s : State) (i : Nat) (x : Cam) : (s.setCam i x).pwr = s.pwr := rfl
@[simp] theorem State.setCam_cte (s : State) (i : Nat) (x : Cam) : (s.setCam i x).cte = s.cte := rfl
@[simp] theorem State.setCam_mio (s : State) (i : Nat) (x : Cam) : (s.setCam i x).mio = s.mio := rfl
@[simp] theorem State.setCam_cmp (s : State) (i : Nat) (x : Cam) : (s.setCam i x).cmp = s.cmp := rfl
@[simp] theorem State.setCam_srv (s : State) (i : Nat) (x : Cam) : (s.setCam i x).srv = s.srv := rfl
@[simp] theorem State.setCam_strm (s : State) (i : Nat) (x : Cam) : (s.setCam i x).strm = s.strm := rfl
@[simp] theorem State.setCam_slv (s : State) (i : Nat) (x : Cam) : (s.setCam i x).slv = s.slv := rfl
@[simp] theorem State.setCam_ppe (s : State) (i : Nat) (x : Cam) : (s.setCam i x).ppe = s.ppe := rfl
@[simp] theorem State.setCam_cans (s : State) (i : Nat) (x : Cam) : (s.setCam i x).cans = s.cans := rfl
@[simp] theorem State.setCam_eths (s : State) (i : Nat) (x : Cam) : (s.setCam i x).eths = s.eths := rfl
@[simp] theorem State.setCam_lnk (s : State) (i : Nat) (x : Cam) : (s.setCam i x).lnk = s.lnk := rfl
@[simp] theorem State.setCam_sec (s : State) (i : Nat) (x : Cam) : (s.setCam i x).sec = s.sec := rfl
@[simp] theorem State.setCam_flash (s : State) (i : Nat) (x : Cam) : (s.setCam i x).flash = s.flash := rfl
@[simp] theorem State.setCam_image (s : State) (i : Nat) (x : Cam) : (s.setCam i x).image = s.image := rfl
@[simp] theorem State.setCam_hostMem (s : State) (i : Nat) (x : Cam) : (s.setCam i x).hostMem = s.hostMem := rfl
@[simp] theorem State.setCam_hubMem (s : State) (i : Nat) (x : Cam) : (s.setCam i x).hubMem = s.hubMem := rfl
@[simp] theorem State.setCam_free (s : State) (i : Nat) (x : Cam) : (s.setCam i x).free = s.free := rfl
@[simp] theorem State.setCam_mark (s : State) (i : Nat) (x : Cam) : (s.setCam i x).mark = s.mark := rfl
@[simp] theorem State.setCam_records (s : State) (i : Nat) (x : Cam) : (s.setCam i x).records = s.records := rfl

@[simp] theorem State.setStream_pending (s : State) (i : Nat) (x : Strm) : (s.setStream i x).pending = s.pending := rfl
@[simp] theorem State.setStream_powered (s : State) (i : Nat) (x : Strm) : (s.setStream i x).powered = s.powered := rfl
@[simp] theorem State.setStream_glob (s : State) (i : Nat) (x : Strm) : (s.setStream i x).glob = s.glob := rfl
@[simp] theorem State.setStream_time (s : State) (i : Nat) (x : Strm) : (s.setStream i x).time = s.time := rfl
@[simp] theorem State.setStream_sched (s : State) (i : Nat) (x : Strm) : (s.setStream i x).sched = s.sched := rfl
@[simp] theorem State.setStream_cmd (s : State) (i : Nat) (x : Strm) : (s.setStream i x).cmd = s.cmd := rfl
@[simp] theorem State.setStream_sync (s : State) (i : Nat) (x : Strm) : (s.setStream i x).sync = s.sync := rfl
@[simp] theorem State.setStream_safe (s : State) (i : Nat) (x : Strm) : (s.setStream i x).safe = s.safe := rfl
@[simp] theorem State.setStream_pwr (s : State) (i : Nat) (x : Strm) : (s.setStream i x).pwr = s.pwr := rfl
@[simp] theorem State.setStream_cte (s : State) (i : Nat) (x : Strm) : (s.setStream i x).cte = s.cte := rfl
@[simp] theorem State.setStream_mio (s : State) (i : Nat) (x : Strm) : (s.setStream i x).mio = s.mio := rfl
@[simp] theorem State.setStream_cmp (s : State) (i : Nat) (x : Strm) : (s.setStream i x).cmp = s.cmp := rfl
@[simp] theorem State.setStream_srv (s : State) (i : Nat) (x : Strm) : (s.setStream i x).srv = s.srv := rfl
@[simp] theorem State.setStream_slv (s : State) (i : Nat) (x : Strm) : (s.setStream i x).slv = s.slv := rfl
@[simp] theorem State.setStream_cap (s : State) (i : Nat) (x : Strm) : (s.setStream i x).cap = s.cap := rfl
@[simp] theorem State.setStream_ppe (s : State) (i : Nat) (x : Strm) : (s.setStream i x).ppe = s.ppe := rfl
@[simp] theorem State.setStream_cans (s : State) (i : Nat) (x : Strm) : (s.setStream i x).cans = s.cans := rfl
@[simp] theorem State.setStream_eths (s : State) (i : Nat) (x : Strm) : (s.setStream i x).eths = s.eths := rfl
@[simp] theorem State.setStream_lnk (s : State) (i : Nat) (x : Strm) : (s.setStream i x).lnk = s.lnk := rfl
@[simp] theorem State.setStream_sec (s : State) (i : Nat) (x : Strm) : (s.setStream i x).sec = s.sec := rfl
@[simp] theorem State.setStream_flash (s : State) (i : Nat) (x : Strm) : (s.setStream i x).flash = s.flash := rfl
@[simp] theorem State.setStream_image (s : State) (i : Nat) (x : Strm) : (s.setStream i x).image = s.image := rfl
@[simp] theorem State.setStream_hostMem (s : State) (i : Nat) (x : Strm) : (s.setStream i x).hostMem = s.hostMem := rfl
@[simp] theorem State.setStream_hubMem (s : State) (i : Nat) (x : Strm) : (s.setStream i x).hubMem = s.hubMem := rfl
@[simp] theorem State.setStream_free (s : State) (i : Nat) (x : Strm) : (s.setStream i x).free = s.free := rfl
@[simp] theorem State.setStream_mark (s : State) (i : Nat) (x : Strm) : (s.setStream i x).mark = s.mark := rfl
@[simp] theorem State.setStream_records (s : State) (i : Nat) (x : Strm) : (s.setStream i x).records = s.records := rfl

@[simp] theorem State.setSeq_pending (s : State) (i : Nat) (x : SeqEntry) : (s.setSeq i x).pending = s.pending := rfl
@[simp] theorem State.setSeq_powered (s : State) (i : Nat) (x : SeqEntry) : (s.setSeq i x).powered = s.powered := rfl
@[simp] theorem State.setSeq_glob (s : State) (i : Nat) (x : SeqEntry) : (s.setSeq i x).glob = s.glob := rfl
@[simp] theorem State.setSeq_time (s : State) (i : Nat) (x : SeqEntry) : (s.setSeq i x).time = s.time := rfl
@[simp] theorem State.setSeq_sched (s : State) (i : Nat) (x : SeqEntry) : (s.setSeq i x).sched = s.sched := rfl
@[simp] theorem State.setSeq_cmd (s : State) (i : Nat) (x : SeqEntry) : (s.setSeq i x).cmd = s.cmd := rfl
@[simp] theorem State.setSeq_sync (s : State) (i : Nat) (x : SeqEntry) : (s.setSeq i x).sync = s.sync := rfl
@[simp] theorem State.setSeq_safe (s : State) (i : Nat) (x : SeqEntry) : (s.setSeq i x).safe = s.safe := rfl
@[simp] theorem State.setSeq_pwr (s : State) (i : Nat) (x : SeqEntry) : (s.setSeq i x).pwr = s.pwr := rfl
@[simp] theorem State.setSeq_cte (s : State) (i : Nat) (x : SeqEntry) : (s.setSeq i x).cte = s.cte := rfl
@[simp] theorem State.setSeq_mio (s : State) (i : Nat) (x : SeqEntry) : (s.setSeq i x).mio = s.mio := rfl
@[simp] theorem State.setSeq_cmp (s : State) (i : Nat) (x : SeqEntry) : (s.setSeq i x).cmp = s.cmp := rfl
@[simp] theorem State.setSeq_strm (s : State) (i : Nat) (x : SeqEntry) : (s.setSeq i x).strm = s.strm := rfl
@[simp] theorem State.setSeq_slv (s : State) (i : Nat) (x : SeqEntry) : (s.setSeq i x).slv = s.slv := rfl
@[simp] theorem State.setSeq_cap (s : State) (i : Nat) (x : SeqEntry) : (s.setSeq i x).cap = s.cap := rfl
@[simp] theorem State.setSeq_ppe (s : State) (i : Nat) (x : SeqEntry) : (s.setSeq i x).ppe = s.ppe := rfl
@[simp] theorem State.setSeq_cans (s : State) (i : Nat) (x : SeqEntry) : (s.setSeq i x).cans = s.cans := rfl
@[simp] theorem State.setSeq_eths (s : State) (i : Nat) (x : SeqEntry) : (s.setSeq i x).eths = s.eths := rfl
@[simp] theorem State.setSeq_lnk (s : State) (i : Nat) (x : SeqEntry) : (s.setSeq i x).lnk = s.lnk := rfl
@[simp] theorem State.setSeq_sec (s : State) (i : Nat) (x : SeqEntry) : (s.setSeq i x).sec = s.sec := rfl
@[simp] theorem State.setSeq_flash (s : State) (i : Nat) (x : SeqEntry) : (s.setSeq i x).flash = s.flash := rfl
@[simp] theorem State.setSeq_image (s : State) (i : Nat) (x : SeqEntry) : (s.setSeq i x).image = s.image := rfl
@[simp] theorem State.setSeq_hostMem (s : State) (i : Nat) (x : SeqEntry) : (s.setSeq i x).hostMem = s.hostMem := rfl
@[simp] theorem State.setSeq_hubMem (s : State) (i : Nat) (x : SeqEntry) : (s.setSeq i x).hubMem = s.hubMem := rfl
@[simp] theorem State.setSeq_free (s : State) (i : Nat) (x : SeqEntry) : (s.setSeq i x).free = s.free := rfl
@[simp] theorem State.setSeq_mark (s : State) (i : Nat) (x : SeqEntry) : (s.setSeq i x).mark = s.mark := rfl
@[simp] theorem State.setSeq_records (s : State) (i : Nat) (x : SeqEntry) : (s.setSeq i x).records = s.records := rfl

@[simp] theorem State.setProb_pending (s : State) (i : Nat) (x : Prob) : (s.setProb i x).pending = s.pending := rfl
@[simp] theorem State.setProb_powered (s : State) (i : Nat) (x : Prob) : (s.setProb i x).powered = s.powered := rfl
@[simp] theorem State.setProb_glob (s : State) (i : Nat) (x : Prob) : (s.setProb i x).glob = s.glob := rfl
@[simp] theorem State.setProb_time (s : State) (i : Nat) (x : Prob) : (s.setProb i x).time = s.time := rfl
@[simp] theorem State.setProb_sched (s : State) (i : Nat) (x : Prob) : (s.setProb i x).sched = s.sched := rfl
@[simp] theorem State.setProb_cmd (s : State) (i : Nat) (x : Prob) : (s.setProb i x).cmd = s.cmd := rfl
@[simp] theorem State.setProb_sync (s : State) (i : Nat) (x : Prob) : (s.setProb i x).sync = s.sync := rfl
@[simp] theorem State.setProb_safe (s : State) (i : Nat) (x : Prob) : (s.setProb i x).safe = s.safe := rfl
@[simp] theorem State.setProb_pwr (s : State) (i : Nat) (x : Prob) : (s.setProb i x).pwr = s.pwr := rfl
@[simp] theorem State.setProb_cte (s : State) (i : Nat) (x : Prob) : (s.setProb i x).cte = s.cte := rfl
@[simp] theorem State.setProb_mio (s : State) (i : Nat) (x : Prob) : (s.setProb i x).mio = s.mio := rfl
@[simp] theorem State.setProb_cmp (s : State) (i : Nat) (x : Prob) : (s.setProb i x).cmp = s.cmp := rfl
@[simp] theorem State.setProb_srv (s : State) (i : Nat) (x : Prob) : (s.setProb i x).srv = s.srv := rfl
@[simp] theorem State.setProb_strm (s : State) (i : Nat) (x : Prob) : (s.setProb i x).strm = s.strm := rfl
@[simp] theorem State.setProb_cap (s : State) (i : Nat) (x : Prob) : (s.setProb i x).cap = s.cap := rfl
@[simp] theorem State.setProb_ppe (s : State) (i : Nat) (x : Prob) : (s.setProb i x).ppe = s.ppe := rfl
@[simp] theorem State.setProb_cans (s : State) (i : Nat) (x : Prob) : (s.setProb i x).cans = s.cans := rfl
@[simp] theorem State.setProb_eths (s : State) (i : Nat) (x : Prob) : (s.setProb i x).eths = s.eths := rfl
@[simp] theorem State.setProb_lnk (s : State) (i : Nat) (x : Prob) : (s.setProb i x).lnk = s.lnk := rfl
@[simp] theorem State.setProb_sec (s : State) (i : Nat) (x : Prob) : (s.setProb i x).sec = s.sec := rfl
@[simp] theorem State.setProb_flash (s : State) (i : Nat) (x : Prob) : (s.setProb i x).flash = s.flash := rfl
@[simp] theorem State.setProb_image (s : State) (i : Nat) (x : Prob) : (s.setProb i x).image = s.image := rfl
@[simp] theorem State.setProb_hostMem (s : State) (i : Nat) (x : Prob) : (s.setProb i x).hostMem = s.hostMem := rfl
@[simp] theorem State.setProb_hubMem (s : State) (i : Nat) (x : Prob) : (s.setProb i x).hubMem = s.hubMem := rfl
@[simp] theorem State.setProb_free (s : State) (i : Nat) (x : Prob) : (s.setProb i x).free = s.free := rfl
@[simp] theorem State.setProb_mark (s : State) (i : Nat) (x : Prob) : (s.setProb i x).mark = s.mark := rfl
@[simp] theorem State.setProb_records (s : State) (i : Nat) (x : Prob) : (s.setProb i x).records = s.records := rfl

@[simp] theorem State.dom_setDom (s : State) (d m : Nat) (x : Domain) : (s.setDom d x).dom m = if m = d then x else s.dom m :=
  tblGet_tblSet _ _ _ _ _
@[simp] theorem State.ctx_setCtx (s : State) (c m : Nat) (x : Ctx) : (s.setCtx c x).ctx m = if m = c then x else s.ctx m :=
  tblGet_tblSet _ _ _ _ _
@[simp] theorem State.counter_setCounter (s : State) (k m : Nat) (x : Counter) : (s.setCounter k x).counter m = if m = k then x else s.counter m :=
  tblGet_tblSet _ _ _ _ _
@[simp] theorem State.loop_setLoop (s : State) (n m : Nat) (x : Loop) : (s.setLoop n x).loop m = if m = n then x else s.loop m :=
  tblGet_tblSet _ _ _ _ _
@[simp] theorem State.group_setGroup (s : State) (g m : Nat) (x : Group) : (s.setGroup g x).group m = if m = g then x else s.group m :=
  tblGet_tblSet _ _ _ _ _
@[simp] theorem State.region_setRegion (s : State) (k m : Nat) (x : Region) : (s.setRegion k x).region m = if m = k then x else s.region m :=
  tblGet_tblSet _ _ _ _ _
@[simp] theorem State.port_setPort (s : State) (k m : Nat) (x : RegionSp) : (s.setPort k x).port m = if m = k then x else s.port m :=
  tblGet_tblSet _ _ _ _ _
@[simp] theorem State.can_setCan (s : State) (c m : Nat) (x : Can) : (s.setCan c x).can m = if m = c then x else s.can m :=
  tblGet_tblSet _ _ _ _ _
@[simp] theorem State.eth_setEth (s : State) (p m : Nat) (x : Eth) : (s.setEth p x).eth m = if m = p then x else s.eth m :=
  tblGet_tblSet _ _ _ _ _
@[simp] theorem State.cam_setCam (s : State) (i m : Nat) (x : Cam) : (s.setCam i x).cam m = if m = i then x else s.cam m :=
  tblGet_tblSet _ _ _ _ _
@[simp] theorem State.stream_setStream (s : State) (i m : Nat) (x : Strm) : (s.setStream i x).stream m = if m = i then x else s.stream m :=
  tblGet_tblSet _ _ _ _ _
@[simp] theorem State.seq_setSeq (s : State) (i m : Nat) (x : SeqEntry) : (s.setSeq i x).seq m = if m = i then x else s.seq m :=
  tblGet_tblSet _ _ _ _ _
@[simp] theorem State.prob_setProb (s : State) (i m : Nat) (x : Prob) : (s.setProb i x).prob m = if m = i then x else s.prob m :=
  tblGet_tblSet _ _ _ _ _

@[simp] theorem State.ctx_advance_other (s : State) (t : Nat) (m : Nat) : (s.advance t).ctx m = s.ctx m := rfl
@[simp] theorem State.counter_advance_other (s : State) (t : Nat) (m : Nat) : (s.advance t).counter m = s.counter m := rfl
@[simp] theorem State.loop_advance_other (s : State) (t : Nat) (m : Nat) : (s.advance t).loop m = s.loop m := rfl
@[simp] theorem State.group_advance_other (s : State) (t : Nat) (m : Nat) : (s.advance t).group m = s.group m := rfl
@[simp] theorem State.region_advance_other (s : State) (t : Nat) (m : Nat) : (s.advance t).region m = s.region m := rfl
@[simp] theorem State.port_advance_other (s : State) (t : Nat) (m : Nat) : (s.advance t).port m = s.port m := rfl
@[simp] theorem State.can_advance_other (s : State) (t : Nat) (m : Nat) : (s.advance t).can m = s.can m := rfl
@[simp] theorem State.eth_advance_other (s : State) (t : Nat) (m : Nat) : (s.advance t).eth m = s.eth m := rfl
@[simp] theorem State.stream_advance_other (s : State) (t : Nat) (m : Nat) : (s.advance t).stream m = s.stream m := rfl
@[simp] theorem State.seq_advance_other (s : State) (t : Nat) (m : Nat) : (s.advance t).seq m = s.seq m := rfl
@[simp] theorem State.prob_advance_other (s : State) (t : Nat) (m : Nat) : (s.advance t).prob m = s.prob m := rfl
@[simp] theorem State.ctx_setDom_other (s : State) (d : Nat) (x : Domain) (m : Nat) : (s.setDom d x).ctx m = s.ctx m := rfl
@[simp] theorem State.counter_setDom_other (s : State) (d : Nat) (x : Domain) (m : Nat) : (s.setDom d x).counter m = s.counter m := rfl
@[simp] theorem State.loop_setDom_other (s : State) (d : Nat) (x : Domain) (m : Nat) : (s.setDom d x).loop m = s.loop m := rfl
@[simp] theorem State.group_setDom_other (s : State) (d : Nat) (x : Domain) (m : Nat) : (s.setDom d x).group m = s.group m := rfl
@[simp] theorem State.region_setDom_other (s : State) (d : Nat) (x : Domain) (m : Nat) : (s.setDom d x).region m = s.region m := rfl
@[simp] theorem State.port_setDom_other (s : State) (d : Nat) (x : Domain) (m : Nat) : (s.setDom d x).port m = s.port m := rfl
@[simp] theorem State.can_setDom_other (s : State) (d : Nat) (x : Domain) (m : Nat) : (s.setDom d x).can m = s.can m := rfl
@[simp] theorem State.eth_setDom_other (s : State) (d : Nat) (x : Domain) (m : Nat) : (s.setDom d x).eth m = s.eth m := rfl
@[simp] theorem State.stream_setDom_other (s : State) (d : Nat) (x : Domain) (m : Nat) : (s.setDom d x).stream m = s.stream m := rfl
@[simp] theorem State.seq_setDom_other (s : State) (d : Nat) (x : Domain) (m : Nat) : (s.setDom d x).seq m = s.seq m := rfl
@[simp] theorem State.prob_setDom_other (s : State) (d : Nat) (x : Domain) (m : Nat) : (s.setDom d x).prob m = s.prob m := rfl
@[simp] theorem State.dom_setCtx_other (s : State) (c : Nat) (x : Ctx) (m : Nat) : (s.setCtx c x).dom m = s.dom m := rfl
@[simp] theorem State.counter_setCtx_other (s : State) (c : Nat) (x : Ctx) (m : Nat) : (s.setCtx c x).counter m = s.counter m := rfl
@[simp] theorem State.loop_setCtx_other (s : State) (c : Nat) (x : Ctx) (m : Nat) : (s.setCtx c x).loop m = s.loop m := rfl
@[simp] theorem State.group_setCtx_other (s : State) (c : Nat) (x : Ctx) (m : Nat) : (s.setCtx c x).group m = s.group m := rfl
@[simp] theorem State.region_setCtx_other (s : State) (c : Nat) (x : Ctx) (m : Nat) : (s.setCtx c x).region m = s.region m := rfl
@[simp] theorem State.port_setCtx_other (s : State) (c : Nat) (x : Ctx) (m : Nat) : (s.setCtx c x).port m = s.port m := rfl
@[simp] theorem State.can_setCtx_other (s : State) (c : Nat) (x : Ctx) (m : Nat) : (s.setCtx c x).can m = s.can m := rfl
@[simp] theorem State.eth_setCtx_other (s : State) (c : Nat) (x : Ctx) (m : Nat) : (s.setCtx c x).eth m = s.eth m := rfl
@[simp] theorem State.stream_setCtx_other (s : State) (c : Nat) (x : Ctx) (m : Nat) : (s.setCtx c x).stream m = s.stream m := rfl
@[simp] theorem State.seq_setCtx_other (s : State) (c : Nat) (x : Ctx) (m : Nat) : (s.setCtx c x).seq m = s.seq m := rfl
@[simp] theorem State.prob_setCtx_other (s : State) (c : Nat) (x : Ctx) (m : Nat) : (s.setCtx c x).prob m = s.prob m := rfl
@[simp] theorem State.dom_setCounter_other (s : State) (k : Nat) (x : Counter) (m : Nat) : (s.setCounter k x).dom m = s.dom m := rfl
@[simp] theorem State.ctx_setCounter_other (s : State) (k : Nat) (x : Counter) (m : Nat) : (s.setCounter k x).ctx m = s.ctx m := rfl
@[simp] theorem State.loop_setCounter_other (s : State) (k : Nat) (x : Counter) (m : Nat) : (s.setCounter k x).loop m = s.loop m := rfl
@[simp] theorem State.group_setCounter_other (s : State) (k : Nat) (x : Counter) (m : Nat) : (s.setCounter k x).group m = s.group m := rfl
@[simp] theorem State.region_setCounter_other (s : State) (k : Nat) (x : Counter) (m : Nat) : (s.setCounter k x).region m = s.region m := rfl
@[simp] theorem State.port_setCounter_other (s : State) (k : Nat) (x : Counter) (m : Nat) : (s.setCounter k x).port m = s.port m := rfl
@[simp] theorem State.can_setCounter_other (s : State) (k : Nat) (x : Counter) (m : Nat) : (s.setCounter k x).can m = s.can m := rfl
@[simp] theorem State.eth_setCounter_other (s : State) (k : Nat) (x : Counter) (m : Nat) : (s.setCounter k x).eth m = s.eth m := rfl
@[simp] theorem State.stream_setCounter_other (s : State) (k : Nat) (x : Counter) (m : Nat) : (s.setCounter k x).stream m = s.stream m := rfl
@[simp] theorem State.seq_setCounter_other (s : State) (k : Nat) (x : Counter) (m : Nat) : (s.setCounter k x).seq m = s.seq m := rfl
@[simp] theorem State.prob_setCounter_other (s : State) (k : Nat) (x : Counter) (m : Nat) : (s.setCounter k x).prob m = s.prob m := rfl
@[simp] theorem State.dom_setLoop_other (s : State) (n : Nat) (x : Loop) (m : Nat) : (s.setLoop n x).dom m = s.dom m := rfl
@[simp] theorem State.ctx_setLoop_other (s : State) (n : Nat) (x : Loop) (m : Nat) : (s.setLoop n x).ctx m = s.ctx m := rfl
@[simp] theorem State.counter_setLoop_other (s : State) (n : Nat) (x : Loop) (m : Nat) : (s.setLoop n x).counter m = s.counter m := rfl
@[simp] theorem State.group_setLoop_other (s : State) (n : Nat) (x : Loop) (m : Nat) : (s.setLoop n x).group m = s.group m := rfl
@[simp] theorem State.region_setLoop_other (s : State) (n : Nat) (x : Loop) (m : Nat) : (s.setLoop n x).region m = s.region m := rfl
@[simp] theorem State.port_setLoop_other (s : State) (n : Nat) (x : Loop) (m : Nat) : (s.setLoop n x).port m = s.port m := rfl
@[simp] theorem State.can_setLoop_other (s : State) (n : Nat) (x : Loop) (m : Nat) : (s.setLoop n x).can m = s.can m := rfl
@[simp] theorem State.eth_setLoop_other (s : State) (n : Nat) (x : Loop) (m : Nat) : (s.setLoop n x).eth m = s.eth m := rfl
@[simp] theorem State.stream_setLoop_other (s : State) (n : Nat) (x : Loop) (m : Nat) : (s.setLoop n x).stream m = s.stream m := rfl
@[simp] theorem State.seq_setLoop_other (s : State) (n : Nat) (x : Loop) (m : Nat) : (s.setLoop n x).seq m = s.seq m := rfl
@[simp] theorem State.prob_setLoop_other (s : State) (n : Nat) (x : Loop) (m : Nat) : (s.setLoop n x).prob m = s.prob m := rfl
@[simp] theorem State.dom_setGroup_other (s : State) (g : Nat) (x : Group) (m : Nat) : (s.setGroup g x).dom m = s.dom m := rfl
@[simp] theorem State.ctx_setGroup_other (s : State) (g : Nat) (x : Group) (m : Nat) : (s.setGroup g x).ctx m = s.ctx m := rfl
@[simp] theorem State.counter_setGroup_other (s : State) (g : Nat) (x : Group) (m : Nat) : (s.setGroup g x).counter m = s.counter m := rfl
@[simp] theorem State.loop_setGroup_other (s : State) (g : Nat) (x : Group) (m : Nat) : (s.setGroup g x).loop m = s.loop m := rfl
@[simp] theorem State.region_setGroup_other (s : State) (g : Nat) (x : Group) (m : Nat) : (s.setGroup g x).region m = s.region m := rfl
@[simp] theorem State.port_setGroup_other (s : State) (g : Nat) (x : Group) (m : Nat) : (s.setGroup g x).port m = s.port m := rfl
@[simp] theorem State.can_setGroup_other (s : State) (g : Nat) (x : Group) (m : Nat) : (s.setGroup g x).can m = s.can m := rfl
@[simp] theorem State.eth_setGroup_other (s : State) (g : Nat) (x : Group) (m : Nat) : (s.setGroup g x).eth m = s.eth m := rfl
@[simp] theorem State.stream_setGroup_other (s : State) (g : Nat) (x : Group) (m : Nat) : (s.setGroup g x).stream m = s.stream m := rfl
@[simp] theorem State.seq_setGroup_other (s : State) (g : Nat) (x : Group) (m : Nat) : (s.setGroup g x).seq m = s.seq m := rfl
@[simp] theorem State.prob_setGroup_other (s : State) (g : Nat) (x : Group) (m : Nat) : (s.setGroup g x).prob m = s.prob m := rfl
@[simp] theorem State.dom_setRegion_other (s : State) (k : Nat) (x : Region) (m : Nat) : (s.setRegion k x).dom m = s.dom m := rfl
@[simp] theorem State.ctx_setRegion_other (s : State) (k : Nat) (x : Region) (m : Nat) : (s.setRegion k x).ctx m = s.ctx m := rfl
@[simp] theorem State.counter_setRegion_other (s : State) (k : Nat) (x : Region) (m : Nat) : (s.setRegion k x).counter m = s.counter m := rfl
@[simp] theorem State.loop_setRegion_other (s : State) (k : Nat) (x : Region) (m : Nat) : (s.setRegion k x).loop m = s.loop m := rfl
@[simp] theorem State.group_setRegion_other (s : State) (k : Nat) (x : Region) (m : Nat) : (s.setRegion k x).group m = s.group m := rfl
@[simp] theorem State.port_setRegion_other (s : State) (k : Nat) (x : Region) (m : Nat) : (s.setRegion k x).port m = s.port m := rfl
@[simp] theorem State.can_setRegion_other (s : State) (k : Nat) (x : Region) (m : Nat) : (s.setRegion k x).can m = s.can m := rfl
@[simp] theorem State.eth_setRegion_other (s : State) (k : Nat) (x : Region) (m : Nat) : (s.setRegion k x).eth m = s.eth m := rfl
@[simp] theorem State.stream_setRegion_other (s : State) (k : Nat) (x : Region) (m : Nat) : (s.setRegion k x).stream m = s.stream m := rfl
@[simp] theorem State.seq_setRegion_other (s : State) (k : Nat) (x : Region) (m : Nat) : (s.setRegion k x).seq m = s.seq m := rfl
@[simp] theorem State.prob_setRegion_other (s : State) (k : Nat) (x : Region) (m : Nat) : (s.setRegion k x).prob m = s.prob m := rfl
@[simp] theorem State.dom_setPort_other (s : State) (k : Nat) (x : RegionSp) (m : Nat) : (s.setPort k x).dom m = s.dom m := rfl
@[simp] theorem State.ctx_setPort_other (s : State) (k : Nat) (x : RegionSp) (m : Nat) : (s.setPort k x).ctx m = s.ctx m := rfl
@[simp] theorem State.counter_setPort_other (s : State) (k : Nat) (x : RegionSp) (m : Nat) : (s.setPort k x).counter m = s.counter m := rfl
@[simp] theorem State.loop_setPort_other (s : State) (k : Nat) (x : RegionSp) (m : Nat) : (s.setPort k x).loop m = s.loop m := rfl
@[simp] theorem State.group_setPort_other (s : State) (k : Nat) (x : RegionSp) (m : Nat) : (s.setPort k x).group m = s.group m := rfl
@[simp] theorem State.region_setPort_other (s : State) (k : Nat) (x : RegionSp) (m : Nat) : (s.setPort k x).region m = s.region m := rfl
@[simp] theorem State.can_setPort_other (s : State) (k : Nat) (x : RegionSp) (m : Nat) : (s.setPort k x).can m = s.can m := rfl
@[simp] theorem State.eth_setPort_other (s : State) (k : Nat) (x : RegionSp) (m : Nat) : (s.setPort k x).eth m = s.eth m := rfl
@[simp] theorem State.stream_setPort_other (s : State) (k : Nat) (x : RegionSp) (m : Nat) : (s.setPort k x).stream m = s.stream m := rfl
@[simp] theorem State.seq_setPort_other (s : State) (k : Nat) (x : RegionSp) (m : Nat) : (s.setPort k x).seq m = s.seq m := rfl
@[simp] theorem State.prob_setPort_other (s : State) (k : Nat) (x : RegionSp) (m : Nat) : (s.setPort k x).prob m = s.prob m := rfl
@[simp] theorem State.dom_setCan_other (s : State) (c : Nat) (x : Can) (m : Nat) : (s.setCan c x).dom m = s.dom m := rfl
@[simp] theorem State.ctx_setCan_other (s : State) (c : Nat) (x : Can) (m : Nat) : (s.setCan c x).ctx m = s.ctx m := rfl
@[simp] theorem State.counter_setCan_other (s : State) (c : Nat) (x : Can) (m : Nat) : (s.setCan c x).counter m = s.counter m := rfl
@[simp] theorem State.loop_setCan_other (s : State) (c : Nat) (x : Can) (m : Nat) : (s.setCan c x).loop m = s.loop m := rfl
@[simp] theorem State.group_setCan_other (s : State) (c : Nat) (x : Can) (m : Nat) : (s.setCan c x).group m = s.group m := rfl
@[simp] theorem State.region_setCan_other (s : State) (c : Nat) (x : Can) (m : Nat) : (s.setCan c x).region m = s.region m := rfl
@[simp] theorem State.port_setCan_other (s : State) (c : Nat) (x : Can) (m : Nat) : (s.setCan c x).port m = s.port m := rfl
@[simp] theorem State.eth_setCan_other (s : State) (c : Nat) (x : Can) (m : Nat) : (s.setCan c x).eth m = s.eth m := rfl
@[simp] theorem State.stream_setCan_other (s : State) (c : Nat) (x : Can) (m : Nat) : (s.setCan c x).stream m = s.stream m := rfl
@[simp] theorem State.seq_setCan_other (s : State) (c : Nat) (x : Can) (m : Nat) : (s.setCan c x).seq m = s.seq m := rfl
@[simp] theorem State.prob_setCan_other (s : State) (c : Nat) (x : Can) (m : Nat) : (s.setCan c x).prob m = s.prob m := rfl
@[simp] theorem State.dom_setEth_other (s : State) (p : Nat) (x : Eth) (m : Nat) : (s.setEth p x).dom m = s.dom m := rfl
@[simp] theorem State.ctx_setEth_other (s : State) (p : Nat) (x : Eth) (m : Nat) : (s.setEth p x).ctx m = s.ctx m := rfl
@[simp] theorem State.counter_setEth_other (s : State) (p : Nat) (x : Eth) (m : Nat) : (s.setEth p x).counter m = s.counter m := rfl
@[simp] theorem State.loop_setEth_other (s : State) (p : Nat) (x : Eth) (m : Nat) : (s.setEth p x).loop m = s.loop m := rfl
@[simp] theorem State.group_setEth_other (s : State) (p : Nat) (x : Eth) (m : Nat) : (s.setEth p x).group m = s.group m := rfl
@[simp] theorem State.region_setEth_other (s : State) (p : Nat) (x : Eth) (m : Nat) : (s.setEth p x).region m = s.region m := rfl
@[simp] theorem State.port_setEth_other (s : State) (p : Nat) (x : Eth) (m : Nat) : (s.setEth p x).port m = s.port m := rfl
@[simp] theorem State.can_setEth_other (s : State) (p : Nat) (x : Eth) (m : Nat) : (s.setEth p x).can m = s.can m := rfl
@[simp] theorem State.stream_setEth_other (s : State) (p : Nat) (x : Eth) (m : Nat) : (s.setEth p x).stream m = s.stream m := rfl
@[simp] theorem State.seq_setEth_other (s : State) (p : Nat) (x : Eth) (m : Nat) : (s.setEth p x).seq m = s.seq m := rfl
@[simp] theorem State.prob_setEth_other (s : State) (p : Nat) (x : Eth) (m : Nat) : (s.setEth p x).prob m = s.prob m := rfl
@[simp] theorem State.dom_setCam_other (s : State) (i : Nat) (x : Cam) (m : Nat) : (s.setCam i x).dom m = s.dom m := rfl
@[simp] theorem State.ctx_setCam_other (s : State) (i : Nat) (x : Cam) (m : Nat) : (s.setCam i x).ctx m = s.ctx m := rfl
@[simp] theorem State.counter_setCam_other (s : State) (i : Nat) (x : Cam) (m : Nat) : (s.setCam i x).counter m = s.counter m := rfl
@[simp] theorem State.loop_setCam_other (s : State) (i : Nat) (x : Cam) (m : Nat) : (s.setCam i x).loop m = s.loop m := rfl
@[simp] theorem State.group_setCam_other (s : State) (i : Nat) (x : Cam) (m : Nat) : (s.setCam i x).group m = s.group m := rfl
@[simp] theorem State.region_setCam_other (s : State) (i : Nat) (x : Cam) (m : Nat) : (s.setCam i x).region m = s.region m := rfl
@[simp] theorem State.port_setCam_other (s : State) (i : Nat) (x : Cam) (m : Nat) : (s.setCam i x).port m = s.port m := rfl
@[simp] theorem State.can_setCam_other (s : State) (i : Nat) (x : Cam) (m : Nat) : (s.setCam i x).can m = s.can m := rfl
@[simp] theorem State.eth_setCam_other (s : State) (i : Nat) (x : Cam) (m : Nat) : (s.setCam i x).eth m = s.eth m := rfl
@[simp] theorem State.stream_setCam_other (s : State) (i : Nat) (x : Cam) (m : Nat) : (s.setCam i x).stream m = s.stream m := rfl
@[simp] theorem State.seq_setCam_other (s : State) (i : Nat) (x : Cam) (m : Nat) : (s.setCam i x).seq m = s.seq m := rfl
@[simp] theorem State.prob_setCam_other (s : State) (i : Nat) (x : Cam) (m : Nat) : (s.setCam i x).prob m = s.prob m := rfl
@[simp] theorem State.dom_setStream_other (s : State) (i : Nat) (x : Strm) (m : Nat) : (s.setStream i x).dom m = s.dom m := rfl
@[simp] theorem State.ctx_setStream_other (s : State) (i : Nat) (x : Strm) (m : Nat) : (s.setStream i x).ctx m = s.ctx m := rfl
@[simp] theorem State.counter_setStream_other (s : State) (i : Nat) (x : Strm) (m : Nat) : (s.setStream i x).counter m = s.counter m := rfl
@[simp] theorem State.loop_setStream_other (s : State) (i : Nat) (x : Strm) (m : Nat) : (s.setStream i x).loop m = s.loop m := rfl
@[simp] theorem State.group_setStream_other (s : State) (i : Nat) (x : Strm) (m : Nat) : (s.setStream i x).group m = s.group m := rfl
@[simp] theorem State.region_setStream_other (s : State) (i : Nat) (x : Strm) (m : Nat) : (s.setStream i x).region m = s.region m := rfl
@[simp] theorem State.port_setStream_other (s : State) (i : Nat) (x : Strm) (m : Nat) : (s.setStream i x).port m = s.port m := rfl
@[simp] theorem State.can_setStream_other (s : State) (i : Nat) (x : Strm) (m : Nat) : (s.setStream i x).can m = s.can m := rfl
@[simp] theorem State.eth_setStream_other (s : State) (i : Nat) (x : Strm) (m : Nat) : (s.setStream i x).eth m = s.eth m := rfl
@[simp] theorem State.seq_setStream_other (s : State) (i : Nat) (x : Strm) (m : Nat) : (s.setStream i x).seq m = s.seq m := rfl
@[simp] theorem State.prob_setStream_other (s : State) (i : Nat) (x : Strm) (m : Nat) : (s.setStream i x).prob m = s.prob m := rfl
@[simp] theorem State.dom_setSeq_other (s : State) (i : Nat) (x : SeqEntry) (m : Nat) : (s.setSeq i x).dom m = s.dom m := rfl
@[simp] theorem State.ctx_setSeq_other (s : State) (i : Nat) (x : SeqEntry) (m : Nat) : (s.setSeq i x).ctx m = s.ctx m := rfl
@[simp] theorem State.counter_setSeq_other (s : State) (i : Nat) (x : SeqEntry) (m : Nat) : (s.setSeq i x).counter m = s.counter m := rfl
@[simp] theorem State.loop_setSeq_other (s : State) (i : Nat) (x : SeqEntry) (m : Nat) : (s.setSeq i x).loop m = s.loop m := rfl
@[simp] theorem State.group_setSeq_other (s : State) (i : Nat) (x : SeqEntry) (m : Nat) : (s.setSeq i x).group m = s.group m := rfl
@[simp] theorem State.region_setSeq_other (s : State) (i : Nat) (x : SeqEntry) (m : Nat) : (s.setSeq i x).region m = s.region m := rfl
@[simp] theorem State.port_setSeq_other (s : State) (i : Nat) (x : SeqEntry) (m : Nat) : (s.setSeq i x).port m = s.port m := rfl
@[simp] theorem State.can_setSeq_other (s : State) (i : Nat) (x : SeqEntry) (m : Nat) : (s.setSeq i x).can m = s.can m := rfl
@[simp] theorem State.eth_setSeq_other (s : State) (i : Nat) (x : SeqEntry) (m : Nat) : (s.setSeq i x).eth m = s.eth m := rfl
@[simp] theorem State.stream_setSeq_other (s : State) (i : Nat) (x : SeqEntry) (m : Nat) : (s.setSeq i x).stream m = s.stream m := rfl
@[simp] theorem State.prob_setSeq_other (s : State) (i : Nat) (x : SeqEntry) (m : Nat) : (s.setSeq i x).prob m = s.prob m := rfl
@[simp] theorem State.dom_setProb_other (s : State) (i : Nat) (x : Prob) (m : Nat) : (s.setProb i x).dom m = s.dom m := rfl
@[simp] theorem State.ctx_setProb_other (s : State) (i : Nat) (x : Prob) (m : Nat) : (s.setProb i x).ctx m = s.ctx m := rfl
@[simp] theorem State.counter_setProb_other (s : State) (i : Nat) (x : Prob) (m : Nat) : (s.setProb i x).counter m = s.counter m := rfl
@[simp] theorem State.loop_setProb_other (s : State) (i : Nat) (x : Prob) (m : Nat) : (s.setProb i x).loop m = s.loop m := rfl
@[simp] theorem State.group_setProb_other (s : State) (i : Nat) (x : Prob) (m : Nat) : (s.setProb i x).group m = s.group m := rfl
@[simp] theorem State.region_setProb_other (s : State) (i : Nat) (x : Prob) (m : Nat) : (s.setProb i x).region m = s.region m := rfl
@[simp] theorem State.port_setProb_other (s : State) (i : Nat) (x : Prob) (m : Nat) : (s.setProb i x).port m = s.port m := rfl
@[simp] theorem State.can_setProb_other (s : State) (i : Nat) (x : Prob) (m : Nat) : (s.setProb i x).can m = s.can m := rfl
@[simp] theorem State.eth_setProb_other (s : State) (i : Nat) (x : Prob) (m : Nat) : (s.setProb i x).eth m = s.eth m := rfl
@[simp] theorem State.stream_setProb_other (s : State) (i : Nat) (x : Prob) (m : Nat) : (s.setProb i x).stream m = s.stream m := rfl
@[simp] theorem State.seq_setProb_other (s : State) (i : Nat) (x : Prob) (m : Nat) : (s.setProb i x).seq m = s.seq m := rfl
@[simp] theorem State.dom_advance (s : State) (t d : Nat) : (s.advance t).dom d = s.dom d := rfl
@[simp] theorem State.advance_cnt (s : State) (t : Nat) : (s.advance t).time.cnt = max s.time.cnt t := rfl
@[simp] theorem State.setDom_cnt (s : State) (d : Nat) (x : Domain) : (s.setDom d x).time.cnt = s.time.cnt := rfl

@[simp] theorem State.recorded_pending (s : State) (a : Nat) : (s.recorded a).pending = s.pending := rfl
@[simp] theorem State.recorded_powered (s : State) (a : Nat) : (s.recorded a).powered = s.powered := rfl
@[simp] theorem State.recorded_glob (s : State) (a : Nat) : (s.recorded a).glob = s.glob := rfl
@[simp] theorem State.recorded_time (s : State) (a : Nat) : (s.recorded a).time = s.time := rfl
@[simp] theorem State.recorded_sched (s : State) (a : Nat) : (s.recorded a).sched = s.sched := rfl
@[simp] theorem State.recorded_cmd (s : State) (a : Nat) : (s.recorded a).cmd = s.cmd := rfl
@[simp] theorem State.recorded_sync (s : State) (a : Nat) : (s.recorded a).sync = s.sync := rfl
@[simp] theorem State.recorded_safe (s : State) (a : Nat) : (s.recorded a).safe = s.safe := rfl
@[simp] theorem State.recorded_pwr (s : State) (a : Nat) : (s.recorded a).pwr = s.pwr := rfl
@[simp] theorem State.recorded_cte (s : State) (a : Nat) : (s.recorded a).cte = s.cte := rfl
@[simp] theorem State.recorded_mio (s : State) (a : Nat) : (s.recorded a).mio = s.mio := rfl
@[simp] theorem State.recorded_cmp (s : State) (a : Nat) : (s.recorded a).cmp = s.cmp := rfl
@[simp] theorem State.recorded_srv (s : State) (a : Nat) : (s.recorded a).srv = s.srv := rfl
@[simp] theorem State.recorded_strm (s : State) (a : Nat) : (s.recorded a).strm = s.strm := rfl
@[simp] theorem State.recorded_slv (s : State) (a : Nat) : (s.recorded a).slv = s.slv := rfl
@[simp] theorem State.recorded_cap (s : State) (a : Nat) : (s.recorded a).cap = s.cap := rfl
@[simp] theorem State.recorded_ppe (s : State) (a : Nat) : (s.recorded a).ppe = s.ppe := rfl
@[simp] theorem State.recorded_cans (s : State) (a : Nat) : (s.recorded a).cans = s.cans := rfl
@[simp] theorem State.recorded_eths (s : State) (a : Nat) : (s.recorded a).eths = s.eths := rfl
@[simp] theorem State.recorded_lnk (s : State) (a : Nat) : (s.recorded a).lnk = s.lnk := rfl
@[simp] theorem State.recorded_sec (s : State) (a : Nat) : (s.recorded a).sec = s.sec := rfl
@[simp] theorem State.recorded_flash (s : State) (a : Nat) : (s.recorded a).flash = s.flash := rfl
@[simp] theorem State.recorded_image (s : State) (a : Nat) : (s.recorded a).image = s.image := rfl
@[simp] theorem State.recorded_hostMem (s : State) (a : Nat) : (s.recorded a).hostMem = s.hostMem := rfl
@[simp] theorem State.recorded_hubMem (s : State) (a : Nat) : (s.recorded a).hubMem = s.hubMem := rfl
@[simp] theorem State.recorded_free (s : State) (a : Nat) : (s.recorded a).free = s.free := rfl
@[simp] theorem State.recorded_mark (s : State) (a : Nat) : (s.recorded a).mark = s.mark := rfl

@[simp] theorem State.updWork_pending (s : State) (id : WorkId) (f : Work → Work) : (s.updWork id f).pending = s.pending := rfl
@[simp] theorem State.updWork_powered (s : State) (id : WorkId) (f : Work → Work) : (s.updWork id f).powered = s.powered := rfl
@[simp] theorem State.updWork_glob (s : State) (id : WorkId) (f : Work → Work) : (s.updWork id f).glob = s.glob := rfl
@[simp] theorem State.updWork_time (s : State) (id : WorkId) (f : Work → Work) : (s.updWork id f).time = s.time := rfl
@[simp] theorem State.updWork_sched (s : State) (id : WorkId) (f : Work → Work) : (s.updWork id f).sched = s.sched := rfl
@[simp] theorem State.updWork_cmd (s : State) (id : WorkId) (f : Work → Work) : (s.updWork id f).cmd = s.cmd := rfl
@[simp] theorem State.updWork_sync (s : State) (id : WorkId) (f : Work → Work) : (s.updWork id f).sync = s.sync := rfl
@[simp] theorem State.updWork_safe (s : State) (id : WorkId) (f : Work → Work) : (s.updWork id f).safe = s.safe := rfl
@[simp] theorem State.updWork_pwr (s : State) (id : WorkId) (f : Work → Work) : (s.updWork id f).pwr = s.pwr := rfl
@[simp] theorem State.updWork_cte (s : State) (id : WorkId) (f : Work → Work) : (s.updWork id f).cte = s.cte := rfl
@[simp] theorem State.updWork_mio (s : State) (id : WorkId) (f : Work → Work) : (s.updWork id f).mio = s.mio := rfl
@[simp] theorem State.updWork_srv (s : State) (id : WorkId) (f : Work → Work) : (s.updWork id f).srv = s.srv := rfl
@[simp] theorem State.updWork_strm (s : State) (id : WorkId) (f : Work → Work) : (s.updWork id f).strm = s.strm := rfl
@[simp] theorem State.updWork_slv (s : State) (id : WorkId) (f : Work → Work) : (s.updWork id f).slv = s.slv := rfl
@[simp] theorem State.updWork_cap (s : State) (id : WorkId) (f : Work → Work) : (s.updWork id f).cap = s.cap := rfl
@[simp] theorem State.updWork_ppe (s : State) (id : WorkId) (f : Work → Work) : (s.updWork id f).ppe = s.ppe := rfl
@[simp] theorem State.updWork_cans (s : State) (id : WorkId) (f : Work → Work) : (s.updWork id f).cans = s.cans := rfl
@[simp] theorem State.updWork_eths (s : State) (id : WorkId) (f : Work → Work) : (s.updWork id f).eths = s.eths := rfl
@[simp] theorem State.updWork_lnk (s : State) (id : WorkId) (f : Work → Work) : (s.updWork id f).lnk = s.lnk := rfl
@[simp] theorem State.updWork_sec (s : State) (id : WorkId) (f : Work → Work) : (s.updWork id f).sec = s.sec := rfl
@[simp] theorem State.updWork_flash (s : State) (id : WorkId) (f : Work → Work) : (s.updWork id f).flash = s.flash := rfl
@[simp] theorem State.updWork_image (s : State) (id : WorkId) (f : Work → Work) : (s.updWork id f).image = s.image := rfl
@[simp] theorem State.updWork_hostMem (s : State) (id : WorkId) (f : Work → Work) : (s.updWork id f).hostMem = s.hostMem := rfl
@[simp] theorem State.updWork_hubMem (s : State) (id : WorkId) (f : Work → Work) : (s.updWork id f).hubMem = s.hubMem := rfl
@[simp] theorem State.updWork_free (s : State) (id : WorkId) (f : Work → Work) : (s.updWork id f).free = s.free := rfl
@[simp] theorem State.updWork_mark (s : State) (id : WorkId) (f : Work → Work) : (s.updWork id f).mark = s.mark := rfl
@[simp] theorem State.updWork_records (s : State) (id : WorkId) (f : Work → Work) : (s.updWork id f).records = s.records := rfl

@[simp] theorem State.setWin_pending (s : State) (k slot : Nat) (w : Window) : (s.setWin k slot w).pending = s.pending := rfl
@[simp] theorem State.setWin_powered (s : State) (k slot : Nat) (w : Window) : (s.setWin k slot w).powered = s.powered := rfl
@[simp] theorem State.setWin_glob (s : State) (k slot : Nat) (w : Window) : (s.setWin k slot w).glob = s.glob := rfl
@[simp] theorem State.setWin_time (s : State) (k slot : Nat) (w : Window) : (s.setWin k slot w).time = s.time := rfl
@[simp] theorem State.setWin_sched (s : State) (k slot : Nat) (w : Window) : (s.setWin k slot w).sched = s.sched := rfl
@[simp] theorem State.setWin_cmd (s : State) (k slot : Nat) (w : Window) : (s.setWin k slot w).cmd = s.cmd := rfl
@[simp] theorem State.setWin_sync (s : State) (k slot : Nat) (w : Window) : (s.setWin k slot w).sync = s.sync := rfl
@[simp] theorem State.setWin_safe (s : State) (k slot : Nat) (w : Window) : (s.setWin k slot w).safe = s.safe := rfl
@[simp] theorem State.setWin_pwr (s : State) (k slot : Nat) (w : Window) : (s.setWin k slot w).pwr = s.pwr := rfl
@[simp] theorem State.setWin_cte (s : State) (k slot : Nat) (w : Window) : (s.setWin k slot w).cte = s.cte := rfl
@[simp] theorem State.setWin_mio (s : State) (k slot : Nat) (w : Window) : (s.setWin k slot w).mio = s.mio := rfl
@[simp] theorem State.setWin_srv (s : State) (k slot : Nat) (w : Window) : (s.setWin k slot w).srv = s.srv := rfl
@[simp] theorem State.setWin_strm (s : State) (k slot : Nat) (w : Window) : (s.setWin k slot w).strm = s.strm := rfl
@[simp] theorem State.setWin_slv (s : State) (k slot : Nat) (w : Window) : (s.setWin k slot w).slv = s.slv := rfl
@[simp] theorem State.setWin_cap (s : State) (k slot : Nat) (w : Window) : (s.setWin k slot w).cap = s.cap := rfl
@[simp] theorem State.setWin_ppe (s : State) (k slot : Nat) (w : Window) : (s.setWin k slot w).ppe = s.ppe := rfl
@[simp] theorem State.setWin_cans (s : State) (k slot : Nat) (w : Window) : (s.setWin k slot w).cans = s.cans := rfl
@[simp] theorem State.setWin_eths (s : State) (k slot : Nat) (w : Window) : (s.setWin k slot w).eths = s.eths := rfl
@[simp] theorem State.setWin_lnk (s : State) (k slot : Nat) (w : Window) : (s.setWin k slot w).lnk = s.lnk := rfl
@[simp] theorem State.setWin_sec (s : State) (k slot : Nat) (w : Window) : (s.setWin k slot w).sec = s.sec := rfl
@[simp] theorem State.setWin_flash (s : State) (k slot : Nat) (w : Window) : (s.setWin k slot w).flash = s.flash := rfl
@[simp] theorem State.setWin_image (s : State) (k slot : Nat) (w : Window) : (s.setWin k slot w).image = s.image := rfl
@[simp] theorem State.setWin_hostMem (s : State) (k slot : Nat) (w : Window) : (s.setWin k slot w).hostMem = s.hostMem := rfl
@[simp] theorem State.setWin_hubMem (s : State) (k slot : Nat) (w : Window) : (s.setWin k slot w).hubMem = s.hubMem := rfl
@[simp] theorem State.setWin_free (s : State) (k slot : Nat) (w : Window) : (s.setWin k slot w).free = s.free := rfl
@[simp] theorem State.setWin_mark (s : State) (k slot : Nat) (w : Window) : (s.setWin k slot w).mark = s.mark := rfl
@[simp] theorem State.setWin_records (s : State) (k slot : Nat) (w : Window) : (s.setWin k slot w).records = s.records := rfl

@[simp] theorem State.setBuilder_pending (s : State) (part : Nat) (b : Builder) : (s.setBuilder part b).pending = s.pending := rfl
@[simp] theorem State.setBuilder_powered (s : State) (part : Nat) (b : Builder) : (s.setBuilder part b).powered = s.powered := rfl
@[simp] theorem State.setBuilder_glob (s : State) (part : Nat) (b : Builder) : (s.setBuilder part b).glob = s.glob := rfl
@[simp] theorem State.setBuilder_time (s : State) (part : Nat) (b : Builder) : (s.setBuilder part b).time = s.time := rfl
@[simp] theorem State.setBuilder_sched (s : State) (part : Nat) (b : Builder) : (s.setBuilder part b).sched = s.sched := rfl
@[simp] theorem State.setBuilder_cmd (s : State) (part : Nat) (b : Builder) : (s.setBuilder part b).cmd = s.cmd := rfl
@[simp] theorem State.setBuilder_sync (s : State) (part : Nat) (b : Builder) : (s.setBuilder part b).sync = s.sync := rfl
@[simp] theorem State.setBuilder_safe (s : State) (part : Nat) (b : Builder) : (s.setBuilder part b).safe = s.safe := rfl
@[simp] theorem State.setBuilder_pwr (s : State) (part : Nat) (b : Builder) : (s.setBuilder part b).pwr = s.pwr := rfl
@[simp] theorem State.setBuilder_cte (s : State) (part : Nat) (b : Builder) : (s.setBuilder part b).cte = s.cte := rfl
@[simp] theorem State.setBuilder_mio (s : State) (part : Nat) (b : Builder) : (s.setBuilder part b).mio = s.mio := rfl
@[simp] theorem State.setBuilder_cmp (s : State) (part : Nat) (b : Builder) : (s.setBuilder part b).cmp = s.cmp := rfl
@[simp] theorem State.setBuilder_strm (s : State) (part : Nat) (b : Builder) : (s.setBuilder part b).strm = s.strm := rfl
@[simp] theorem State.setBuilder_slv (s : State) (part : Nat) (b : Builder) : (s.setBuilder part b).slv = s.slv := rfl
@[simp] theorem State.setBuilder_cap (s : State) (part : Nat) (b : Builder) : (s.setBuilder part b).cap = s.cap := rfl
@[simp] theorem State.setBuilder_ppe (s : State) (part : Nat) (b : Builder) : (s.setBuilder part b).ppe = s.ppe := rfl
@[simp] theorem State.setBuilder_cans (s : State) (part : Nat) (b : Builder) : (s.setBuilder part b).cans = s.cans := rfl
@[simp] theorem State.setBuilder_eths (s : State) (part : Nat) (b : Builder) : (s.setBuilder part b).eths = s.eths := rfl
@[simp] theorem State.setBuilder_lnk (s : State) (part : Nat) (b : Builder) : (s.setBuilder part b).lnk = s.lnk := rfl
@[simp] theorem State.setBuilder_sec (s : State) (part : Nat) (b : Builder) : (s.setBuilder part b).sec = s.sec := rfl
@[simp] theorem State.setBuilder_flash (s : State) (part : Nat) (b : Builder) : (s.setBuilder part b).flash = s.flash := rfl
@[simp] theorem State.setBuilder_image (s : State) (part : Nat) (b : Builder) : (s.setBuilder part b).image = s.image := rfl
@[simp] theorem State.setBuilder_hostMem (s : State) (part : Nat) (b : Builder) : (s.setBuilder part b).hostMem = s.hostMem := rfl
@[simp] theorem State.setBuilder_hubMem (s : State) (part : Nat) (b : Builder) : (s.setBuilder part b).hubMem = s.hubMem := rfl
@[simp] theorem State.setBuilder_free (s : State) (part : Nat) (b : Builder) : (s.setBuilder part b).free = s.free := rfl
@[simp] theorem State.setBuilder_mark (s : State) (part : Nat) (b : Builder) : (s.setBuilder part b).mark = s.mark := rfl
@[simp] theorem State.setBuilder_records (s : State) (part : Nat) (b : Builder) : (s.setBuilder part b).records = s.records := rfl

@[simp] theorem State.recorded_records (s : State) (a : Nat) : (s.recorded a).records = a :: s.records := rfl
@[simp] theorem State.region_recorded (s : State) (a m : Nat) : (s.recorded a).region m = s.region m := rfl
@[simp] theorem State.port_recorded (s : State) (a m : Nat) : (s.recorded a).port m = s.port m := rfl
@[simp] theorem State.group_recorded (s : State) (a m : Nat) : (s.recorded a).group m = s.group m := rfl
@[simp] theorem State.region_updWork (s : State) (id : WorkId) (f : Work → Work) (m : Nat) : (s.updWork id f).region m = s.region m := rfl
@[simp] theorem State.port_updWork (s : State) (id : WorkId) (f : Work → Work) (m : Nat) : (s.updWork id f).port m = s.port m := rfl
@[simp] theorem State.region_setWin (s : State) (k slot : Nat) (w : Window) (m : Nat) : (s.setWin k slot w).region m = s.region m := rfl
@[simp] theorem State.seq_setBuilder (s : State) (part : Nat) (b : Builder) (m : Nat) : (s.setBuilder part b).seq m = s.seq m := rfl
@[simp] theorem State.builder_setBuilder (s : State) (part q : Nat) (b : Builder) :
    (s.setBuilder part b).builder q = if q = part then b else s.builder q := by
  simp [State.builder, State.setBuilder]
@[simp] theorem State.winOf_setWin (s : State) (k slot q n : Nat) (w : Window) :
    (s.setWin k slot w).winOf q n = if q = k ∧ n = slot then w else s.winOf q n := by
  unfold State.winOf State.setWin State.port State.setPort
  by_cases h : q = k
  · subst h; simp
  · simp [h]

end Sys2Proof.Machine
end

