-- ==== Sys2Proof/Laws/Ops.lean ====
section
/-! SUPPORT. What each shared operation can change: replies, waits, safety events, faults of axis groups, measurements and the start of a
command, each said once. -/
namespace Sys2Proof.Machine

/-! ## Folds -/

/-- A relation that every step of a fold keeps holds between its ends. -/
theorem foldl_keeps {α β : Type} (R : α → α → Prop) (f : α → β → α) (hr : ∀ a, R a a) (ht : ∀ a b c, R a b → R b c → R a c)
    (hf : ∀ a x, R a (f a x)) (l : List β) (a : α) : R a (l.foldl f a) := by
  induction l generalizing a with
  | nil => exact hr a
  | cons x rest ih => exact ht _ _ _ (hf a x) (ih (f a x))

/-! ## Replies and fetching -/

/-- A reply changes nothing but the command interface. -/
theorem State.pushReply_frame (s : State) (c : Nat) (r : Reply) : ∃ m, s.pushReply c r = { s with cmd := m } := by
  unfold State.pushReply
  split
  · exact ⟨_, rfl⟩
  · split <;> exact ⟨_, rfl⟩

/-- A completed command changes nothing but the command interface. -/
theorem State.complete_frame (s : State) (r : CmdRef) (st : Status) (res : List Word) (aux : Status) :
    ∃ m, s.complete r st res aux = { s with cmd := m } := by
  unfold State.complete
  split
  · exact State.pushReply_frame s _ _
  · exact ⟨s.cmd, rfl⟩

/-- A started command is taken from its queue or its ring, which changes nothing but the command interface. -/
theorem State.begin_frame (s : State) (c : Nat) (p : Packet) (k : Nat) : ∃ m, (s.begin_ c p k).1 = { s with cmd := m } := by
  unfold State.begin_ State.fetchOne
  split <;> exact ⟨_, rfl⟩

/-- The start of a command leaves the other contexts alone. -/
theorem State.begin_ctx_ne (s : State) (c : Nat) (p : Packet) (k j : Nat) (h : j ≠ c) : (s.begin_ c p k).1.ctx j = s.ctx j := by
  unfold State.begin_ State.fetchOne
  split
  · rfl
  · simp [State.ctx, State.setCtx, h]

/-- The start of a command changes in its context only what counts the commands fetched and in flight. -/
theorem State.begin_ctx (s : State) (c : Nat) (p : Packet) (k : Nat) :
    ∃ f i, (s.begin_ c p k).1.ctx c = { s.ctx c with fetched := f, inflight := i } := by
  unfold State.begin_ State.fetchOne
  split
  · exact ⟨(s.ctx c).fetched, (s.ctx c).inflight, rfl⟩
  · exact ⟨(s.ctx c).fetched + 1, (s.ctx c).inflight ++ [s.cmd.nextUid], by simp [State.ctx, State.setCtx]⟩

/-- A context in ERROR changes nothing but the command interface. -/
theorem State.ctxError_frame (s : State) (c k : Nat) : ∃ m, s.ctxError c k = { s with cmd := m } := by
  unfold State.ctxError
  dsimp only
  split
  · obtain ⟨m, h⟩ := State.pushReply_frame (s.setCtx c { s.ctx c with state := .error, err := k }) c
      { tag := 0xFFFFFFFF, status := (if k = 1 then stBadParam else stEcc), aux := BitVec.ofNat 16 k, cls := (s.ctx c).cls,
        stamp := (s.setCtx c { s.ctx c with state := .error, err := k }).replyStamp }
    exact ⟨m, h⟩
  · exact ⟨s.cmd, rfl⟩

/-- What a row of a command can answer: nothing happens but in the command interface, the command is refused with a status, or its effect
runs; before the effect, only the command interface has changed. -/
theorem State.command_cases (s : State) (c op cls : Nat) (p : Packet) (own : Option Status) (run : State → CmdRef → State) :
    (∃ m, s.command c p op cls own run = { s with cmd := m }) ∨
      (∃ m r st, s.command c p op cls own run = ({ s with cmd := m } : State).complete r st) ∨
      ∃ m r, s.command c p op cls own run = run { s with cmd := m } r := by
  unfold State.command
  split
  · exact Or.inl ⟨s.cmd, rfl⟩
  · split
    · rename_i q hq
      split
      · exact Or.inl ⟨s.cmd, rfl⟩
      · split
        · exact Or.inl ⟨s.cmd, rfl⟩
        · dsimp only
          split
          · exact Or.inr (Or.inl ⟨_, _, _, rfl⟩)
          · exact Or.inr (Or.inr ⟨_, _, rfl⟩)
    · split
      · exact Or.inl ⟨s.cmd, rfl⟩
      · split
        · exact Or.inl (State.ctxError_frame s c 2)
        · dsimp only [State.fetchOne]
          split
          · exact Or.inr (Or.inl ⟨_, _, _, rfl⟩)
          · exact Or.inr (Or.inr ⟨_, _, rfl⟩)

/-! ## Counters and waits -/

/-- A grant changes nothing but the command interface and the waits. -/
theorem State.grantWait_frame (s : State) (w : Wait) (n : Nat) : ∃ m y, s.grantWait w n = { s with cmd := m, sync := y } := by
  unfold State.grantWait
  split
  · rename_i r _
    obtain ⟨m, h⟩ := State.complete_frame s r stOk [w32 n] 0
    exact ⟨m, s.sync, h⟩
  · exact ⟨s.cmd, _, rfl⟩
  · exact ⟨s.cmd, s.sync, rfl⟩

theorem State.grantLoop_frame (k fuel : Nat) (s : State) : ∃ m y, s.grantLoop k fuel = { s with cmd := m, sync := y } := by
  induction fuel generalizing s with
  | zero => exact ⟨s.cmd, s.sync, rfl⟩
  | succ n ih =>
    unfold State.grantLoop
    split
    · exact ⟨s.cmd, s.sync, rfl⟩
    · rename_i w _
      dsimp only
      split
      · exact ⟨s.cmd, s.sync, rfl⟩
      · rw [State.setCounter]
        dsimp only
        obtain ⟨m, y, h⟩ := State.grantWait_frame ({ s with sync := { s.sync with
          counters := tblSet {} s.sync.counters k { s.counter k with value := (s.counter k).value - w.n }, waits := s.sync.waits.erase w } })
          w ((s.counter k).value - w.n)
        rw [h]
        obtain ⟨m', y', h'⟩ := ih { s with cmd := m, sync := y }
        exact ⟨m', y', h'⟩

/-- The grants on a counter change nothing but the command interface and the waits. -/
theorem State.grants_frame (s : State) (k : Nat) : ∃ m y, s.grants k = { s with cmd := m, sync := y } := State.grantLoop_frame k _ s

@[simp] theorem State.register_cmd (s : State) (k n r : Nat) (w : Waiter) : (s.register k n r w).cmd = s.cmd := rfl
@[simp] theorem State.register_counters (s : State) (k n r : Nat) (w : Waiter) : (s.register k n r w).sync.counters = s.sync.counters := rfl

/-- Waits that end late touch the command processor and the synchronisation block alone. -/
theorem State.expireWaits_frame (s : State) (k : Nat) : ∃ m y, s.expireWaits k = { s with cmd := m, sync := y } := by
  unfold State.expireWaits
  dsimp only
  split
  · exact ⟨_, _, rfl⟩
  · rename_i h
    clear h
    generalize ({ s.sync with waits := s.sync.waits.filter fun w => !s.waitLate k w } : Sync) = y0
    have f : ∀ (ws : List Wait) (m0 : Cmd) (y1 : Sync), ∃ m y,
        List.foldl (fun (s : State) (w : Wait) => match w.who with
          | .cmd r => ({ s with sync := { s.sync with timeoutCnt := satInc s.sync.timeoutCnt } }).complete r stTimeout
          | _ => s) { s with cmd := m0, sync := y1 } ws = { s with cmd := m, sync := y } := by
      intro ws
      induction ws with
      | nil => exact fun m0 y1 => ⟨m0, y1, rfl⟩
      | cons w ws ih =>
        intro m0 y1
        simp only [List.foldl_cons]
        split
        · rename_i r _
          obtain ⟨m, hm⟩ := State.complete_frame
            ({ ({ s with cmd := m0, sync := y1 } : State) with sync := { y1 with timeoutCnt := satInc y1.timeoutCnt } }) r stTimeout [] 0
          rw [hm]
          exact ih _ _
        · exact ih _ _
    obtain ⟨m, y, h⟩ := f (s.sync.waits.filter (s.waitLate k)) s.cmd y0
    obtain ⟨m', y', h'⟩ := State.grants_frame (List.foldl (fun (s : State) (w : Wait) => match w.who with
          | .cmd r => ({ s with sync := { s.sync with timeoutCnt := satInc s.sync.timeoutCnt } }).complete r stTimeout
          | _ => s) { s with cmd := s.cmd, sync := y0 } (s.sync.waits.filter (s.waitLate k))) k
    refine ⟨m', y', Eq.trans ?_ (h'.trans ?_)⟩
    · rfl
    · rw [h]

/-- Where no wait on the counter is late, none ends. -/
theorem State.expireWaits_none (s : State) (k : Nat) (h : ∀ w ∈ s.sync.waits, s.waitLate k w = false) : s.expireWaits k = s := by
  have e : s.sync.waits.filter (s.waitLate k) = [] := List.filter_eq_nil_iff.mpr fun w hw => by simp [h w hw]
  unfold State.expireWaits
  simp only [e, if_pos]

/-- A signal changes nothing but the command interface, the counters and the waits. -/
theorem State.signal_frame (s : State) (k n : Nat) : ∃ m y, (s.signal k n).1 = { s with cmd := m, sync := y } := by
  unfold State.signal
  dsimp only
  split
  · split
    · exact ⟨s.cmd, s.sync, rfl⟩
    · obtain ⟨m, y, h⟩ := State.grants_frame (s.setCounter k { s.counter k with value := (s.counter k).value + n }) k
      exact ⟨m, y, h⟩
  · exact ⟨s.cmd, s.sync, rfl⟩
  · exact ⟨s.cmd, s.sync, rfl⟩

/-! ## Safety events -/

/-- The two states differ in the supervisor, the control engine, the Ethernet ports and the note of records written at most. -/
structure SafeFrame (s u : State) : Prop where
  eq : u = { s with safe := u.safe, cte := u.cte, eths := u.eths, records := u.records }

theorem SafeFrame.refl (s : State) : SafeFrame s s := ⟨rfl⟩
theorem SafeFrame.trans (s t u : State) (h : SafeFrame s t) (k : SafeFrame t u) : SafeFrame s u := by
  constructor
  rw [k.eq, h.eq]

theorem SafeFrame.of_safe (s : State) (x : Safe) : SafeFrame s { s with safe := x } := ⟨rfl⟩
theorem SafeFrame.of_record (s : State) (x : Safe) (l : List Nat) : SafeFrame s { s with safe := x, records := l } := ⟨rfl⟩

theorem State.faultGroupOnly_cte (s : State) (g cause : Nat) : ∃ c, s.faultGroupOnly g cause = { s with cte := c } := by
  unfold State.faultGroupOnly
  dsimp only
  split
  · refine foldl_keeps (fun a b : State => (∃ c, a = { s with cte := c }) → ∃ c, b = { s with cte := c }) _ (fun _ h => h)
      (fun _ _ _ h k w => k (h w)) ?_ _ _ ⟨_, rfl⟩
    intro a i h
    obtain ⟨c, rfl⟩ := h
    split
    · exact ⟨c, rfl⟩
    · exact ⟨_, rfl⟩
  · exact ⟨s.cte, rfl⟩

theorem State.faultGroupOnly_frame (s : State) (g cause : Nat) : SafeFrame s (s.faultGroupOnly g cause) := by
  obtain ⟨c, h⟩ := State.faultGroupOnly_cte s g cause
  rw [h]
  exact ⟨rfl⟩

/-- The axis groups of a partition fault without another change. -/
theorem State.faultPartGroups_frame (s : State) (p : Nat) : SafeFrame s (s.faultPartGroups p) := by
  unfold State.faultPartGroups
  refine foldl_keeps SafeFrame _ SafeFrame.refl SafeFrame.trans ?_ _ _
  intro a g
  split
  · dsimp only
    split
    · exact SafeFrame.trans _ _ _ (State.faultGroupOnly_frame a g 7) ⟨rfl⟩
    · exact State.faultGroupOnly_frame a g 7
  · exact SafeFrame.refl a

theorem State.sendMessages_frame (s : State) (named : MsgCfg → Bool) (code : Nat) : SafeFrame s (s.sendMessages named code) := by
  unfold State.sendMessages
  refine foldl_keeps SafeFrame _ SafeFrame.refl SafeFrame.trans ?_ _ _
  intro a m
  dsimp only
  split <;> exact ⟨rfl⟩

theorem State.enterPart_frame (s : State) (p code : Nat) : SafeFrame s (s.enterPart p code) := by
  unfold State.enterPart
  split
  · exact SafeFrame.refl s
  · exact SafeFrame.trans _ _ _ (SafeFrame.trans _ _ _ (SafeFrame.of_safe s _) (State.faultPartGroups_frame _ p)) (State.sendMessages_frame _ _ code)

theorem State.drivePins_frame (s : State) : SafeFrame s s.drivePins := by
  unfold State.drivePins
  exact SafeFrame.of_safe s _

theorem State.enterPackage_frame (s : State) (code : Nat) : SafeFrame s (s.enterPackage code) := by
  unfold State.enterPackage
  exact SafeFrame.trans _ _ _ (SafeFrame.trans _ _ _ (SafeFrame.trans _ _ _ (SafeFrame.of_safe s _)
    (foldl_keeps SafeFrame _ SafeFrame.refl SafeFrame.trans State.faultPartGroups_frame _ _)) (State.sendMessages_frame _ _ code))
    (State.drivePins_frame _)

theorem State.logEvent_frame (s : State) (code level part detail : Nat) : SafeFrame s (s.logEvent code level part detail) := by
  unfold State.logEvent
  exact SafeFrame.of_safe s _
theorem State.setCause_frame (s : State) (code level part : Nat) : SafeFrame s (s.setCause code level part) := by
  unfold State.setCause
  exact SafeFrame.of_record s _ _
theorem State.holdEvent_frame (s : State) (scope : Nat) (e : SafeEvt) : SafeFrame s (s.holdEvent scope e) := by
  unfold State.holdEvent
  exact SafeFrame.of_safe s _

/-- A package event that is logged: the package enters safe state unless it is in it. -/
theorem packageEvent_frame (s : State) (code part : Nat) (e : SafeEvt) :
    SafeFrame s (((s.setCause code 2 part).holdEvent 8 e).enterPackage code) :=
  SafeFrame.trans _ _ _ (State.setCause_frame s code 2 part) (SafeFrame.trans _ _ _ (State.holdEvent_frame _ 8 e) (State.enterPackage_frame _ code))

/-- A partition event that is logged: the partition and those that depend on it enter safe state. -/
theorem partEvent_frame (s : State) (code part : Nat) (e : SafeEvt) (ps : List Nat) :
    SafeFrame s (State.drivePins (List.foldl (fun s p => s.enterPart p code) ((s.setCause code 1 part).holdEvent part e) ps)) :=
  SafeFrame.trans _ _ _ (State.setCause_frame s code 1 part) (SafeFrame.trans _ _ _ (State.holdEvent_frame _ part e)
    (SafeFrame.trans _ _ _ (foldl_keeps SafeFrame _ SafeFrame.refl SafeFrame.trans (fun a p => State.enterPart_frame a p code) _ _)
      (State.drivePins_frame _)))

/-- A safety event changes nothing but the supervisor, the axis groups and the Ethernet ports. -/
theorem State.raiseAt_frame (s : State) (code part detail lvl : Nat) : SafeFrame s (s.raiseAt code part detail lvl) := by
  unfold State.raiseAt
  dsimp only
  refine SafeFrame.trans _ _ _ (State.logEvent_frame s code (if lvl = 1 ∧ part ≥ 8 then 0 else lvl)
    (if (if lvl = 1 ∧ part ≥ 8 then 0 else lvl) = 2 then 0xFF else part) detail) ?_
  generalize s.logEvent code (if lvl = 1 ∧ part ≥ 8 then 0 else lvl) (if (if lvl = 1 ∧ part ≥ 8 then 0 else lvl) = 2 then 0xFF else part) detail = u
  generalize (if lvl = 1 ∧ part ≥ 8 then 0 else lvl) = k
  split
  · have h : SafeFrame u (if eventReset code then { u with safe := { u.safe with latched := true } } else u) := by
      split
      · exact SafeFrame.of_safe u _
      · exact SafeFrame.refl u
    refine SafeFrame.trans _ _ _ h ?_
    generalize (if eventReset code then ({ u with safe := { u.safe with latched := true } } : State) else u) = v
    split
    · split
      · split
        · exact State.holdEvent_frame v _ _
        · exact SafeFrame.refl v
      · exact SafeFrame.trans _ _ _ (State.setCause_frame v code 2 part) (State.holdEvent_frame _ 8 _)
    · exact packageEvent_frame v code part _
  · split
    · split
      · split
        · exact SafeFrame.refl u
        · exact SafeFrame.trans _ _ _ (State.setCause_frame u code 1 part) (State.holdEvent_frame _ part _)
      · exact partEvent_frame u code part _ _
    · exact SafeFrame.refl u

theorem State.raise_frame (s : State) (code part detail : Nat) : SafeFrame s (s.raise code part detail) := State.raiseAt_frame s _ _ _ _

/-- A fault of an axis group changes nothing but the supervisor, the axis groups and the Ethernet ports. -/
theorem State.faultGroup_frame (s : State) (g cause : Nat) : SafeFrame s (s.faultGroup g cause) := by
  unfold State.faultGroup
  dsimp only
  split
  · exact SafeFrame.trans _ _ _ (State.faultGroupOnly_frame s g cause) (State.raise_frame _ _ _ _)
  · exact SafeFrame.refl s

/-! ## Clears and host writes (R71, R483) -/

/-- A clear of a counter that the cycle has not changed leaves 0. -/
@[simp] theorem sinceMark_self {n : Nat} (x : BitVec n) : sinceMark x x = 0 := by simp [sinceMark]
@[simp] theorem sinceNat_self (x : Nat) : sinceNat x x = 0 := by simp [sinceNat]

/-- A clear of a counter that stood at 0 when the cycle began leaves what the cycle has counted. -/
@[simp] theorem sinceMark_zero {n : Nat} (x : BitVec n) : sinceMark 0 x = x := by simp [sinceMark]

/-- A host write changes the blocks and their copy of the cycle's start alone. -/
theorem State.hostWrite_frame (s : State) (f : Blocks → Blocks → Blocks) :
    s.hostWrite f = { s with toBlocks := (s.hostWrite f).toBlocks, mark := (s.hostWrite f).mark } := by
  unfold State.hostWrite
  split <;> rfl

/-- A part without power takes no host write. -/
theorem State.hostWrite_off (s : State) (f : Blocks → Blocks → Blocks) (h : s.powered = false) : s.hostWrite f = s := by
  simp [State.hostWrite, h]

/-- The number of logged events never falls, and rises by one with an event. -/
theorem State.logEvent_logCount (s : State) (code level part detail : Nat) :
    (s.logEvent code level part detail).safe.logCount = s.safe.logCount + 1 := rfl

/-! ## Memory and measurements -/

/-- What the part writes for a function changes that function's memory alone. -/
theorem State.writeFunc_frame (s : State) (f a : Nat) (bs : List Byte) :
    s.writeFunc f a bs = { s with hubMem := (s.writeFunc f a bs).hubMem, hostMem := (s.writeFunc f a bs).hostMem } := by
  unfold State.writeFunc
  split
  · rfl
  · split <;> rfl

/-- A measurement changes nothing but the husk's slots and log, and takes one free value. -/
theorem State.measure_frame (s : State) (slot : Nat) (d : Digest) : ∃ l, s.measure slot d = { s with
    free := s.free + 1, sec := { s.sec with slots := (s.measure slot d).sec.slots, log := l } } := ⟨_, rfl⟩

/-- A measurement leaves the other slots alone. -/
theorem State.measure_slot_ne (s : State) (slot k : Nat) (d : Digest) (h : k ≠ slot) :
    tblGet 0 (s.measure slot d).sec.slots k = tblGet 0 s.sec.slots k := by
  simp [State.measure, State.takeFree, h]

/-- A zeroisation leaves everything but the memories, the problems and the husk. -/
theorem State.beginZero_frame (s : State) (cmd : Option (CmdRef × List Word)) (d : Digest) : s.beginZero cmd d = { s with
    cmp := (s.beginZero cmd d).cmp, hubMem := (s.beginZero cmd d).hubMem, slv := (s.beginZero cmd d).slv,
    sec := (s.beginZero cmd d).sec } := by
  unfold State.beginZero
  split <;> rfl

end Sys2Proof.Machine
end

