-- ==== Sys2Proof/Laws/Pass.lean ====
section
/-! SUPPORT. What the operations on passes, windows and statuses of work can change, each said once: the compute regions and memories, and, where
a fault is reported, what a safety event changes. -/
namespace Sys2Proof.Machine

/-! ## Frames -/

/-- The two states differ in the compute regions and memories, and in what a safety event changes, at most. -/
structure PassFrame (s u : State) : Prop where
  eq : u = { s with cmp := u.cmp, safe := u.safe, cte := u.cte, eths := u.eths, records := u.records }

theorem PassFrame.refl (s : State) : PassFrame s s := ⟨rfl⟩
theorem PassFrame.trans (s t u : State) (h : PassFrame s t) (k : PassFrame t u) : PassFrame s u := by
  constructor
  rw [k.eq, h.eq]

theorem PassFrame.of_safe (s u : State) (h : SafeFrame s u) : PassFrame s u := by
  constructor
  have e := h.eq
  rw [e]

theorem PassFrame.of_cmp (s : State) (x : Compute) : PassFrame s { s with cmp := x } := ⟨rfl⟩
theorem PassFrame.of_record (s : State) (x : Compute) (l : List Nat) : PassFrame s { s with cmp := x, records := l } := ⟨rfl⟩

/-- A fold of operations each of which keeps the frame keeps it. -/
theorem PassFrame.foldl {β : Type} (f : State → β → State) (hf : ∀ s x, PassFrame s (f s x)) (l : List β) (s : State) : PassFrame s (l.foldl f s) :=
  foldl_keeps PassFrame f PassFrame.refl PassFrame.trans hf l s

/-! ## Statuses, records and windows -/

/-- A status met by work changes the works alone. -/
theorem State.addStatus_frame (s : State) (id : Option WorkId) (st : Status) : ∃ l, s.addStatus id st = { s with cmp := { s.cmp with works := l } } := by
  unfold State.addStatus
  split
  · exact ⟨s.cmp.works, rfl⟩
  · exact ⟨_, rfl⟩

/-- A status met by one position changes the works alone. -/
theorem State.addPos_frame (s : State) (id : WorkId) (i : Nat) (st : Status) : ∃ l, s.addPos id i st = { s with cmp := { s.cmp with works := l } } := ⟨_, rfl⟩

theorem State.addStatus_pass (s : State) (id : Option WorkId) (st : Status) : PassFrame s (s.addStatus id st) := by
  obtain ⟨l, h⟩ := State.addStatus_frame s id st
  rw [h]
  exact PassFrame.of_cmp s _

theorem State.addPos_pass (s : State) (id : WorkId) (i : Nat) (st : Status) : PassFrame s (s.addPos id i st) := PassFrame.of_cmp s _

/-- A refused access on record changes the region's port and the note of records alone. -/
theorem State.boundRecord_frame (s : State) (k slot kind offset : Nat) : ∃ x,
    s.boundRecord k slot kind offset = { s with records := (rgnAddr k + 0x410) :: s.records, cmp := { s.cmp with ports := x } } := ⟨_, rfl⟩

theorem State.boundRecord_pass (s : State) (k slot kind offset : Nat) : PassFrame s (s.boundRecord k slot kind offset) := PassFrame.of_record s _ _

/-- Stopping a task in its window changes the region's port alone. -/
theorem State.stopWin_pass (s : State) (k slot : Nat) : PassFrame s (s.stopWin k slot) := by
  unfold State.stopWin
  dsimp only
  split
  · exact PassFrame.of_cmp s _
  · exact PassFrame.refl s

/-- A faulty unit is a safety event. -/
theorem State.faultUnit_pass (s : State) (k : Nat) : PassFrame s (s.faultUnit k) := PassFrame.of_safe _ _ (State.raise_frame s _ _ _)

/-- A refused access: its record, its task and the status of its work, and for class 0 and class 1 work a safety event. -/
theorem State.refuse_pass (s : State) (k slot kind offset : Nat) (work : Option WorkId) (cls : Nat) : PassFrame s (s.refuse k slot kind offset work cls) := by
  unfold State.refuse
  dsimp only
  have h := PassFrame.trans _ _ _ (PassFrame.trans _ _ _ (State.boundRecord_pass s k slot kind offset) (State.stopWin_pass _ k slot))
    (State.addStatus_pass _ work stNotAuth)
  split
  · exact PassFrame.trans _ _ _ h (State.faultUnit_pass _ k)
  · exact h

/-- Scratchpad bytes written change the scratchpad alone. -/
theorem State.spWrite_frame (s : State) (spa : Nat) (bs : List Byte) : ∃ m, s.spWrite spa bs = { s with cmp := { s.cmp with sp := m } } := by
  induction bs generalizing s spa with
  | nil => exact ⟨s.cmp.sp, rfl⟩
  | cons b bs ih =>
    unfold State.spWrite
    split
    · obtain ⟨m, h⟩ := ih { s with cmp := { s.cmp with sp := memSet s.cmp.sp _ b } } (spa + 1)
      exact ⟨m, h⟩
    · exact ih s (spa + 1)

theorem State.spWrite_pass (s : State) (spa : Nat) (bs : List Byte) : PassFrame s (s.spWrite spa bs) := by
  obtain ⟨m, h⟩ := State.spWrite_frame s spa bs
  rw [h]
  exact PassFrame.of_cmp s _

/-! ## What a pass does when it starts and goes on -/

theorem State.poisonedPass_pass (s : State) (k : Nat) (p : RunPass) (bad : Bool) : PassFrame s (s.poisonedPass k p bad) := by
  unfold State.poisonedPass
  split
  · exact PassFrame.trans _ _ _ (State.addStatus_pass s _ _) (State.faultUnit_pass _ k)
  · exact PassFrame.refl s

theorem State.poisonedActs_pass (s : State) (k : Nat) (p : RunPass) (poss : List Nat) : PassFrame s (s.poisonedActs k p poss) := by
  unfold State.poisonedActs
  dsimp only
  split
  · have h := PassFrame.foldl (fun (s : State) pos => s.addPos p.key.work (p.vecs.getD pos 0) stEcc) (fun s pos => State.addPos_pass s _ _ _)
      (poss.filter fun pos => s.winPoisoned p (p.actRange pos)) s
    split
    · exact h
    · exact PassFrame.trans _ _ _ h (State.faultUnit_pass _ k)
  · exact State.poisonedPass_pass s k p _

theorem State.loadShadow_pass (s : State) (k c : Nat) : PassFrame s (s.loadShadow k c) := by
  unfold State.loadShadow
  dsimp only
  split
  · exact PassFrame.refl s
  · split
    · exact PassFrame.refl s
    · exact PassFrame.trans _ _ _ (PassFrame.of_cmp s _) (State.poisonedPass_pass _ k _ _)

theorem State.askMode_pass (s : State) (k : Nat) : PassFrame s (s.askMode k) := by
  unfold State.askMode
  dsimp only
  split
  · exact PassFrame.refl s
  · split
    · exact PassFrame.of_cmp s _
    · exact PassFrame.refl s

theorem State.beginMvu_pass (s : State) (k : Nat) : PassFrame s (s.beginMvu k) := by
  unfold State.beginMvu
  dsimp only
  split
  · exact PassFrame.refl s
  · split
    · exact PassFrame.refl s
    · split
      · exact PassFrame.refl s
      · split
        · exact PassFrame.of_cmp s _
        · exact PassFrame.trans _ _ _ (PassFrame.trans _ _ _ (PassFrame.of_cmp s _) (State.poisonedPass_pass _ k _ _))
            (State.poisonedActs_pass _ k _ _)

theorem State.passWin_pass (s : State) (k slot : Nat) (ps : List RunPass) : PassFrame s (s.passWin k slot ps) := by
  unfold State.passWin
  split
  · exact PassFrame.refl s
  · dsimp only
    split
    · exact PassFrame.refl s
    · exact PassFrame.of_cmp s _

theorem State.writeAnchors_pass (s : State) (p : RunPass) : PassFrame s (s.writeAnchors p) :=
  PassFrame.foldl _ (fun s _ => State.spWrite_pass s _ _) _ s

theorem State.readyPass_pass (s : State) (k : Nat) (p : RunPass) : PassFrame s (s.readyPass k p) := by
  unfold State.readyPass
  extract_lets q x u v
  have h : PassFrame s u := PassFrame.of_cmp s _
  have k : PassFrame s v := PassFrame.trans _ _ _ h (State.poisonedActs_pass _ k p _)
  split
  · exact h
  · split
    · split
      · exact k
      · exact PassFrame.trans _ _ _ k (State.writeAnchors_pass _ _)
    · exact h

/-- What follows from a pass that starts or ends, a strobe, or an applied port mode changes the compute regions and memories, and what a safety
event changes. -/
theorem State.settle_pass (s : State) : PassFrame s s.settle := by
  unfold State.settle
  dsimp only
  refine PassFrame.trans _ _ _ (PassFrame.foldl _ ?_ _ s) (PassFrame.foldl _ ?_ _ _)
  · intro s e
    split
    · exact State.readyPass_pass s _ _
    · exact PassFrame.refl s
  · intro s k
    exact PassFrame.trans _ _ _ (PassFrame.trans _ _ _ (PassFrame.trans _ _ _ (PassFrame.trans _ _ _
      (PassFrame.foldl _ (fun s c => State.loadShadow_pass s k c) _ s) (State.askMode_pass _ k)) (State.beginMvu_pass _ k))
      (State.passWin_pass _ _ _ _)) (State.passWin_pass _ _ _ _)

/-- The passes of a piece of work given up, and a pass that leaves its regions, change the compute regions alone. -/
theorem State.dropPasses_pass (s : State) (id : WorkId) : PassFrame s (s.dropPasses id) := PassFrame.of_cmp s _
theorem State.removePass_pass (s : State) (key : PassKey) : PassFrame s (s.removePass key) := PassFrame.of_cmp s _

theorem State.startShare_pass (s : State) (k : Nat) (p : RunPass) : PassFrame s (s.startShare k p) := by
  unfold State.startShare
  split
  · exact PassFrame.trans _ _ _ (State.refuse_pass s _ _ _ _ _ _) (State.dropPasses_pass _ _)
  · extract_lets bad t x u
    have h : PassFrame s t := by
      refine PassFrame.foldl _ ?_ _ s
      intro s pos
      exact PassFrame.trans _ _ _ (State.boundRecord_pass s _ _ _ _) (State.addPos_pass _ _ _ _)
    have h' : PassFrame t u := PassFrame.of_cmp t _
    clear_value u
    clear_value bad
    split
    · exact PassFrame.trans _ _ _ (State.refuse_pass s _ _ _ _ _ _) (State.dropPasses_pass _ _)
    · exact PassFrame.trans _ _ _ (PassFrame.trans _ _ _ h h') (State.poisonedPass_pass u k p _)

/-- The start of a compiled pass. -/
theorem State.startPass_pass (s : State) (id : WorkId) (cls part : Nat) (poss : Option (List Nat)) (idx : Nat) (cfg : PassCfg) :
    PassFrame s (s.startPass id cls part poss idx cfg) := by
  unfold State.startPass
  split
  · exact PassFrame.refl s
  · dsimp only
    split
    · exact State.addStatus_pass s _ _
    · refine PassFrame.foldl _ ?_ _ s
      intro s e
      split
      · exact State.startShare_pass s _ _
      · exact PassFrame.refl s

/-- A pass's results written change the scratchpad alone. -/
theorem State.writeResults_frame (s : State) (e : ShareEnd) (places : List Nat) :
    ∃ m, s.writeResults e places = { s with cmp := { s.cmp with sp := m } } := by
  unfold State.writeResults
  split
  · exact ⟨s.cmp.sp, rfl⟩
  · refine foldl_keeps (fun a b : State => (∃ m, a = { s with cmp := { s.cmp with sp := m } }) → ∃ m, b = { s with cmp := { s.cmp with sp := m } }) _
      (fun _ h => h) (fun _ _ _ h k w => k (h w)) ?_ _ _ ⟨s.cmp.sp, rfl⟩
    intro a pos h
    obtain ⟨m, rfl⟩ := h
    obtain ⟨m', h'⟩ := State.spWrite_frame { s with cmp := { s.cmp with sp := m } } _ _
    exact ⟨m', h'⟩

end Sys2Proof.Machine
end

