-- ==== Sys2Proof/WellFormed.lean ====
section
/-! DEFINITION. The ranges that the spec gives the operands of commands and events. A term outside them names a unit that no part
has; the machine answers it as it answers any event of a unit that is not there. -/
namespace Sys2Proof

/-- A tick of the 64-bit time counter (R250). -/
def tickOk (t : Nat) : Bool := decide (t < 2 ^ 64)
/-- One of the 64 contexts (R290). -/
def ctxOk (c : Nat) : Bool := decide (c < 64)
/-- A packet of 64 bytes: 16 of header and 48 of parameters (R297). -/
def packetOk (p : Packet) : Bool := p.params.length == 48
/-- A region of a compute die (R14). -/
def regionOk (d r : Nat) : Bool := decide (d < 2) && decide (r < 16)
/-- One of the eight phase domains (R252). -/
def domainOk (d : Nat) : Bool := decide (d < 8)
/-- An entry of the active table of a phase domain; the pool holds 4,096 (R270). -/
def entryOk (d e : Nat) : Bool := domainOk d && decide (e < 4096)

/-- The link stream, or one of eight selective streams (R454). -/
def ideOk : IdeStream → Bool
  | .link => true
  | .selective i => decide (i < 8)

/-- Whether every operand of a command or event is in its range. -/
def Instr.wf : Instr → Bool
  | .pwrgoodRise _ => true
  | .pwrgoodFall => true
  | .resetNAssert _ => true
  | .hubReady t _ => tickOk t
  | .dieUp t die _ _ _ => tickOk t && decide (die < 2)
  | .lpddrTrainingDone t kind rate capacity _ => tickOk t && decide (kind ≤ 2) && decide (rate ≤ 13) && decide (capacity ≤ 64)
  | .lpddrZeroFillDone t => tickOk t
  | .perstNDeassert t => tickOk t
  | .pcieLinkUp t width speed _ => tickOk t && [1, 2, 4, 8].contains width && decide (1 ≤ speed ∧ speed ≤ 6)
  | .pcieReset t _ => tickOk t
  | .vfFlr t vf => tickOk t && decide (1 ≤ vf ∧ vf ≤ 31)
  | .numvfsClear t => tickOk t
  | .d3hotEntry t => tickOk t
  | .registerWrite t addr _ _ => tickOk t && decide (addr < 0x4000000)
  | .timeCntLoRead t => tickOk t
  | .timeSnap t _ => tickOk t
  | .globalModeWrite _ => true
  | .attach0 _ => true
  | .reset0 _ => true
  | .bootRcbWrite _ _ => true
  | .cteCoefRegWrite slot index _ => decide (slot < 64) && decide (2 ≤ index ∧ index ≤ 13)
  | .rgnNumClearNonfinite d r => regionOk d r
  | .rgnNumClearRerun d r => regionOk d r
  | .rgnNumClearAnchor d r => regionOk d r
  | .rgnArrayClearGate d r => regionOk d r
  | .rgnArrayClearBusy d r => regionOk d r
  | .rgnArrayClearSwap d r => regionOk d r
  | .rgnSpClearXfer d r => regionOk d r
  | .rgnSpClearEcc d r => regionOk d r
  | .rgnSpClearBound d r => regionOk d r
  | .rgnDroopClearCyc d r => regionOk d r
  | .rgnDroopClearCnt d r => regionOk d r
  | .cmdSrvClearRetire => true
  | .cmdSrvClearFlush => true
  | .cmdSrvClearHold => true
  | .cmdSrvClearSteps => true
  | .cmdStrmClearResync => true
  | .cmdStrmClearSwap => true
  | .cmdStrmClearPinned => true
  | .slvClearEcc => true
  | .slvClearMeasLate => true
  | .slvClearRefcap => true
  | .slvClearNonfinite => true
  | .slvClearMiss => true
  | .slvClearStale => true
  | .slvClearReg => true
  | .cteClearDual => true
  | .cteClearFe => true
  | .cteClearClamp => true
  | .cteClearStale => true
  | .cteClearHold => true
  | .timeClearHold => true
  | .timeClearSkip => true
  | .schedClearMissed => true
  | .schedClearLate => true
  | .schedClearEarly => true
  | .schedClearOverrun => true
  | .cmdClearRefused => true
  | .cmdClearFetch => true
  | .cmdClearBusy => true
  | .syncClearTimeout => true
  | .syncClearAbandon => true
  | .syncClearUnderflow => true
  | .capClearEcc => true
  | .capClearCorrupt => true
  | .capClearStale => true
  | .capClearFrame => true
  | .ppeClearDataerr => true
  | .ppeClearBounds => true
  | .ppeClearDecode => true
  | .ppeClearBand => true
  | .canClearLate ctl => decide (ctl < 4)
  | .canClearRxdrop ctl => decide (ctl < 4)
  | .canClearAbandon ctl => decide (ctl < 4)
  | .safeClearGfFail => true
  | .safeClearGfRun => true
  | .safeClearDiagLate => true
  | .safeClearStFail => true
  | .safeClearStAbandon => true
  | .safeClearEvt => true
  | .secClearSigfail => true
  | .pwrClearCapExceed => true
  | .lnkClearRolRetry => true
  | .lnkClearLpRetry => true
  | .lnkClearLpCe => true
  | .ethClearLate => true
  | .ethClearFcs => true
  | .ethClearRxdrop => true
  | .ethClearRx => true
  | .nocFlitCrcFail _ => true
  | .nocRetryFail t _ => tickOk t
  | .layerPassEnd t _ => tickOk t
  | .wideRerunComplete t _ => tickOk t
  | .swapRequest d r cluster _ => regionOk d r && decide (cluster < 4)
  | .swapStrobe t d r clusters _ => tickOk t && regionOk d r && clusters.all fun c => decide (c < 4)
  | .shapeChange d r shape => tickOk shape.t && regionOk d r && decide (shape.shape < 4)
  | .directionChange d r b => tickOk b.t && regionOk d r
  | .tileCoreHalt t d r tile _ => tickOk t && regionOk d r && decide (tile < 64)
  | .spAccess t d r _ => tickOk t && regionOk d r
  | .portModeApply t d r => tickOk t && regionOk d r
  | .xferStart t d r => tickOk t && regionOk d r.region
  | .xferComplete t d r _ => tickOk t && regionOk d r
  | .xferFail t d r _ _ => tickOk t && regionOk d r
  | .agenComplete t d r _ => tickOk t && regionOk d r
  | .seqAdmit c p _ => ctxOk c && packetOk p
  | .seqAppend c p _ => ctxOk c && packetOk p
  | .seqStop c p => ctxOk c && packetOk p
  | .seqQuery c p => ctxOk c && packetOk p
  | .stepStart t part => tickOk t && decide (part < 8)
  | .stepBoundary t part _ _ => tickOk t && decide (part < 8)
  | .poolWorkListReceive t _ _ _ => tickOk t
  | .strmOpen c p => ctxOk c && packetOk p
  | .strmPush c p _ => ctxOk c && packetOk p
  | .strmSwapOut c p => ctxOk c && packetOk p
  | .strmSwapIn c p => ctxOk c && packetOk p
  | .strmClose c p => ctxOk c && packetOk p
  | .strmQuery c p => ctxOk c && packetOk p
  | .strmState c p _ => ctxOk c && packetOk p
  | .streamStepBoundary t lreg _ _ => tickOk t && decide (lreg < 32)
  | .streamResync t handle _ => tickOk t && decide (handle < 65536)
  | .streamSwapComplete t handle _ => tickOk t && decide (handle < 65536)
  | .streamChunkDeadline t handle => tickOk t && decide (handle < 65536)
  | .slvSolve c p _ => ctxOk c && packetOk p
  | .slvParam c p _ => ctxOk c && packetOk p
  | .slvQuery c p => ctxOk c && packetOk p
  | .slvReset c p => ctxOk c && packetOk p
  | .solverRunStart t slot => tickOk t && decide (slot < 256)
  | .vectorProgramStart t slot => tickOk t && decide (slot < 256)
  | .measWaitExpire t slot => tickOk t && decide (slot < 256)
  | .solverRunComplete t slot _ => tickOk t && decide (slot < 256)
  | .solverDeadline t slot => tickOk t && decide (slot < 256)
  | .solverOutputWritten t slot => tickOk t && decide (slot < 256)
  | .servo t d e _ => tickOk t && entryOk d e
  | .residualReturn t g _ => tickOk t && decide (g < 16)
  | .policyMissing t g => tickOk t && decide (g < 16)
  | .controlLaw t g => tickOk t && decide (g < 16)
  | .outputPhase t g => tickOk t && decide (g < 16)
  | .cteOpen c p => ctxOk c && packetOk p
  | .cteClose c p => ctxOk c && packetOk p
  | .cteCoef c p _ => ctxOk c && packetOk p
  | .cteQuery c p => ctxOk c && packetOk p
  | .cteAck c p => ctxOk c && packetOk p
  | .encoderEdge t port _ _ => tickOk t && decide (port < 16)
  | .encoderIndexEdge t port => tickOk t && decide (port < 16)
  | .ssiFrameStart t port => tickOk t && decide (port < 16)
  | .ssiFrameComplete t port _ => tickOk t && decide (port < 16)
  | .sampleFrameStart t port => tickOk t && decide (port < 8)
  | .sampleFrameComplete t port _ => tickOk t && decide (port < 8)
  | .faultInputAssert t f => tickOk t && decide (f < 16)
  | .faultInputRelease t f => tickOk t && decide (f < 16)
  | .periodBoundary t d => tickOk t && domainOk d
  | .task t d e => tickOk t && entryOk d e
  | .solve t d e => tickOk t && entryOk d e
  | .latch t d e => tickOk t && entryOk d e
  | .output t d e => tickOk t && entryOk d e
  | .fetch t d e _ _ => tickOk t && entryOk d e
  | .slice t d e => tickOk t && entryOk d e
  | .golden t d e => tickOk t && entryOk d e
  | .selftest t d e _ => tickOk t && entryOk d e
  | .taskComplete t _ _ _ => tickOk t
  | .watchdogLate t d e => tickOk t && entryOk d e
  | .lineStart t stream _ => tickOk t && decide (stream < 32)
  | .frameStart t stream _ => tickOk t && decide (stream < 32)
  | .frameEnd t stream _ => tickOk t && decide (stream < 32)
  | .bandConverted t stream _ => tickOk t && decide (stream < 32)
  | .syncInEdge t n => tickOk t && decide (n < 4)
  | .sourceLost t d => tickOk t && domainOk d
  | .rateWindow t d => tickOk t && domainOk d
  | .timeExchange t d _ => tickOk t && domainOk d
  | .ptpTimeout t _ => tickOk t
  | .phaseRead c p => ctxOk c && packetOk p
  | .tblStage c p => ctxOk c && packetOk p
  | .tblSwap c p => ctxOk c && packetOk p
  | .domAdj c p => ctxOk c && packetOk p
  | .replyWrite t c _ _ => tickOk t && ctxOk c
  | .busyAgeExpire t c _ => tickOk t && ctxOk c
  | .commandDeadlineExpire t c _ => tickOk t && ctxOk c
  | .loadWindow t load => tickOk t && decide (load ≤ 100)
  | .ctxAttach c p _ => ctxOk c && packetOk p
  | .ctxDetach c p => ctxOk c && packetOk p
  | .ctxReset c p _ => ctxOk c && packetOk p
  | .ctxSuspend c p => ctxOk c && packetOk p
  | .ctxResume c p => ctxOk c && packetOk p
  | .ctxQuery c p => ctxOk c && packetOk p
  | .nop c p => ctxOk c && packetOk p
  | .imgLoad c p _ => ctxOk c && packetOk p
  | .imgLoadAccept t => tickOk t
  | .imgLoadComplete t => tickOk t
  | .imgUnload c p => ctxOk c && packetOk p
  | .imgQuery c p => ctxOk c && packetOk p
  | .execTask c p => ctxOk c && packetOk p
  | .decodeInputComplete t c _ _ => tickOk t && ctxOk c
  | .memWrite c p _ => ctxOk c && packetOk p
  | .memRead c p => ctxOk c && packetOk p
  | .memFill c p => ctxOk c && packetOk p
  | .syncCreate c p => ctxOk c && packetOk p
  | .syncMap c p => ctxOk c && packetOk p
  | .syncUnmap c p => ctxOk c && packetOk p
  | .syncSignal c p => ctxOk c && packetOk p
  | .syncWait c p => ctxOk c && packetOk p
  | .syncWaitTimeout t c _ => tickOk t && ctxOk c
  | .syncTake c p => ctxOk c && packetOk p
  | .syncInit c p => ctxOk c && packetOk p
  | .syncQuery c p => ctxOk c && packetOk p
  | .canFrameReceive t ctl _ => tickOk t && decide (ctl < 4)
  | .canFramePresent t ctl => tickOk t && decide (ctl < 4)
  | .canTxResult t ctl _ => tickOk t && decide (ctl < 4)
  | .canRecover ctl => decide (ctl < 4)
  | .canRecoveryComplete t ctl => tickOk t && decide (ctl < 4)
  | .canAckWrite ctl q _ => decide (ctl < 4) && decide (q < 8)
  | .canTxReq t ctl b _ => tickOk t && decide (ctl < 4) && decide (b < 8)
  | .canTxCancel ctl b _ => decide (ctl < 4) && decide (b < 8)
  | .canTxBufferWrite ctl b index _ => decide (ctl < 4) && decide (b < 8) && decide (index ≤ 16)
  | .aliveTimeout t => tickOk t
  | .safeInLow t => tickOk t
  | .heartbeatToggle t => tickOk t
  | .selftestSliceEnd t d e _ => tickOk t && entryOk d e
  | .coverLoss t lreg => tickOk t && decide (lreg < 32)
  | .goldenCompare t d e _ => tickOk t && entryOk d e
  | .clockMonitorTrip t _ _ => tickOk t
  | .voltageMonitorTrip t _ _ => tickOk t
  | .temperatureTrip t _ _ => tickOk t
  | .safeQuery c p => ctxOk c && packetOk p
  | .safeEnter c p => ctxOk c && packetOk p
  | .safeRelease c p _ => ctxOk c && packetOk p
  | .safeLogRead c p => ctxOk c && packetOk p
  | .tamperTrip t _ => tickOk t
  | .drbgReseed t _ => tickOk t
  | .nonceLapse t => tickOk t
  | .secQuery c p => ctxOk c && packetOk p
  | .secNonce c p => ctxOk c && packetOk p
  | .secAttest c p _ => ctxOk c && packetOk p
  | .secLogRead c p => ctxOk c && packetOk p
  | .secSvnCommit c p _ => ctxOk c && packetOk p
  | .secOwnerEnrol c p _ _ => ctxOk c && packetOk p
  | .secLifecycle c p _ => ctxOk c && packetOk p
  | .secDebugOpen c p _ => ctxOk c && packetOk p
  | .zeroisationComplete t => tickOk t
  | .secTamperPolicy c p _ => ctxOk c && packetOk p
  | .secKeyImport c p _ _ => ctxOk c && packetOk p
  | .secSystemSet c p _ _ => ctxOk c && packetOk p
  | .getVersion _ => true
  | .getCapabilities _ => true
  | .negotiateAlgorithms _ => true
  | .getDigests _ => true
  | .getCertificate _ => true
  | .challenge _ => true
  | .getMeasurements _ => true
  | .keyExchange _ => true
  | .finish _ => true
  | .endSession _ => true
  | .ideKm _ stream => ideOk stream
  | .ideCheckFail t stream => tickOk t && ideOk stream
  | .rolinkLinkUp t port peer _ _ => tickOk t && decide (port < 4) && decide (peer < 8)
  | .rolinkKeyRenew t port _ => tickOk t && decide (port < 4)
  | .rolinkFlitCrcFail port => decide (port < 4)
  | .rolinkRetryFail t port => tickOk t && decide (port < 4)
  | .remoteAccessReceive t _ => tickOk t
  | .ethFrameReceive t port _ => tickOk t && decide (port < 6)
  | .completionTimeout t _ => tickOk t
  | .hostCompletionError t _ => tickOk t
  | .lpddrReadEccError t channel _ _ => tickOk t && decide (channel < 16)
  | .lpddrRetryFail t channel _ => tickOk t && decide (channel < 16)
  | .pmbusPollWindow t _ _ => tickOk t
  | .pmbAlert t _ => tickOk t
  | .droopTrip t d r => tickOk t && regionOk d r
  | .stretchEnd t d r _ => tickOk t && regionOk d r
  | .srvDrain c p => ctxOk c && packetOk p
  | .drainComplete t part => tickOk t && decide (part < 8)
  | .srvRepair c p => ctxOk c && packetOk p
  | .repairComplete t part _ => tickOk t && decide (part < 8)
  | .srvResume c p => ctxOk c && packetOk p
  | .resumeComplete t part _ _ => tickOk t && decide (part < 8)
  | .srvPartLoad c p _ => ctxOk c && packetOk p
  | .srvFwUpdate c p _ => ctxOk c && packetOk p
  | .fwHandoverTakeover t => tickOk t
  | .fwHandoverReturn t => tickOk t
  | .srvFlashWrite c p _ => ctxOk c && packetOk p
  | .flashWriteComplete t _ => tickOk t
  | .srvReset c p => ctxOk c && packetOk p
  | .pwrCapSet c p => ctxOk c && packetOk p
  | .srvQuery c p => ctxOk c && packetOk p
  | .tlmOpen c p => ctxOk c && packetOk p
  | .tlmClose c p => ctxOk c && packetOk p
  | .telemetryRecord t stream _ => tickOk t && decide (stream < 8)
  | .channelDisagree t => tickOk t
  | .schedFault t => tickOk t
  | .rolinkCounterSignal t pkg part counter _ => tickOk t && decide (pkg < 8) && decide (part < 8) && decide (counter < 16384)
  | .rolinkForward port dest => decide (port < 4) && decide (dest < 8)
  | .canReceiveError ctl _ => decide (ctl < 4)
  | .ethLinkChange port _ => decide (port < 6)
  | .csiPortChange port _ => decide (port < 8)
  | .configurationRequest _ => true

end Sys2Proof
end

