-- ==== Sys2Proof/Tests/Slice0.lean ====
section
/-! SUPPORT. Tests: terms that WellFormed refuses, worked examples of the spec, and for every statement with hypotheses a state and
operands that meet them (theorems `met_…`). -/
open Sys2Proof Sys2Proof.Machine

/-! ## Small states -/

/-- A packet of an opcode with bytes from byte 16 on. -/
def pk (op : Nat) (bytes : List Byte := []) : Packet := { opcode := BitVec.ofNat 16 op, params := bytes }

/-- The part with contexts 0 and 1 ATTACHED in partition 0. -/
def live : State := { State.reset with
  cmd := { ctxs := [(0, { state := .attached, cls := 2 }), (1, { state := .attached, cls := 2 })] } }

/-- An image of one region, one partition and 64 contexts. -/
def img0 : Image := { regions := 1, parts := [{ id := 0, regions := [0], contexts := List.range 64 }] }

/-- The part with an image loaded, its region bound to region 0 of die 0. -/
def served : State := { live with
  glob := { imageLoaded := true, hubReady := true, die0Up := true, die1Up := true, lmap := [(0, (0, 0))] }, image := some img0 }

/-- A command of a context with nothing queued starts where every check of its header passes. -/
theorem starts_now (s : State) (c : Nat) (p : Packet) (op : Nat)
    (h : (s.powered, p.opcode.toNat, (s.ctx c).state, s.startCheck p none, s.headOf c, s.mayFetch c, s.fenceOk c s.cmd.nextUid p,
      s.headerCheck p, s.ctxDead c, s.cmd.queue, decide (0 < s.qmax (s.ctx c).part 2), decide (0 < s.qmax (s.ctx c).part 3)) =
      (true, op, CtxState.attached, none, none, true, true, none, false, [], true, true)) : s.Starts c p op := by
  simp only [Prod.mk.injEq, decide_eq_true_eq] at h
  obtain ⟨h1, h2, h3, h4, h5, h6, h7, h8, h9, hq, m2, m3⟩ := h
  refine ⟨h1, h2, h3, h4, Or.inr (by simp [State.controlWaits, hq]), by simp [h9], Or.inr ⟨h5, h6, h7, h8, h9, ?_, fun cls => ?_⟩⟩
  · simp [State.controlFull, hq, countIf]
  · have m : 0 < s.qmax (s.ctx c).part cls := by
      by_cases e : cls = 2
      · exact e ▸ m2
      · simpa [State.qmax, e] using m3
    simp [State.queueFull, State.queueLen, hq, countIf, Nat.pos_iff_ne_zero.mp m]

/-- 20 bytes of a ring control block with the smallest command ring, the largest reply ring and the last vector. -/
def rcbBytes : List Byte := List.replicate 16 0 ++ [6, 16, 63, 2]

/-! ## Hypotheses met: the step, registers, contexts and the start -/

theorem met_StepsAnswer : State.reset.pending = [] ∧ State.reset.powered = true ∧ ({ State.reset with powered := false } : State).pending = [] ∧
    exec .pwrgoodFall State.reset = .next ({ State.reset with powered := false } : State).bare := ⟨rfl, rfl, rfl, rfl⟩

theorem met_CountersClear : State.reset.powered = true ∧ State.reset.enabled (rkey 1 15) = true ∧
    ({ State.reset with glob := { enabled0 := 0xFFFE } } : State).enabled (rkey 0 0) = false := by decide

theorem met_RegisterAccesses : State.reset.powered = true ∧ State.reset.glob.imageLoaded = false ∧ State.reset.glob.loading = false ∧
    served.glob.imageLoaded = true ∧ (State.reset.ctx 0).state = .detached ∧ (live.ctx 0).state ≠ .detached ∧
    (0x2000000 : Nat) ≤ 0x2000000 ∧ ((2 : Nat) ≠ 4 ∨ 0x200011 % 4 ≠ 0) ∧ maskBit (0x80 : Word) 7 = true ∧ maskBit (0x80 : Word) 0 = false ∧
    (State.reset.dom 0).state ≠ .idle ∧ (State.reset.dom 0).source = 0 ∧ 0 ≤ (State.reset.dom 0).timeVal (max State.reset.time.cnt 5) := by decide

theorem met_ContextZero : readRcb 0 (.data rcbBytes) = .ok { cmdRing := 0, rplRing := 0, cmdLog2 := 6, rplLog2 := 16, vector := 63, cls := 2 } ∧
    readRcb 0 (.data (List.replicate 16 0 ++ [5, 16, 63, 2])) = .error stBadParam ∧ (State.reset.ctx 0).state = .detached ∧
    (live.ctx 0).state ≠ .detached := ⟨rfl, rfl, rfl, by decide⟩

theorem met_SessionCommands :
    (served.Starts 0 (pk 0x0101 [63, 0]) 0x0101 ∧ chkCtxAttach served 0 (pk 0x0101 [63, 0]) = none ∧
      readRcb (u8 (pk 0x0101 [63, 0]) 17) (.data rcbBytes) = .ok { cmdRing := 0, rplRing := 0, cmdLog2 := 6, rplLog2 := 16, vector := 63, cls := 2 } ∧
      readRcb (u8 (pk 0x0101 [63, 0]) 17) .failed = .error stEcc) ∧
    (served.Starts 0 (pk 0x0102 [1]) 0x0102 ∧ chkSession 0 (pk 0x0102 [1]) = none ∧ (served.ctx (sessCtx (pk 0x0102 [1]))).state ≠ .detached ∧
      chkSession 0 (pk 0x0102 [63]) = none ∧ (served.ctx (sessCtx (pk 0x0102 [63]))).state = .detached) ∧
    (served.Starts 0 (pk 0x0103 [1]) 0x0103 ∧ chkCtxReset served 0 (pk 0x0103 [1]) = none) ∧
    (served.Starts 0 (pk 0x0104 [1]) 0x0104 ∧ chkSession 0 (pk 0x0104 [1]) = none ∧ (served.ctx 1).state = .attached ∧ (served.ctx 63).state ≠ .attached) ∧
    (served.Starts 0 (pk 0x0105 [1]) 0x0105 ∧ chkSession 0 (pk 0x0105 [1]) = none ∧ (served.ctx 1).state ≠ .suspended ∧
      ((served.setCtx 1 { served.ctx 1 with state := .suspended }).ctx 1).state = .suspended) ∧
    (served.Starts 0 (pk 0x0106 [63]) 0x0106 ∧ chkCtxQuery 0 (pk 0x0106 [63]) = none ∧ sessCtx (pk 0x0106 [63]) ≠ 0) ∧
    served.Starts 0 (pk 0x0107) 0x0107 :=
  ⟨⟨starts_now _ _ _ _ rfl, rfl, rfl, rfl⟩, ⟨starts_now _ _ _ _ rfl, rfl, by decide, rfl, rfl⟩, ⟨starts_now _ _ _ _ rfl, rfl⟩,
    ⟨starts_now _ _ _ _ rfl, rfl, rfl, by decide⟩, ⟨starts_now _ _ _ _ rfl, rfl, by decide, rfl⟩,
    ⟨starts_now _ _ _ _ rfl, rfl, by decide⟩, starts_now _ _ _ _ rfl⟩

/-- The part once the ROM has run and before HUB_READY. -/
def romRan : State := { State.reset with sec := { booted := true } }

theorem met_PartStarts : State.reset.sec.mram.zrec = none ∧ (1000 : Nat) ≤ 1000 ∧ 999 < 1000 ∧
    (romRan.powered = true ∧ romRan.sec.booted = true ∧ romRan.glob.hubReady = false ∧ romRan.glob.safeHold = false ∧
      romRan.safe.inj.getLsbD 31 = false ∧ (15 : Nat) < 16 ∧ (65535 : Nat) < 65536) ∧
    (let h : State := { romRan with glob := { hubReady := true, die1Up := true } };
      h.glob.hubReady = true ∧ h.glob.safeHold = false ∧ h.glob.die0Up = false ∧ h.glob.die1Up = true ∧ h.lnk.lpTrained = false) ∧
    (let h : State := { romRan with glob := { hubReady := true }, lnk := { lpTrained := true, perst := true } };
      h.lnk.lpTrained = true ∧ h.pwr.lpddrInit = true ∧ h.sec.mram.zrec = none ∧ h.glob.hubReady = true ∧ h.lnk.perst = true ∧
      h.glob.die0Up = false ∧ h.glob.die1Up = false) := by decide

/-- Contexts of the physical function, of virtual function 31 and of a firmware agent. -/
def funcs : State := { State.reset with
  cmd := { ctxs := [(0, { state := .attached }), (1, { state := .attached, func := 31 }), (63, { state := .attached, func := 0x40 })] } }

theorem met_PcieResets : funcs.powered = true ∧ (funcs.ctx 1).func < 0x20 ∧ 0x20 ≤ (funcs.ctx 63).func ∧ (funcs.ctx 1).state ≠ .detached ∧
    (funcs.ctx 1).func = 31 ∧ (funcs.ctx 0).func ≠ 31 ∧ (funcs.ctx 0).func = 0 ∧ 31 < (funcs.ctx 63).func ∧
    ({ funcs with lnk := { crs := true } } : State).lnk.crs = true ∧ ({ funcs with lnk := { crs := false } } : State).lnk.crs = false := by decide

/-- The links up: Rolink port 3 keyed, LPDDR trained, the link IDE stream secure, region 0's links used by partition 0. -/
def linked : State := { served with lnk := { rolUp := 8, lpTrained := true, ide := [(8, .secure)] },
                                    cte := { groups := [(15, { valid := true, result := .waiting })] },
                                    image := some { img0 with links := [⟨1, 0, [0]⟩] } }

theorem met_LinkFaults : linked.powered = true ∧ linked.rolOk 3 = true ∧ linked.lnk.lpTrained = true ∧
    tblGet .unkeyed linked.lnk.ide (ideKey .link) = .secure ∧ linkDie (.noc 0 0) = 0 ∧ linkDie (.noc 1 0) ≠ 0 ∧
    linked.linkParts 0 0 = [] ∧ linked.linkParts 1 0 ≠ [] ∧ (linked.group 15).valid = true ∧ (linked.group 15).result = .waiting ∧
    (∀ r ∈ linked.cmd.running, r.cmd.ctx = 0 → r.cmd.tag ≠ 7) := by decide

theorem met_RolinkPeersAndWrites :
    (let s : State := { served with sec := { mram := { system := [5] } } };
      s.powered = true ∧ s.glob.hubReady = true ∧ (3 : Nat) < 4 ∧ maskBit s.lnk.rolFault 3 = false ∧ s.sec.mram.system[0]? = some 5 ∧
      s.sec.mram.system[1]? ≠ some 5) ∧
    served.spaBound 0 16 = true ∧ served.spaOf 0 0 16 = true ∧ served.spaOf 1 0 16 = false ∧ served.spaKey 0 = some 0 ∧ (0 : Nat) < 16 :=
  ⟨⟨rfl, rfl, by decide, rfl, rfl, nofun⟩, by decide⟩

theorem met_SafetyEvents : (7 : Nat) < 8 ∧ (2 : Nat) ≤ 2 ∧ State.reset.partSafe 7 = false ∧ State.reset.safe.package = false ∧
    ({ State.reset with safe := { parts := 0x80 } } : State).partSafe 7 = true ∧
    maskBit (tblGet 0 ({ State.reset with safe := { depend := [(0, 0x80)] } } : State).safe.depend 0) 7 = true := by decide

/-! ## Hypotheses met: layer passes, regions, the scratchpad, power, commands, sequences -/

/-- A pass of one column in region 0 whose four clusters have strobed their sets: its column's result is 0, with `ovf` overflows counted; layer
7 is a codebook layer. A pass of a template step serves two positions, of which the second counts them. -/
def onePass (ovf cls : Nat) (fallback template : Bool) : RunPass :=
  { key := ⟨.cmd 1 7, 0⟩, cfg := { shares := [{ out := some 0 }] }, share := 0, cls := cls, vecs := if template then [0, 1] else [0], template := template,
    ready := true, desc := { layerId := 7, mode := 1, fallback := fallback, codebook := [0x3F80] }, strobed := [(0, 1), (1, 1), (2, 1), (3, 1)],
    store := [(if template then 1 else 0, { col := { ovf := ovf } })] }

/-- The part while passes run in region 0. -/
def passing (p : RunPass) : State := { served with cmp := { works := [{ id := .cmd 1 7 }], regions := [(0, { passes := [p] })] } }

/-- The regions of its pass, with their results. -/
def endsOf (p : RunPass) : List ShareEnd := (passing p).shareEnds ⟨.cmd 1 7, 0⟩

theorem met_LayerPass : ∀ p ∈ [onePass 0 2 true false, onePass 1 2 true false, onePass 1 0 true false, onePass 1 2 false false],
    (passing p).powered = true ∧ ((leadShare (endsOf p)).any fun l => l.p == p) = true ∧ ((endsOf p).map ShareEnd.k).Nodup ∧
    (∀ e ∈ endsOf p, ((passing p).advance 0).shareDone e.k e.p = true ∧ e.p.wide = none) ∧
    p.cfg.use = .product ∧ p.template = false ∧ ((passing p).workStatus (some (.cmd 1 7))).usable = true ∧ ∀ e ∈ (passing p).passes, e.2.ready = true := by
  decide

theorem met_LayerTrips : (runCounts ((endsOf (onePass 0 2 true false)).flatMap fun e => e.cols.flatten)).1 = 0 ∧
    (runCounts ((endsOf (onePass 1 2 true false)).flatMap fun e => e.cols.flatten)).1 = 1 ∧ (onePass 1 2 true false).marked = true ∧
    (onePass 1 0 true false).marked = false ∧ (onePass 1 2 false false).marked = false := by decide

/-- The wide re-run of the pass, its sets strobed. -/
def rerunning : RunPass := { (onePass 1 2 true false).again [0] with strobed := [(0, 1), (1, 1), (2, 1), (3, 1)] }

theorem met_WideRerun : ((leadShare (endsOf rerunning)).any fun l => l.p == rerunning) = true ∧ ((endsOf rerunning).map ShareEnd.k).Nodup ∧
    (∀ e ∈ endsOf rerunning, ((passing rerunning).advance 0).shareDone e.k e.p = true ∧ e.p.wide.isSome = true) ∧ rerunning.cfg.use = .product ∧
    rerunning.template = false ∧ ((passing rerunning).workStatus (some (.cmd 1 7))).usable = true := by decide

theorem met_TemplatePass :
    let p := onePass 1 2 true true
    (∀ e ∈ endsOf p, ((passing p).advance 0).shareDone e.k e.p = true ∧ e.p.wide = none) ∧ p.cfg.use = .product ∧ p.template = true ∧ 1 < p.vecs.length ∧
    p.marked = true ∧ ((leadShare (endsOf p)).map fun l => ((passing p).decideTrips l (tripGroups l (endsOf p))).2) = some [1] := by decide

/-- A pass whose descriptor, zeros, R68 refuses. -/
def zeroCfg : PassCfg := { shares := [{ bound := 256 }] }

theorem met_PassRefused : ((passing (onePass 0 2 true false)).workStatus (some (.cmd 1 7))).usable = true ∧ 0 < zeroCfg.shares.length ∧
    (let p := (passing (onePass 0 2 true false)).shareOf (.cmd 1 7) 2 0 none 1 zeroCfg 0;
      served.physOf p.sh.lreg = some 0 ∧ p.isAttn = false ∧ layerBad p.desc = true) ∧
    (({ served with cmp := { works := [{ id := .cmd 1 7, status := stEcc }] } } : State).workStatus (some (.cmd 1 7))).usable = false := by decide

/-- A pass of one set on cluster 0 in a fine shape. -/
def finePass : RunPass :=
  { key := ⟨.cmd 1 7, 0⟩, cfg := { shape := 1, shares := [{ clusters := [0] }] }, share := 0, vecs := [0], ready := true,
    desc := { mode := 1, codebook := [0x3F80] } }

/-- Region 0 with that pass and requests of its cluster, a stretch under way, and vectors in its cluster 1; region 1 with a pending port mode,
which its pass still uses in region 3. -/
def fine (loaded : Tbl Nat) (reqs : List SwapUnit) : State := { served with
  time := { cnt := 320 },
  cmp := { works := [{ id := .cmd 1 7 }],
           regions := [(0, { shape := 1, passes := [{ finePass with loaded := loaded }],
                             clusters := [(0, { shadow := (if loaded = [] then none else some { key := finePass.key, wave := 0 }), requests := reqs }),
                                          (1, { lastStrobe := some 100, vectors := 64 })] }),
                       (3, { passes := [{ onePass 0 2 true false with strobed := [(0, 1)] }] })],
           ports := [(0, { stretched := true, stretchT := 160 }), (1, { portPending := true, portNext := 4 }),
                     (3, { portPending := true, portNext := 4 })] } }

/-- Region 0 with its set loaded. -/
def busyRegion : State := fine [(0, 1)] []

theorem met_SwapStrobes : busyRegion.powered = true ∧ busyRegion.available (rkey 0 0) = true ∧ ((fine [] []).region 0).nextLoad 0 = some finePass ∧
    (((fine [] []).region 0).cluster 0).shadow = none ∧ (SwapUnit.tile 0) ∈ (busyRegion.region 0).gateUnits 0 ∧
    (SwapUnit.tile 0) ∉ ((busyRegion.region 0).cluster 0).requests ∧ ((fine [(0, 1)] [.tile 0]).advance 320).mayStrobe 0 [0] = true ∧
    (((fine [(0, 1)] [.tile 0]).region 0).cluster 0).shadow.isSome = true ∧ (busyRegion.region 0).gateReady 0 = false ∧
    ((busyRegion.region 0).cluster 1).lastStrobe = some 100 ∧ (busyRegion.advance 320).cycleOf 0 < 100 + 33 ∧
    (({ busyRegion with time := { cnt := 0 } } : State).advance 0).cycleOf 0 < ((busyRegion.region 0).cluster 0).loadCyc + 32 := by decide

theorem met_ShapeAndDirection : ((busyRegion.region 2).passes.any RunPass.midway) = false ∧ (busyRegion.region 2).shapeEnd ≤ (busyRegion.advance 320).cycleOf 2 ∧
    (∀ c, c < 4 → ((busyRegion.region 2).cluster c).delivered (latency (busyRegion.region 2).shape false) ((busyRegion.advance 320).cycleOf 2) = true ∧
      ((busyRegion.region 2).cluster c).lastStrobe = none) ∧
    ((busyRegion.region 0).cluster 1).delivered (latency 1 false) ((busyRegion.advance 320).cycleOf 0) = false ∧
    (busyRegion.region 0).shape ≠ 3 ∧ ({ busyRegion.region 2 with shape := 3 } : Region).shape = 3 := by decide

theorem met_TileCoreHalts : maskBit (busyRegion.region 0).halted 0 = false ∧ maskBit (busyRegion.region 0).halted 63 = false ∧
    ((busyRegion.region 0).coreMaybe 0).isSome = true ∧ (busyRegion.workStatus (some (.cmd 1 7))).usable = true ∧ (busyRegion.work (.cmd 1 7)).isSome = true := by
  decide

theorem met_PortModes : (busyRegion.port 1).portPending = true ∧ busyRegion.available (rkey 0 1) = true ∧ (busyRegion.advance 320).cycleOf 1 % 16 = 0 ∧
    (busyRegion.advance 320).modeInUse 1 = false ∧ (busyRegion.advance 323).cycleOf 1 % 16 ≠ 0 ∧ (busyRegion.advance 320).modeInUse 3 = true := by decide

/-- A transfer to LPDDR of two rows of four bytes, in a window of 2,048 bytes and an LPDDR window of 64 bytes from byte 4,096. -/
def twoRows : Xfer := { src := .at_ 64, desc := { kind := 2, rowBytes := 4, rows := 2, spStride := 4, farStride := 60 }, bound := 2048, lp := 4096,
                        lpLen := 64, work := some (.cmd 1 7) }

/-- Region 0 whose slots 0, 64, 65 and 66 the work of task 1 holds, 65 stopped, with a transfer that runs. Its scratchpad holds
the transfer's descriptor at 64, and at 320 an operation that is reserved. -/
def windows : State := { served with
  image := some { img0 with parts := [{ id := 0, regions := [0], lpBase := 4096, lpLen := 64 }] },
  cmp := { works := [{ id := .cmd 1 7, task := some { index := 1, kind := .xfer 64, winBound := 2048, lpLen := 64 } }],
           sp := [(0, 1), (64, 2), (68, 4), (72, 2), (320, 7)],
           ports := [(0, { wins := [(0, ⟨0, 2048, 0, some (.cmd 1 7), false⟩), (64, ⟨0, 2048, 0, some (.cmd 1 7), false⟩),
                                    (65, ⟨0, 2048, 0, some (.cmd 1 7), true⟩), (66, ⟨0, 2048, 0, some (.cmd 1 7), false⟩)],
                           xferRun := true, xfers := [twoRows] })] } }

/-- The same before the transfer starts. -/
def waitingXfer : State := { windows with cmp := { windows.cmp with ports := [(0, { windows.port 0 with xferRun := false })] } }

theorem met_ScratchpadAccesses : windows.powered = true ∧ windows.available (rkey 0 0) = true ∧ (windows.winOf 0 64).work.isSome = true ∧
    (windows.winOf 0 64).stopped = false ∧
    (let a : SpAcc := { client := .af, slot := 64, lane := 0, offset := 0, length := 2048 };
      windows.inWin (windows.winOf 0 64) a.offset a.length = true ∧ (windows.advance 0).slotServes 0 a 0 = true ∧ (windows.advance 0).banksFree 0 a 0 = true ∧
      windows.walkServes 0 a 0 = true ∧ windows.spPoisoned 0 2048 = false ∧ (windows.advance 0).slotServes 0 { a with lane := 1 } 0 = false ∧
      windows.inWin (windows.winOf 0 64) 2047 2 = false ∧ windows.inWin (windows.winOf 0 0) 2047 2 = false ∧
      (windows.workStatus (some (.cmd 1 7))).usable = true ∧ (∀ e ∈ windows.passes, e.2.ready = true)) ∧
    (windows.winOf 0 65).stopped = true ∧ (windows.winOf 0 67).work = none := by decide

theorem met_Transfers : (waitingXfer.port 0).xferRun = false ∧ (waitingXfer.port 0).xfers = [twoRows] ∧
    (let dd := xferOf (fun o => waitingXfer.spByte (twoRows.base + o)) 64;
      waitingXfer.inRange twoRows.base twoRows.bound 64 64 = true ∧ waitingXfer.spPoisoned 64 64 = false ∧ dd.kind = 2 ∧
      xferBad (waitingXfer.glob.pkgCount.toNat + 1) dd = false) ∧
    xferBad (waitingXfer.glob.pkgCount.toNat + 1) (xferOf (fun o => waitingXfer.spByte o) 320) = true ∧ (windows.port 0).xferRun = true ∧
    (windows.work (.cmd 1 7)).isSome = true ∧
    (∀ x ∈ (windows.port 0).xfers, x.desc.signal = false ∧ ((windows.advance 0).xferRows x [] 0 x.desc.rows).2 = none) := by decide

theorem met_TransferRows : twoRows.desc.kind = 2 ∧ twoRows.desc.zero = false ∧
    windows.inRange twoRows.base twoRows.bound (twoRows.desc.spOffset + 1 * twoRows.desc.spStride) twoRows.desc.rowBytes = true ∧
    twoRows.desc.farAddr + 1 * twoRows.desc.farStride + twoRows.desc.rowBytes ≤ twoRows.lpLen ∧
    windows.spPoisoned (twoRows.base + (twoRows.desc.spOffset + 1 * twoRows.desc.spStride)) twoRows.desc.rowBytes = false ∧
    windows.inRange twoRows.base twoRows.bound (twoRows.desc.spOffset + 512 * twoRows.desc.spStride) twoRows.desc.rowBytes = false ∧
    twoRows.lpLen < twoRows.desc.farAddr + 2 * twoRows.desc.farStride + twoRows.desc.rowBytes := by decide

/-- One row of one element of two bytes. -/
def oneTap (op : Nat) : AgenDesc := { op := op, rowPitch := 2, dst := 128, dstPitch := 2 }

/-- The window above with a descriptor of one operation at 0: one row of one element of two bytes from 512 to 1,024. -/
def agenAt (op : Byte) : State := { windows with cmp := { windows.cmp with
  sp := [(0, op), (1, 1), (5, 2), (9, 4), (12, 1), (14, 1), (16, 1), (18, 1)] ++ (List.range 6).map (fun k => (20 + k, 1)) ++
    [(32, 2), (40, 64), (46, 1), (48, 1), (50, 1)] } }

theorem met_AddressGenerator : windows.powered = true ∧ (windows.winOf 0 66).work.isSome = true ∧ (windows.winOf 0 66).stopped = false ∧
    windows.inWin (windows.winOf 0 66) 0 64 = true ∧ windows.spPoisoned 0 64 = false ∧ agenBad (agenOf (fun o => windows.spByte o) 0) = true ∧
    (∀ op ∈ [1, 2, 3, 4], let a := agenOf (fun o => (agenAt (BitVec.ofNat 8 op)).spByte o) 0
      agenBad a = false ∧ a.op = op ∧ a.signal = false) ∧
    (let w := windows.winOf 0 66
     let b := fun op : Byte => ((agenAt op).advance 0).setPort 0 { (agenAt op).port 0 with agenOp := op.toNat, agenRun := false }
     let a := fun op : Byte => agenOf (fun o => (agenAt op).spByte o) 0;
      (State.agenRows w (expandRows w (a 2)) (b 2) 0).2 = (0, none) ∧ (State.agenRows w (poolRows w (a 3)) (b 3) 0).2 = (0, none) ∧
      ((b 4).gatherRows 0 w (a 4) 0 (a 4).oyCnt).2 = none) := by decide

theorem met_GatherRows : (let w := windows.winOf 0 66;
      windows.inWin w ((oneTap 4).imgPitch + 4 * 8) 4 = true ∧ leNat (windows.spRead (w.base + ((oneTap 4).imgPitch + 4 * 8)) 4) < (oneTap 4).h ∧
      (oneTap 4).h ≤ leNat (windows.spRead (w.base + (oneTap 4).imgPitch) 4) ∧ windows.spPoisoned 0 4 = false ∧
      windows.inWin w ((oneTap 4).dst + 8 * (oneTap 4).dstPitch) ((oneTap 4).c * 2) = true ∧
      windows.inWin w ((oneTap 4).src + 0 * (oneTap 4).rowPitch) ((oneTap 4).c * 2) = true) := by decide

theorem met_TapGeometry : (oneTap 2).pt ≤ 0 ∧ 0 < (oneTap 2).pt + (oneTap 2).h ∧ (oneTap 2).pt + (oneTap 2).h ≤ 1 * (oneTap 2).sh ∧
    outDim 3 1 1 1 3 2 = some 2 ∧ (oneTap 2).kh * (oneTap 2).kw * (oneTap 2).c * 2 ≤ (oneTap 2).dstPitch := by decide

theorem met_ExpandRow : windows.expandRow (windows.winOf 0 66) (oneTap 2) 0 0 0 = .ok [1, 0] := rfl

theorem met_PowerManagement : busyRegion.powered = true ∧ (busyRegion.port 0).stretched = true ∧ (busyRegion.port 1).stretched = false ∧
    (busyRegion.port 0).stretchT + 160 ≤ max busyRegion.time.cnt 320 ∧ max busyRegion.time.cnt 320 < 161 + 160 ∧
    State.reset.pwr.throttle ≤ 16 ∧ railPower [some (900, 10000), none] > State.reset.pwr.cap ∧
    railPower [none] + 2000 < State.reset.pwr.cap ∧ railPower [some (1000, 7500)] ≤ State.reset.pwr.cap ∧
    State.reset.pwr.cap ≤ railPower [some (1000, 7500)] + 2000 ∧
    ({ State.reset with pwr := { throttle := 16, streak := 3 } } : State).pwr.throttle = 16 := by decide

/-- A packet whose deadline has passed, at 4 ticks. -/
def latePk : Packet := { pk 0x0002 with deadline := 0x0040000000000001 }

theorem met_CommandLifecycle :
    (let r := (served.begin_ 0 (pk 0x0106 [0]) 2).2
     let s := (served.begin_ 0 (pk 0x0106 [0]) 2).1;
      r.uid ∈ (s.ctx r.ctx).inflight ∧ r.uid ∉ (served.ctx r.ctx).inflight ∧ 0x0101 ≤ stBadParam.toNat ∧ (1 : Nat) ≠ r.ctx ∧
      served.headOf 0 = none) ∧
    served.Starts 0 (pk 0x0106 [0]) 0x0106 ∧ (served.ctx 63).state ≠ .attached ∧ (pk 0x0106).opcode.toNat ≠ 0x0107 ∧
    served.mayFetch 0 = true ∧ served.fenceOk 0 served.cmd.nextUid (pk 0x0106) = true ∧
    served.headerCheck (pk 0x0000) = some stBadOpcode ∧ served.headerCheck (pk 0x0106) = none ∧
    opcodes.contains 0x0106 = true ∧ opcodes.contains 0x0000 = false ∧ (0x0106 : Nat) ≠ 0x0A01 ∧
    (live.glob.imageLoaded = false ∧ live.sec.mram.zrec = none ∧ allowedWithoutImage 0x0310 (pk 0x0310) = false ∧ live.headerCheck (pk 0x0310) = none) :=
  ⟨by decide, starts_now _ _ _ _ rfl, by decide⟩

/-- A serving model of one layer, one head and four elements. -/
def mdl3 : ModelCfg := { index := 3, part := 0, maxLen := 256, layers := 1, heads := 1, dim := 4, vocab := 100,
                         templates := [{ seqMax := 2, tokMax := 1, chkMax := 64, time := 100, tokAt := some 0, posAt := some 4096 }] }

/-- An entry of the active-sequence table for model 3 in context 1. -/
def ent (st : SeqState) (left new : Nat) : SeqEntry :=
  { state := st, cls := 2, ctx := 1, model := 3, chunk := 2, maxLen := 256, promptLeft := left, newLeft := new, ringLog2 := 6, kvLen := 4096 }

/-- The part serving: entry 0 prompts with 65 tokens left, 1 decodes, 2 is idle, 3 leaves, 4 decodes its last token. -/
def serving : State := { served with
  time := { cnt := 100 },
  image := some { img0 with models := [mdl3], parts := [{ id := 0, regions := [0], kvLen := 0x20000, lpLen := 0x40000, seqQuota := 8, stageSlots := 4 }] },
  sched := { slices := [{ part := 0, endT := 1000 }] },
  srv := { ents := [(0, ent .prompt 65 4), (1, ent .decode 0 2), (2, ent .idle 0 0), (3, ent .retiring 0 0), (4, ent .decode 0 1)],
           shown := [(0, ent .prompt 65 4)], builders := [(0, { list := [(0, 64), (1, 1)], model := 3 })] } }

/-- SEQ_ADMIT of model 3: MAX_LEN 64, 63 prompt tokens, one new token, a ring of 2 ^ 6 records. -/
def admitPk : Packet := pk 0x0310 [2, 3, 0, 0xFF, 0, 0, 0, 0, 64, 0, 0, 0, 63, 0, 0, 0, 1, 0, 0, 0, 0, 0, 0, 0, 0, 0, 0, 0, 0, 0, 0, 0, 6]

theorem met_SequenceCommands :
    (serving.Starts 1 admitPk 0x0310 ∧ chkSeqAdmit serving 1 admitPk = none) ∧
    (serving.Starts 1 (pk 0x0311 [2, 0, 0, 0, 0, 0, 0, 0, 0, 0, 0, 0, 1, 0, 0, 0, 255]) 0x0311 ∧
      chkSeqAppend serving 1 (pk 0x0311 [2, 0, 0, 0, 0, 0, 0, 0, 0, 0, 0, 0, 1, 0, 0, 0, 255]) = none) ∧
    (serving.Starts 1 (pk 0x0312 [3]) 0x0312 ∧ chkSeqNamed serving 1 (pk 0x0312 [3]) = none ∧ (serving.seq 3).state = .retiring) ∧
    (serving.Starts 1 (pk 0x0312 [0]) 0x0312 ∧ chkSeqNamed serving 1 (pk 0x0312 [0]) = none ∧ (serving.seq 0).state ≠ .retiring) ∧
    (serving.Starts 1 (pk 0x0313 [0]) 0x0313 ∧ (tblGet {} serving.srv.shown 0).state ≠ .free ∧ (tblGet {} serving.srv.shown 1).state = .free) :=
  ⟨⟨starts_now _ _ _ _ rfl, rfl⟩, ⟨starts_now _ _ _ _ rfl, rfl⟩, ⟨starts_now _ _ _ _ rfl, rfl, rfl⟩,
    ⟨starts_now _ _ _ _ rfl, rfl, by decide⟩, ⟨starts_now _ _ _ _ rfl, by decide, rfl⟩⟩

theorem met_FirstFit : serving.kvFit 0 4096 = some 4096 := by decide

/-- Package 1 of a pooled model. -/
def mirror : State := { serving with glob := { serving.glob with pkgId := 1 },
                                     image := some { img0 with models := [{ mdl3 with pooled := true }] } }

/-- The serving part while its step runs. -/
def stepping : State := serving.setBuilder 0 { serving.builder 0 with running := true }

theorem met_Steps : serving.powered = true ∧ (serving.builder 0).running = false ∧ (serving.advance 999).sliceOpen 0 = true ∧
    (serving.advance 1000).sliceOpen 0 = false ∧ serving.noWork 0 = false ∧ serving.image.isSome = true ∧
    (serving.builder 0).list = [(0, 64), (1, 1)] ∧
    (∀ x ∈ (serving.builder 0).list, (serving.seq x.1).state = .prompt ∨ (serving.seq x.1).state = .decode) ∧
    (stepping.builder 0).running = true ∧ stepping.workQuiet (.step 0) = true ∧ stepping.model (stepping.builder 0).model = some mdl3 ∧
    mdl3.templates[(stepping.builder 0).tpl]?.isSome = true ∧
    (mirror.model 3).any (fun m => m.pooled && !(mirror.builder m.part).running) = true ∧ mirror.glob.pkgId ≠ 0 ∧
    (serving.seq 0).slot = none ∧ (seqFromBytes mdl3 []).slot = none := by decide

/-- Position 0 of the prompt of entry 0. -/
def firstPos : StepPos := ⟨0, 0, 0, true⟩

theorem met_StepTokens : serving.tokenFault mdl3 firstPos = stOk ∧ serving.tokenFault { mdl3 with vocab := 0 } firstPos = stDataError ∧
    ({ stepping with cmp := { works := [{ id := .step 0 }] } } : State).work (.step 0) = some { id := .step 0 } := by decide

/-- The template of the model, and its output-stage inputs. -/
def tpl3 : Template := { seqMax := 2, tokMax := 1, chkMax := 64, time := 100, outAt := 8192, outLen := 1 }

/-- The serving part with an output-stage input of position 1 that is infinite. -/
def infOut : State := { serving with cmp := { sp := [(8198, 0x80), (8199, 0x7F)] } }

theorem met_SequenceAdvance :
    worstFault (serving.seqFaults (.step 0) tpl3 0 64 false) = none ∧ worstFault ([stDataError] ++ [stEcc]) = some stEcc ∧
    worstFault (infOut.seqFaults (.step 0) tpl3 1 1 true) = some stDataError ∧
    (serving.seq 0).state = .prompt ∧ 64 < (serving.seq 0).promptLeft ∧ (serving.seq 1).state = .decode ∧ 1 < (serving.seq 1).newLeft ∧
    worstFault (serving.seqFaults (.step 0) tpl3 1 1 true) = none ∧ (serving.seq 4).newLeft = 1 ∧ (serving.seq 4).keep = false ∧
    (serving.seq 1).corrupt = false ∧ (serving.seq 1).gone = false ∧ serving.mirrored (serving.seq 1) = false ∧
    lostPark {} 4 = none ∧ lostPark ⟨[(4, stNotAuth)], [1]⟩ 4 = some stNotAuth ∧ ((serving.seq 4).length + 1) % 64 ≠ 0 ∧
    (let x : SeqEntry := { (serving.seq 4) with keep := true }; x.keep = true ∧ x.cls = 2 ∧ serving.stagePoisoned x mdl3 = false) := by decide

/-- Entry 1 with two positions and a staging slot. -/
def attending : State := serving.setSeq 1 { ent .decode 0 2 with length := 2, slot := some 0 }

/-- An attention pass of one head in region 0, whose query lies at 0 and whose output at 256. -/
def attnPass : RunPass :=
  { key := ⟨.step 0, 0⟩, cfg := { use := .attn 0 false, shares := [{ bound := 512, acts := [0], out := some 256 }] }, share := 0, vecs := [0] }

/-- The model with a staging area, and the part with that area at 4,096 of region 0. -/
def stagedMdl : ModelCfg := { mdl3 with layerRegs := [0] }
def staged : State := { attending with image := some { img0 with models := [stagedMdl], parts := [{ id := 0, regions := [0], stageSlots := 4, stageAt := [(0, 4096)] }] } }

theorem met_AttentionResults :
    admitsKey (some { window := 64, globals := [3] }) 100 3 = true ∧ admitsKey (some { window := 64, globals := [3] }) 100 36 = false ∧
    admitsKey (some { window := 64, globals := [3] }) 100 37 = true ∧ admitsKey none 100 101 = false ∧
    attending.stepVaries (attending.seq 1) mdl3 = false ∧ (staged.seq 1).length % 64 ≠ 63 ∧ 0 < stagedMdl.heads ∧
    staged.stageBase (staged.seq 1) stagedMdl 0 = some 4096 ∧ staged.spaKey 4096 ≠ none ∧ 4096 % sliceLen + stageLayer stagedMdl ≤ sliceLen ∧
    staged.inRange attnPass.sh.base attnPass.sh.bound 0 8 = true ∧ staged.inRange attnPass.sh.base attnPass.sh.bound 512 8 = false ∧
    staged.inRange attnPass.sh.base attnPass.sh.bound 256 8 = true ∧
    (staged.winPoisoned attnPass (0, 8) || staged.attnPoisoned (staged.seq 1) stagedMdl 3 0 0 2) = false ∧
    ({ staged with cmp := { spPoison := [0] } } : State).winPoisoned attnPass (0, 8) = true := by decide

/-- e = 2.7182818… and 1/e = 0.3678794…: the FP32 values at or just below them, 0x402DF854 and 0x3EBC5AB1 (hand calculation). -/
theorem test_expBelow : expBelow false 1 0 = 0x402DF854 ∧ expBelow true 1 0 = 0x3EBC5AB1 := by decide
/-- e^-104 lies below half of the smallest FP32 value, e^89 above the largest. -/
theorem test_expRange : expBelow true 105 0 = 0 ∧ expBelow false 89 0 = 0x7F800000 ∧ expF 0xFF800000 = 0 := by decide

/-- One key of each of the positions 0 to 2, of dimension 1; position 1 is masked. -/
def threeKeys (v : Nat → BitVec 16) : AttnIn :=
  { query := [0x3F80], key := fun _ => [0x3F80], val := fun j => [v j], admits := fun j => j == 0 || j == 2, dim := 1, act16 := false, kv16 := false }

/-- Two scores of 1 × 1, the masked one absent. -/
theorem test_scores : (threeKeys fun _ => 0).scores 0 3 = [some 0x3F800000, none, some 0x3F800000] := by decide

theorem met_WorkListBounds : (serving.srv.ents.map Prod.fst).Nodup ∧ 0 < mdl3.layers ∧ 1 < 2 ∧ kvPositions 65 - 1 < kvPositions 65 := by decide

/-! ## Hypotheses met: streams, the solver, phase domains -/

/-- A stream model of class 2, one element, on region 0, and one of class 1. -/
def strm1 (i cls : Nat) : StrmModel := { index := i, cls := cls, len := 1, lreg := 0, poolSlots := 4, alpha := [0x3F800000], expavg := true }

/-- Streams of context 1: 0 resident, 1 at home, 2 resident and moving out, 3 moving in to slot 2, 4 awaiting its reference, 5 with a
chunk whose deadline has passed. -/
def streaming : State := { served with
  time := { cnt := 100, doms := [(0, { state := .run, rate := 2 ^ 49 })] },
  image := some { img0 with strmModels := [strm1 1 1, strm1 2 2], parts := [{ id := 0, regions := [0], lpLen := 0x1000, strmQuota := 16 }] },
  cmp := { lp := [(256, 1)] },
  strm := { ents := [(0, { valid := true, resident := true, ctx := 1, cls := 2, model := 2, slot := 0 }),
                     (1, { valid := true, ctx := 1, cls := 2, model := 2, home := 64 }),
                     (2, { valid := true, resident := true, ctx := 1, cls := 2, model := 2, slot := 1, move := .out, outDue := true }),
                     (3, { valid := true, ctx := 1, cls := 2, model := 2, home := 128, move := .into 2, inDue := true }),
                     (4, { valid := true, resident := true, ctx := 1, cls := 2, model := 2, slot := 3, resync := true, refAddr := 256, resyncN := 4 }),
                     (5, { valid := true, ctx := 1, cls := 2, model := 2, home := 192,
                           chunks := [{ cmd := { uid := 9, ctx := 1, tag := 9, deadline := 0x8000000000000001 }, record := 0, reset := false,
                                        samples := 1, outAddr := 0, data := [] }] })] } }

/-- STRM_OPEN of model 2 in class 2 with bit 0 of byte 18, home copy at 320. -/
def openPk : Packet := pk 0x0320 [2, 2, 1, 0, 0, 0, 0, 0, 0x40, 1]

theorem met_StreamCommands :
    (streaming.Starts 1 openPk 0x0320 ∧ chkStrmOpen streaming 1 openPk = none) ∧
    (streaming.Starts 1 (pk 0x0321 [0, 0, 0, 0, 1]) 0x0321 ∧ chkStrmPush streaming 1 (pk 0x0321 [0, 0, 0, 0, 1]) (.data []) = none) ∧
    (streaming.Starts 1 (pk 0x0322 [0]) 0x0322 ∧ chkStrmSwapOut streaming 1 (pk 0x0322 [0]) = none ∧ (streaming.stream 0).resident = true) ∧
    (streaming.Starts 1 (pk 0x0322 [1]) 0x0322 ∧ (streaming.stream 1).resident = false ∧ (streaming.stream 1).inDue = false) ∧
    (streaming.Starts 1 (pk 0x0322 [5]) 0x0322 ∧ chkStrmSwapOut streaming 1 (pk 0x0322 [5]) = some stPinned ∧
      (let b := streaming.begin_ 1 (pk 0x0322 [5]) 2; b.2.uid ∈ (b.1.ctx 1).inflight)) ∧
    (streaming.Starts 1 (pk 0x0323 [1]) 0x0323 ∧ chkStrmSwapIn streaming 1 (pk 0x0323 [1]) = none ∧ (streaming.stream 0).outDue = false) ∧
    (streaming.Starts 1 (pk 0x0324 [0]) 0x0324 ∧ chkStrmSwapOut streaming 1 (pk 0x0324 [0]) = none) ∧
    (streaming.Starts 1 (pk 0x0325 [0]) 0x0325 ∧ chkStrmNamed streaming 1 (pk 0x0325 [0]) = none) ∧
    (streaming.Starts 1 (pk 0x0326 [0]) 0x0326 ∧ chkStrmState streaming 1 (pk 0x0326 [0]) (.data []) = none ∧ strmFlag (pk 0x0326 [0]) = false) ∧
    (streaming.Starts 1 (pk 0x0326 [0, 0, 1]) 0x0326 ∧ chkStrmState streaming 1 (pk 0x0326 [0, 0, 1]) (.data []) = none ∧
      strmFlag (pk 0x0326 [0, 0, 1]) = true) :=
  ⟨⟨starts_now _ _ _ _ rfl, rfl⟩, ⟨starts_now _ _ _ _ rfl, rfl⟩, ⟨starts_now _ _ _ _ rfl, rfl, rfl⟩, ⟨starts_now _ _ _ _ rfl, rfl, rfl⟩,
    ⟨starts_now _ _ _ _ rfl, rfl, by decide⟩, ⟨starts_now _ _ _ _ rfl, rfl, rfl⟩, ⟨starts_now _ _ _ _ rfl, rfl⟩,
    ⟨starts_now _ _ _ _ rfl, rfl⟩, ⟨starts_now _ _ _ _ rfl, rfl, rfl⟩, ⟨starts_now _ _ _ _ rfl, rfl, rfl⟩⟩

theorem met_StreamSwaps : streaming.powered = true ∧ (streaming.stream 2).valid = true ∧ streaming.strmModel (streaming.stream 2).model = some (strm1 2 2) ∧
    (streaming.stream 2).move = .out ∧ (streaming.stream 3).move = .into 2 ∧ streaming.slotPoisoned (strm1 2 2) 1 = false ∧ streaming.homePoisoned (streaming.stream 3) (strm1 2 2) = false ∧
    ({ streaming with cmp := { spPoison := [0] } } : State).slotPoisoned (strm1 2 2) 1 = true ∧
    (∀ e ∈ streaming.strm.ents, e.1 ≠ 3 → e.2.model = 2 → e.2.resident = true → e.2.slot ≠ 2) ∧
    ({ streaming with cmp := { lpPoison := [2] } } : State).homePoisoned (streaming.stream 3) (strm1 2 2) = true := by decide

theorem met_StreamEvents : streaming.strmModel 1 = some (strm1 1 1) ∧ (strm1 1 1).lreg = 0 ∧ (strm1 1 1).lreg ≠ 31 ∧
    (let x := ({ streaming with strm := { ents := [(0, { valid := true, model := 2, closing := true })] } } : State).stream 0;
      x.valid = true ∧ x.closing = true ∧ x.model = 2) ∧
    (streaming.stream 4).valid = true ∧ (streaming.stream 4).resync = true ∧ (streaming.stream 4).left = 0 ∧
    (∀ k ∈ (streaming.stream 4).chunks, (streaming.stream 4).done < k.samples) ∧
    streaming.refPoisoned (streaming.stream 4) (strm1 2 2) = false ∧ streaming.strmModel 9 = none ∧
    (streaming.refRecord (streaming.stream 4) (strm1 2 2)).1 ≠ (streaming.stream 4).refSeq ∧
    (streaming.refRecord (streaming.stream 4) (strm1 2 2)).2.all f32Fin = true ∧ (streaming.stream 5).chunks ≠ [] ∧
    (streaming.stream 5).done = 0 ∧ (streaming.advance 100).deadlinePassed 0x8000000000000001 = true ∧ (streaming.stream 0).chunks = [] := by decide

/-- Image counter 5 of the slots below. -/
def measMap : List VidMap := [{ vid := 7, counter := 5 }]

/-- A kept factor of the 1 × 1 matrix 1. -/
def oneFactor : KeptFactor := { mat := [f64One], matG := [], dref := f64One, na := f64One, factor := { low := [[]], piv := [f64One] } }

/-- Solver slots of partition 0: 0 of class 2 with a parameter and a measurement; 1 of class 1; 2 that runs; 3 whose result is on its way
to host memory. Domain 0 has a SOLVE entry of slot 1 that is due. -/
def solving : State := { served with
  time := { cnt := 100, doms := [(0, { state := .run, rate := 2 ^ 49, active := { period := 1000, entries := [{ offset := 0, action := 2, target := 1 }] } })] },
  image := some { img0 with parts := [{ id := 0, regions := [0], imageMap := measMap }] },
  sched := { slices := [{ part := 0, endT := 1000 }] },
  sync := { counters := [(5, { value := 1 })], images := [(0, measMap)] },
  slv := { probs := [(0, { valid := true, desc := { slot := 0, cls := 2, paramLen := 2, measLen := 1, measSync := 7 }, active := [0, 0], back := [0], store := [0] }),
                     (1, { valid := true, desc := { slot := 1, cls := 1, lane := 1 }, store := [0] }),
                     (2, { valid := true, desc := { slot := 2, measSync := 7, measWait := 10, staleLimit := 2, lane := 2 }, store := [0], kept := some oneFactor,
                           run := some { startT := 60, matEnd := 80, dl := 1, keep := true } }),
                     (3, { valid := true, desc := { slot := 3, cls := 2, outKind := 2 }, outs := [{ outT := 100, cmd := some ({ uid := 3, ctx := 1, tag := 3 }, 0x1000), record := [], vals := [] }] }),
                     (4, { valid := true, desc := { slot := 4, cls := 2, lane := 4, winEnd := 1000 }, cmd := some ({ uid := 4, ctx := 1, tag := 4 }, 0) }),
                     (5, { valid := true, desc := { slot := 5, outKind := 1 }, outs := [{ outT := 101, record := [], vals := [] }] })] } }

/-- SLV_SOLVE with a deadline stamp of domain 0. -/
def solvePk : Packet := { pk 0x0801 [0] with deadline := 0x8000000000010000 }

theorem met_SolverRuns :
    (solving.Starts 1 solvePk 0x0801 ∧
      chkSlvSolve solving 1 solvePk (.data [0, 0, 0, 0]) = none ∧ solving.swapNow (solving.prob (u8 solvePk 16)) = false) ∧
    (solving.Starts 1 (pk 0x0802 [0, 0, 0, 0, 1, 0, 0, 0, 1]) 0x0802 ∧
      chkSlvParam solving 1 (pk 0x0802 [0, 0, 0, 0, 1, 0, 0, 0, 1]) (.data [0, 0, 0, 0, 0, 0, 0, 0]) = none) ∧
    (solving.Starts 1 (pk 0x0803 [0]) 0x0803 ∧ chkProb solving 1 (pk 0x0803 [0]) = none) ∧
    (solving.Starts 1 (pk 0x0804 [0]) 0x0804 ∧ chkProb solving 1 (pk 0x0804 [0]) = none) ∧
    ((solving.prob 4).cmd.isSome = true ∧ (solving.prob 4).run = none ∧ solving.lanesIdle 4 = true ∧ (solving.advance 100).inLaneWin 4 = true ∧
      (solving.advance 100).sliceOpen (solving.prob 4).desc.part = true ∧ (solving.advance 100).inLaneWin 0 = false ∧
      (solving.setProb 4 { solving.prob 4 with desc := { (solving.prob 4).desc with lane := 2 } }).lanesIdle 4 = false) ∧
    ((solving.advance 100).fires 0 0 2 = some { offset := 0, action := 2, target := 1 } ∧
      (solving.advance 100).entryDrained 0 { offset := 0, action := 2, target := 1 } = false ∧ (solving.advance 100).startedOf 0 0 = none ∧
      (solving.prob 1).valid = true ∧ (solving.prob 1).desc.cls = 1 ∧ (solving.prob 1).run = none ∧ solving.lanesIdle 1 = true) :=
  ⟨⟨starts_now _ _ _ _ rfl, rfl, rfl⟩, ⟨starts_now _ _ _ _ rfl, rfl⟩, ⟨starts_now _ _ _ _ rfl, rfl⟩, ⟨starts_now _ _ _ _ rfl, rfl⟩, by decide, by decide⟩

theorem met_StartsNow : Claims.StartsNow (served.advance 100) { run := some { startT := 100, matEnd := 100, dl := 1 } } ∧ ¬Claims.StartsNow served {} :=
  ⟨⟨_, rfl, rfl, rfl⟩, fun ⟨_, h, _⟩ => nomatch h⟩

theorem met_SolverVectors : (solving.prob 2).run = some { startT := 60, matEnd := 80, dl := 1, keep := true } ∧ (80 : Nat) ≤ max solving.time.cnt 100 ∧
    (solving.prob 2).matBad { startT := 60, matEnd := 80, dl := 1, keep := true } = none ∧
    (solving.prob 2).matBad { startT := 60, matEnd := 80, dl := 1 } ≠ none ∧ (solving.advance 100).matLost (solving.prob 2) { startT := 60, matEnd := 80, dl := 1 } = true ∧
    (solving.advance 100).matLost (solving.prob 2) { startT := 60, matEnd := 80, dl := 1, keep := true } = false ∧
    solving.imageVid 0 7 = some { vid := 7, counter := 5 } ∧ 2 ∉ solving.sync.granted ∧ 1 ≤ (solving.counter 5).value ∧
    (∀ w ∈ solving.sync.waits, w.counter ≠ 5) ∧ 2 ∈ ({ solving with sync := { granted := [2], images := [(0, measMap)] } } : State).sync.granted ∧
    (({ solving with sync := { images := [(0, measMap)] } } : State).counter 5).value < 1 ∧ ({ solving with sync := { images := [(0, measMap)] } } : State).measReady 2 = false ∧
    80 + 2 * (solving.prob 2).desc.measWait ≤ max solving.time.cnt 100 := by decide

theorem met_SolverOutputs : (solving.prob 5).outs ≠ [] ∧ max solving.time.cnt 100 < 101 ∧ (100 : Nat) ≤ max solving.time.cnt 100 ∧
    (solving.prob 5).desc.outSignal = false ∧ (solving.prob 5).desc.outKind = 1 ∧ (solving.prob 3).desc.outKind = 2 ∧
    (solving.prob 3).outs.map SlvOut.cmd = [some ({ uid := 3, ctx := 1, tag := 3 }, 0x1000)] := by decide

theorem met_SolverEnds : (solving.advance 100).deadlineDue 0x8000000000000000 = true ∧ (solving.advance 100).deadlineDue 0x8000000000010000 = false ∧
    (solving.prob 2).desc.lane < 31 ∧ (solving.prob 2).age + 1 < (solving.prob 2).desc.staleLimit ∧ (solving.prob 2).age < 255 ∧
    (let x : Prob := { (solving.prob 2) with age := 1 }; x.age < x.desc.staleLimit ∧ x.desc.staleLimit ≤ min (x.age + 1) 255) := by decide

/-- Domains: 0 of period 1000 with a boundary due, 1 with a table staged behind it, 2 of SYNC_IN1, 3 that follows it in HOLDOVER, 4 of
Rolink, 5 of an encoder, 6 that follows PTP instance 1. -/
def timed : State := { served with
  time := { cnt := 2000000, doms := [
    (0, { state := .run, rate := 2 ^ 49, active := { period := 1000 } }),
    (1, { state := .run, rate := 2 ^ 49, active := { period := 1000 }, staged := some { period := 500 } }),
    (2, { state := .acquire, source := 4, sel := 1 }), (3, { state := .holdover, source := 4, sel := 1, phi := 1 }),
    (4, { state := .run, disc := 2, missedEx := 2, goodEx := 15, rate := 2 ^ 49 }), (5, { state := .run, source := 1, sel := 3 }),
    (6, { state := .run, disc := 3, discSel := 1, rate := 2 ^ 49 }), (7, { state := .run, source := 4, sel := 1, loss := 1 })] } }

theorem met_DomainSources : timed.powered = true ∧ (timed.dom 0).boundaryDue (max timed.time.cnt 2000000) = true ∧
    (timed.dom 0).allFired (max timed.time.cnt 2000000) = true ∧ (timed.dom 0).stepPhi = none ∧ (∀ w ∈ timed.sched.swaps, 0 ∉ w.todo) ∧
    (timed.dom 2).boundaryDue 2000000 = false ∧
    (({ timed with sched := { swaps := [{ todo := [1], lead := 1 }] } } : State).sched.swaps = [{ todo := [1], lead := 1 }] ∧
      ({ todo := [1], lead := 1 } : Swap).cyc = none ∧ (timed.dom 1).boundaryDue 2000000 = true ∧ (timed.dom 1).staged.isSome = true) ∧
    (2 ∈ timed.domsOf 4 1 ∧ 3 ∈ timed.domsOf 4 1 ∧ 7 ∈ timed.domsOf 4 1 ∧ 0 ∉ timed.domsOf 4 1 ∧ (timed.dom 2).state = .acquire ∧
      (timed.dom 3).state = .holdover ∧ (timed.dom 7).state = .run ∧ (timed.advance 2000000).lostNow 3 = false) ∧
    ((timed.advance 0).sourceIsLost 7 = true ∧ (timed.dom 7).source ≠ 0 ∧ (timed.advance 0).sourceIsLost 0 = false) ∧
    ((timed.dom 6).state = .run ∧ (timed.dom 6).source = 0 ∧ (timed.dom 6).disc = 3 ∧ (timed.dom 6).discSel = 1) ∧
    ((timed.dom 4).source = 0 ∧ (timed.dom 4).disc = 2 ∧ (timed.dom 4).state = .run ∧ 2 ≤ (timed.dom 4).missedEx ∧ 15 ≤ (timed.dom 4).goodEx ∧
      (timed.dom 4).servo = false ∧ 65536000 < (65536001 : Int).natAbs ∧ (-65536000 : Int).natAbs ≤ 65536000 ∧ (524288 : Int).natAbs ≤ 524288) := by decide

theorem met_RateEstimates : (timed.dom 5).source = 1 ∧ (timed.dom 5).state = .run ∧ (timed.dom 5).winTick + 2 ^ 20 ≤ max timed.time.cnt 0 ∧ (timed.dom 0).source ≠ 1 ∧
    estimate (3 * 2 ^ 48) (3 * 5) 5 = 3 * 2 ^ 48 := by decide

/-- A CHOL problem on that factor that loads its right side from parameter 0. -/
def oneProb : Prob := { desc := { slot := 0, op := 2, vecProg := [0x2800000200007FFC] }, active := [f64One], kept := some oneFactor, store := [0] }
def oneRun : SlvRun := { startT := 0, matEnd := 0, dl := 0, keep := true, vecT := some 0 }

theorem sumTree_none (t : SumTree) : SumTree.run [(f64One, f64One)] t [] = (0, []) := by
  induction t with
  | chain idx =>
    have h : idx.filter ([] : List Nat).contains = [] := by simp
    simp [SumTree.run, h]
  | add l r hl hr => simp only [SumTree.run, hl, hr]; decide +kernel

theorem sumTree_one (t : SumTree) : SumTree.run [(f64One, f64One)] t [0] = (f64One, []) ∨ SumTree.run [(f64One, f64One)] t [0] = (0, [0]) := by
  induction t with
  | chain idx =>
    by_cases h : 0 ∈ idx
    · left
      have h : (idx.filter ([0] : List Nat).contains).dedup = [0] := by
        have hm : ∀ a ∈ (idx.filter ([0] : List Nat).contains).dedup, a = 0 := by simp
        have hn := List.nodup_dedup (idx.filter ([0] : List Nat).contains)
        have h0 : 0 ∈ (idx.filter ([0] : List Nat).contains).dedup := by simp [h]
        match hl : (idx.filter ([0] : List Nat).contains).dedup with
        | [] => simp [hl] at h0
        | [a] => simp [hl] at h0; rw [h0]
        | a :: b :: l => rw [hl] at hm hn; simp [hm a, hm b] at hn
      simp only [SumTree.run, h]; decide +kernel
    · right
      have h : idx.filter ([0] : List Nat).contains = [] := by simp; grind
      simp [SumTree.run, h]
  | add l r hl hr =>
    rcases hl with h | h <;> simp only [SumTree.run, h]
    · simp only [sumTree_none]; left; decide +kernel
    · rcases hr with h | h <;> simp only [h]
      · left; decide +kernel
      · right; decide +kernel

theorem sumProd_one (use n m : Nat) : sumProd use n m [(f64One, f64One)] = f64One := by
  unfold sumProd
  rcases sumTree_one (Config.sumTree use n m 1) with h | h
  · simp [h]
  · simp [h]; decide +kernel

theorem trisolve_one : trisolve 2 1 oneFactor.factor [f64One] = [f64One] := by
  have h4 := sumProd_one 4 1 2
  have h5 := sumProd_one 5 1 2
  have hd : f64Div f64One f64One = f64One := by decide +kernel
  simp [trisolve, forward, backward, oneFactor, vget, h4, h5, hd]

theorem met_SolverFresh : ∃ tk i, (oneProb.plan oneRun 0).bad = none ∧ (oneProb.plan oneRun 0).its.getLast? = some (tk, i) ∧ i.ok = true ∧
    (oneProb.plan oneRun 0).finish = tk := by
  have hb : (assembly oneProb.desc oneProb.sources oneProb.desc.vecProg).bad = none := by decide +kernel
  have h2 : (assembly oneProb.desc oneProb.sources oneProb.desc.vecProg).obj 2 = [f64One] := by decide +kernel
  have h3 : (assembly oneProb.desc oneProb.sources oneProb.desc.vecProg).obj 3 = [] := by decide +kernel
  have hs : directSolve oneProb.desc (matAt oneProb.desc [f64One]) f64One oneFactor.factor [f64One] =
      [{ cyc := tS 1 + tR 1, x := [f64One], ok := true, resid := 0, steps := 0, caps := 0, capped := false, fin := true }] := by
    have : directSolve oneProb.desc (matAt oneProb.desc [f64One]) f64One oneFactor.factor [f64One] =
      (let its := refine (residual 1 (matAt oneProb.desc [f64One]) [f64One]) (trisolve 2 1 oneFactor.factor) f64One 0 [f64One] 0
          (trisolve 2 1 oneFactor.factor [f64One]);
        (List.range its.length).map fun j =>
          let (x, r, q) := its.getD j ([], [], 0);
          { cyc := tS 1 + tR 1 + j * tI 1, x := x, ok := f64Le q 0, resid := q, steps := j, caps := 0,
            capped := false, fin := allFin x && allFin r && f64Fin q }) := by
      simp [directSolve, oneProb, oneFactor]
    rw [this, trisolve_one]
    decide +kernel
  have hm : oneProb.matSide true = { mat := [f64One], matG := [], dref := f64One, na := f64One } := rfl
  have hp : oneProb.plan oneRun 0 = { facEnd := 2 * 19, its :=
      [(2 * 19 + 2 * (tS 1 + tR 1), { cyc := tS 1 + tR 1, x := [f64One], ok := true, resid := 0, steps := 0, caps := 0, capped := false, fin := true })] } := by
    have hr : oneRun.keep = true := rfl
    have hk : oneProb.kept = some oneFactor := rfl
    unfold Prob.plan
    have ho : ¬oneProb.desc.op = 4 := by decide
    have hv : (oneFactor.factor.piv.any f64Nan) = false := by decide +kernel
    simp only [hr, hm, hk, hb, h2, h3, if_true, ho, if_false, Option.isSome_some, hv, hs, List.zip_nil_left, List.any_nil]
    rfl
  rw [hp]
  exact ⟨_, _, rfl, rfl, rfl, rfl⟩

/-! ## Hypotheses met: entries, tasks, memory commands, the control engine -/

theorem met_SlewContinuity : 0 ∈ ({ live with time := { doms := [(0, { state := .run })] } } : State).together 0 ∧ 1 ∉ live.together 0 := by decide

/-- Domain 0 of partition 0 with a TASK entry of task 3, a SLICE entry, a TASK entry that names no task, one whose start is late, and
one that has not completed; table 1 of the image may be staged; domain 1 is staged. -/
def tabled : State := { served with
  time := { cnt := 100000, doms := [
    (0, { state := .run, rate := 2 ^ 49, disc := 1, active := { period := 1000, entries := [
      { offset := 0, action := 1, target := 3 }, { offset := 2, action := 6, wdMax := 4 }, { offset := 3, action := 1, target := 99 },
      { offset := 4, action := 1, target := 3, wdMax := 1 }, { offset := 0xFFFF, action := 1 }] } }),
    (1, { state := .run, source := 4, staged := some { period := 8 } })] },
  image := some { img0 with domains := [{ d := 0, tables := [1] }], tables := [{ period := 8 }, { period := 16 }],
                            tasks := [{ index := 3, part := 0, cls := 2 }] },
  sched := { started := [{ d := 0, pool := 3, index := 3, entry := { offset := 4, action := 1, target := 3, wdMax := 1 }, firedT := 0 }] } }

/-- `tabled` with the entries before `i` fired. -/
def tabledAt (i : Nat) : State := tabled.setDom 0 { tabled.dom 0 with fired := List.range i }

/-- DOM_ADJ of domain 0: a rate, and an offset. -/
def adjPk (kind : Byte) : Packet := pk 0x0604 [0, kind]

theorem met_TimeCommands :
    (tabled.Starts 1 (pk 0x0601 [0]) 0x0601 ∧ chkPhaseRead tabled (pk 0x0601 [0]) = none ∧ (tabled.dom 0).source = 0 ∧
      0 ≤ (tabled.dom 0).ns tabled.time.cnt ∧ chkPhaseRead tabled (pk 0x0601 [1]) = none ∧ (tabled.dom 1).source ≠ 0) ∧
    (tabled.Starts 1 (pk 0x0602 [0, 0, 1]) 0x0602 ∧ chkTblStage tabled 1 (pk 0x0602 [0, 0, 1]) = none) ∧
    (tabled.Starts 1 (pk 0x0603 [2, 1]) 0x0603 ∧ chkTblSwap tabled 1 (pk 0x0603 [2, 1]) = none) ∧
    (tabled.Starts 1 (adjPk 0) 0x0604 ∧ chkDomAdj tabled 1 (adjPk 0) = none) ∧ (tabled.Starts 1 (adjPk 1) 0x0604 ∧ chkDomAdj tabled 1 (adjPk 1) = none) :=
  ⟨⟨starts_now _ _ _ _ rfl, by decide⟩, ⟨starts_now _ _ _ _ rfl, rfl⟩, ⟨starts_now _ _ _ _ rfl, rfl⟩, ⟨starts_now _ _ _ _ rfl, rfl⟩,
    ⟨starts_now _ _ _ _ rfl, rfl⟩⟩

theorem met_EntryFiring : (tabledAt 0).fires 0 4 1 = none ∧ (tabledAt 0).fires 0 0 1 = some { offset := 0, action := 1, target := 3 } ∧
    (tabledAt 0).entryDrained 0 { offset := 0, action := 1, target := 3 } = false ∧ (tabledAt 0).startedOf 0 0 = none ∧
    (tabledAt 3).fires 0 3 1 = some { offset := 4, action := 1, target := 3, wdMax := 1 } ∧ (tabledAt 3).startedOf 0 3 ≠ none ∧
    ({ tabledAt 0 with pwr := { drained := 1 } } : State).entryDrained 0 { offset := 0, action := 1, target := 3 } = true := by decide

theorem met_TaskEntries : ((tabledAt 0).advance 0).fires 0 0 1 = some { offset := 0, action := 1, target := 3 } ∧
    tabled.taskCfg 3 = some { index := 3, part := 0, cls := 2 } ∧
    ((tabledAt 2).advance 0).fires 0 2 1 = some { offset := 3, action := 1, target := 99 } ∧ tabled.taskCfg 99 = none ∧
    ((tabledAt 1).advance 0).fires 0 1 6 = some { offset := 2, action := 6, wdMax := 4 } ∧
    ((tabledAt 1).advance 0).entryDrained 0 { offset := 2, action := 6, wdMax := 4 } = false := by decide

theorem met_LateEntries : ∀ w ∈ tabled.sched.started, tabled.startedOf 0 3 = some w ∧ w.armed = true ∧ w.entry.action ≠ 8 ∧ w.late = false ∧
    w.entry.wdMax ≠ 0 ∧ w.firedT / 2 * 2 + wdTicks w.entry w.entry.wdMax ≤ max tabled.time.cnt 0 ∧ w.entry.cls ≤ 1 := by decide

/-- Work of a command and of an entry for task 3, and a FETCH slot that runs. -/
def task3 : TaskCfg := { index := 3, part := 0, cls := 2 }
def working : State := { tabled with
  cmp := { works := [{ id := .cmd 1 7, task := some task3 }, { id := .entry 0 4, task := some task3 }] },
  cmd := { tabled.cmd with running := [{ cmd := { uid := 5, ctx := 1, tag := 7 }, packet := {}, part := 0 }] },
  sched := { started := [{ d := 0, pool := 4, index := 4, entry := { offset := 0xFFFF, action := 1 }, firedT := 0, armed := false },
                         { d := 0, pool := 5, index := 5, entry := { offset := 0xFFFF, action := 5 }, firedT := 0 }] } }

theorem met_Tasks : (tabled.Starts 1 (pk 0x0301 [3]) 0x0301 ∧ chkExecTask tabled 1 (pk 0x0301 [3]) = none) ∧
    Status.known stOk = true ∧ Status.known 0x0042 = false ∧ working.workQuiet (.cmd 1 7) = true ∧ working.work (.cmd 1 7) = some { id := .cmd 1 7, task := some task3 } ∧
    task3.signals = [] ∧ task3.kind = .vpu ∧
    (working.cmd.running.find? fun r => r.cmd.ctx == 1 && r.cmd.tag == 7).isSome = true ∧
    ((((working.advance 0).finishTask { id := .cmd 1 7, task := some task3 } stOk []).1.dropWork (.cmd 1 7)).cmd.running.find?
      fun r => r.cmd.ctx == 1 && r.cmd.tag == 7).isSome = true ∧
    working.workQuiet (.entry 0 4) = true ∧ working.work (.entry 0 4) = some { id := .entry 0 4, task := some task3 } ∧
    (working.sched.started.find? fun x => x.d == 0 && x.index == 4).any (fun x => !x.armed) = true ∧
    working.workQuiet (.entry 0 5) = true ∧ working.work (.entry 0 5) = none ∧ (working.startedOf 0 5).any (fun x => x.entry.action == 5) = true ∧
    (passing (onePass 0 2 true false)).workQuiet (.cmd 1 7) = false :=
  ⟨⟨starts_now _ _ _ _ rfl, rfl⟩, by decide⟩

/-- A memory command over 4 bytes from offset 0. -/
def memPk (op : Nat) (space : Byte) : Packet := pk op [space, 0, 0, 0, 4]

/-- A MEM_WRITE to the codebook, at 256, of the product that the image's task runs, whose descriptor lies at 0. -/
def bookPk : Packet := pk 0x0401 [0, 0, 0, 0, 4, 0, 0, 0, 0, 1]
def booked : State := { windows with
  image := some { img0 with parts := [{ id := 0, regions := [0] }], tasks := [{ index := 1, kind := .pass { shares := [{ bound := 4096 }] } }] },
  cmp := { sp := [(2, 1), (12, 1), (14, 1), (16, 64), (21, 1), (28, 1), (66, 0xF9)] } }

theorem met_MemoryCommands : chkMem windows 1 (memPk 0x0401 0) = none ∧ chkMem windows 1 (memPk 0x0401 1) = none ∧
    windows.Starts 1 (memPk 0x0401 0) 0x0401 ∧ windows.Starts 1 (memPk 0x0401 1) 0x0401 ∧ windows.Starts 1 (memPk 0x0403 0) 0x0403 ∧
    windows.Starts 1 (memPk 0x0403 1) 0x0403 ∧ windows.Starts 1 (memPk 0x0402 0) 0x0402 ∧ windows.Starts 1 (memPk 0x0402 1) 0x0402 ∧
    windows.cmp.spPoison = [] ∧ windows.cmp.lpPoison = [] ∧ (windows.spWrite 0 [1, 2, 3, 4]).tablesBad 0 4 = false ∧
    ({ windows with cmp := { spPoison := [0] } } : State).memTake 0 (memPk 0x0402 0) = [] ∧
    ({ windows with cmp := { spPoison := [0] } } : State).Starts 1 (memPk 0x0402 0) 0x0402 :=
  ⟨rfl, rfl, starts_now _ _ _ _ rfl, starts_now _ _ _ _ rfl, starts_now _ _ _ _ rfl, starts_now _ _ _ _ rfl, starts_now _ _ _ _ rfl,
    starts_now _ _ _ _ rfl, rfl, rfl, rfl, rfl, starts_now _ _ _ _ rfl⟩

theorem met_BookWrites : booked.Starts 1 bookPk 0x0401 ∧ chkMem booked 1 bookPk = none ∧
    (booked.spWrite 256 [0x80, 0x7F, 0, 0]).tablesBad 256 4 = true ∧ (booked.spWrite 256 [0x80, 0x3F, 0, 0]).tablesBad 256 4 = false :=
  ⟨starts_now _ _ _ _ rfl, rfl, by decide +kernel, by decide +kernel⟩

/-- Slots of group 0 (0 OPEN, 1 CLOSING, 2 CLOSED with a V stage, 3 in FAULT), of group 1 (8 CLOSED, driving PWM output 5), of group 2
that awaits its policy result, and of group 3 in FAULT. -/
def moving : State := { served with
  time := { cnt := 1000, doms := [(0, { state := .run, rate := 2 ^ 49, active := { period := 1000, entries := [{ offset := 0, action := 9, target := 1 }] } })] },
  cte := {
    groups := [(0, { valid := true, first := 0, count := 4, latchT := some 600 }), (1, { valid := true, first := 8, count := 1, latchT := some 600 }),
               (2, { valid := true, first := 16, count := 1, policy := true, latchT := some 800, result := .waiting }),
               (3, { valid := true, first := 24, count := 1, fault := true })],
    loops := [(0, { state := .open_, cfg := 4 }), (1, { state := .closing, cfg := 4 }), (2, { state := .closed, cfg := 4 }), (3, { state := .fault, cfg := 4 }),
              (8, { state := .closed, cfg := 4, io := 0x45000000 })] },
  mio := { flts := [(1, 0xFFF)] } }

theorem met_LoopCommands :
    (moving.Starts 1 (pk 0x0701 [1]) 0x0701 ∧ chkCteOpen moving 1 (pk 0x0701 [1]) = none ∧ (moving.loop 1).state = .closing ∧
      chkCteOpen moving 1 (pk 0x0701 [2]) = none ∧ (moving.loop 2).state = .closed ∧ chkCteOpen moving 1 (pk 0x0701 [0]) = none ∧
      (moving.loop 0).state = .open_ ∧ 5 ∉ moving.pairOf 1) ∧
    (moving.Starts 1 (pk 0x0702 [0]) 0x0702 ∧ chkCteClose moving 1 (pk 0x0702 [0]) = none ∧ (∀ w ∈ (moving.loop 0).writes, w.1 ≠ moving.time.cnt / 2) ∧
      chkCteClose moving 1 (pk 0x0702 [2]) = none ∧ (moving.loop 2).state ≠ .open_) ∧
    (moving.Starts 1 (pk 0x0703 [0, 13, 1]) 0x0703 ∧ chkCteCoef moving 1 (pk 0x0703 [0, 13, 1]) (.data [1, 0, 0, 0]) = none) ∧
    (moving.Starts 1 (pk 0x0704 [0]) 0x0704 ∧ chkSlot moving 1 0 = none) ∧
    (moving.Starts 1 (pk 0x0705 [3]) 0x0705 ∧ chkCteAck moving 1 (pk 0x0705 [3]) = none) :=
  ⟨⟨starts_now _ _ _ _ rfl, by decide⟩, ⟨starts_now _ _ _ _ rfl, by decide⟩, ⟨starts_now _ _ _ _ rfl, rfl⟩, ⟨starts_now _ _ _ _ rfl, rfl⟩,
    ⟨starts_now _ _ _ _ rfl, rfl⟩⟩

theorem met_CoefficientWrites : (moving.loop 0).state = .open_ ∧ (moving.loop 0).chanB = false ∧ (moving.loop 0).coefBad 2 0x7F800000 = false ∧
    (moving.loop 2).state ≠ .open_ ∧ ({ cfg := 5 } : Loop).coefBad 2 0x7F800000 = true := by decide

theorem met_GroupsAndFaults : (moving.group 1).valid = true ∧ (moving.group 1).fault = false ∧ 8 ∈ (moving.group 1).slots ∧
    (moving.loop 8).state ≠ .off ∧ 0 ∉ (moving.group 1).slots ∧ (moving.group 3).fault = true ∧
    (tblGet 0 moving.mio.flts 1).toNat % 2 ^ 24 ≠ 0 ∧ (moving.loop 8).outKind = 1 ∧ (moving.loop 8).outIdx ∈ fltOuts (tblGet 0 moving.mio.flts 1) := by decide

theorem met_GroupPeriods : (moving.advance 1000).fires 0 0 9 = some { offset := 0, action := 9, target := 1 } ∧
    (moving.advance 1000).entryDrained 0 { offset := 0, action := 9, target := 1 } = false ∧ (moving.group 1).policy = false ∧
    (let s : State := { moving with image := some { img0 with hasC0 := true, c0Region := some 0 } }; (moving.group 2).policy = true ∧ s.c0Phys = some 0) ∧
    (moving.group 2).latchT = some 800 ∧ (moving.group 2).result = .waiting ∧ max moving.time.cnt 1057 ≤ 800 + 257 ∧
    (moving.setRegion 0 { policy := some (2, []) }).policyRun 2 = none ∧
    (let s : State := { moving with image := some { img0 with hasC0 := true, c0Region := some 0 } };
      (s.setRegion 0 { policy := some (2, [⟨0x3F800000, 0, 0⟩]) }).policyRun 2 = some (0, [⟨0x3F800000, 0, 0⟩]) ∧ f32ToBf16 0x3F800000 = 0x3F80 ∧
      maskBit s.glob.linkDown 0 = false ∧ maskBit ({ s.glob with linkDown := 1 } : Glob).linkDown 0 = true) ∧
    (([0x3F80] : List (BitVec 16)).all fun b => (bf16.decode b.toNat).isFin) = true ∧
    (([0x7F80] : List (BitVec 16)).all fun b => (bf16.decode b.toNat).isFin) = false ∧ 800 + 257 < max moving.time.cnt 1058 ∧
    800 + 258 ≤ max moving.time.cnt 1058 ∧ max moving.time.cnt 1057 < 800 + 258 := by decide

theorem met_ControlLaws : (moving.group 1).latchT = some 600 ∧ (moving.group 1).dual = false ∧ (moving.group 1).ran = false ∧
    (moving.group 1).result = .idle ∧ 600 + 144 ≤ max moving.time.cnt 0 ∧ (moving.group 1).slots = [8] ∧ (moving.loop 8).stages.contains 0 = false ∧
    (moving.loop 8).state = .closed ∧ (moving.loop 8).ffMap = 0xFFFFFFFF ∧
    ((moving.loop 8).law 0 { y := [(moving.loop 8).yP, (moving.loop 8).yV, (moving.loop 8).yT].map (lawMeas (moving.loop 8).fp), f := [0, 0, 0], res := [] }).nan = false ∧
    (moving.loop 0).state ≠ .closed ∧ (moving.group 2).result = .waiting := by decide

/-- Group 1 alone with slot 8 driving no pin: CLOSED with and without an output, held to its limit, OPEN. -/
def phase (l : Loop) : State := moving.setLoop 8 l

theorem met_OutputPhases : (moving.group 1).slots = [8] ∧ max moving.time.cnt 0 < 601 + 400 ∧ 600 + 400 ≤ max moving.time.cnt 0 ∧
    ((phase { state := .closed, next := some 7 }).loop 8).outKind = 0 ∧ ((phase { state := .closed, next := some 7 }).loop 8).next = some 7 ∧
    (let l := (phase { state := .closed, coefs := [0, 0, 0, 0, 0, 0, 0, 0, 0, 0, 0x200] }).loop 8; l.next = none ∧ min (l.holdRun + 1) 255 < l.holdLimit) ∧
    (let l := (phase { state := .closed }).loop 8; l.next = none ∧ l.holdLimit ≤ min (l.holdRun + 1) 255) ∧ (moving.group 1).fault = false ∧
    ((phase { state := .open_ }).loop 8).state = .open_ := by decide

/-- A complementary pair, outputs 4 and 5, with a dead time of 4 ns, CMP 32 of PERIOD 100, whose up carriers restarted at tick 100. -/
def paired : State := { served with mio := { pwms := [(4, { cfg := 0x20001, period := 100, cmp := 32, drive := .run, restartT := 100 }),
                                                      (5, { cfg := 0x20105, period := 100, drive := .run, restartT := 100 })] } }

theorem met_PwmOutputs : (moving.loop 8).outKind = 1 ∧ (moving.loop 8).chanB = false ∧ 600 + 400 ≤ max moving.time.cnt 0 ∧
    moving.forced (moving.loop 8).outIdx = false ∧ ((phase { state := .fault, io := 0x45000000 }).loop 8).outKind = 1 ∧
    ({ moving with mio := { moving.mio with fltState := 2 } } : State).forced 5 = true ∧ (0 : BitVec 20) < 32 ∧ (32 : BitVec 20) < 100 ∧
    850 < bitsOf (0x20001 : Word).toNat 16 8 * 1000 ∧ (paired.pwm 5).cfg.getLsbD 2 = true ∧ (paired.pwm 4).drive = .run ∧ (paired.pwm 5).drive = .run ∧
    (paired.pwm 4).high 832 ≠ (paired.pwm 4).high 831 := by decide

/-- High for CMP from the carrier start, both low for 16 units of 250 ps after each transition. -/
theorem test_pwmPins : paired.pwmPin 4 (800 + 20) = .high ∧ paired.pwmPin 5 (800 + 20) = .low ∧ paired.pwmPin 4 (832 + 10) = .low ∧
    paired.pwmPin 5 (832 + 10) = .low ∧ paired.pwmPin 5 (832 + 20) = .high := by decide

theorem met_StageLimits : ({ cfg := 4, coefs := [0, 0, 0, 0, 0, 0, 0, 5] } : Loop).fp = false ∧
    ({ cfg := 4, coefs := [0, 0, 0, 0, 0, 0, 0, 5] } : Loop).stages.getLast? = some 1 ∧ ({ r := 0, integ := [0, 0, 0] } : LawRun).nan = false ∧
    lawExceeds false 6 5 = true ∧ lawExceeds false (-5) 5 = false := by decide

/-! ## Hypotheses met: encoders, cameras, field buses, counters, queues -/

/-- Encoder ports: 0 quadrature, 1 quadrature with QERR, 2 SSI of 8 bits with parity, 3 SSI without; domain 0 follows port 0. -/
def encoders : State := { served with
  time := { cnt := 10, doms := [(0, { state := .acquire, source := 1, sel := 0, zsync := true }), (1, { state := .run, source := 1, sel := 3 })] },
  mio := { encErr := 2, encs := [(0, { cfg := 1 }), (1, { cfg := 1 }), (2, { cfg := 0x80A, running := true }), (3, { cfg := 0x802, running := true })],
           spis := [(0, { cfg := 0x1000, running := true })] } }

theorem met_EncoderEvents : (encoders.enc 0).kind = 1 ∧ quadStep (encoders.enc 0).a (encoders.enc 0).b true false = some 1 ∧
    quadStep (encoders.enc 0).a (encoders.enc 0).b true true = none ∧ 0 ∈ encoders.domsOf 1 0 ∧ (encoders.dom 0).state = .acquire ∧
    1 ∉ encoders.domsOf 1 0 ∧ encoders.qerr 1 = true ∧ encoders.qerr 0 = false ∧ (encoders.dom 0).zsync = true ∧ (encoders.enc 1).kind = 1 ∧
    (encoders.enc 2).kind = 2 ∧ (encoders.enc 2).running = true ∧ (encoders.enc 3).cfg.getLsbD 3 = false ∧ (encoders.enc 2).cfg.getLsbD 3 = true ∧
    (encoders.enc 3).kind = 2 ∧ (encoders.enc 3).running = true ∧ countIf id ([true].take ((encoders.enc 2).bits + 1)) % 2 = 1 ∧
    bitsOf (encoders.spi 0).cfg.toNat 8 7 ≠ 0 ∧ (encoders.spi 0).running = true := by decide

/-- Camera streams of 2 × 2 pixels: 0 between frames, 1 with a frame of one line, 2 with a whole one, 3 with every buffer held, 4 with a
band that waits; a decode task of two inputs runs for context 1. -/
def cam2 (i : Nat) : CamCfg := { s := i, port := 0, vc := 0, dt := 0x2A, width := 2, height := 2, bufAddr := 4096 * i, bufSize := 16, nbuf := 1 }
def cameras : State := { served with
  time := { cnt := 10, doms := [(0, { state := .run, source := 2, sel := 0 })] },
  image := some { img0 with cams := (List.range 5).map cam2, batches := [{ b := 0, height := 1, width := 1, chans := 1 }] },
  cap := { cams := [(1, { open_ := true, frames := [{ seq := 4, buf := some 0, lines := 1, inBand := 1 }] }),
                    (2, { open_ := true, frames := [{ seq := 4, buf := some 0, lines := 2, rows := 2 }] }),
                    (3, { bufs := [(0, { locks := [.cmd 1 7] })] }),
                    (4, { open_ := true, frames := [{ seq := 4, buf := some 0, waiting := [2, 2] }] })] },
  ppe := { decodes := [{ id := .cmd 1 7, batch := 0, tensor := false, slots := 2 }] } }

theorem met_FramesCaptured : cameras.camCfg 0 = some (cam2 0) ∧ ({ pixels := 2, eccUncorrectable := true } : LineIn).eccUncorrectable = true ∧
    (cameras.cam 0).open_ = false ∧ (cameras.cam 1).open_ = true ∧ cameras.freeBuf 0 (cam2 0) = some 0 ∧ cameras.freeBuf 3 (cam2 3) = none ∧
    0 ∈ cameras.domsOf 2 0 ∧ (cameras.dom 0).state = .run ∧ cameras.camCfg 1 = some (cam2 1) ∧
    (cameras.cam 1).frames = [{ seq := 4, buf := some 0, lines := 1, inBand := 1 }] ∧ ({ pixels := 2 } : LineIn).pixels = (cam2 1).width ∧
    1 < (cam2 1).height ∧ 1 + 1 ≠ bandHeight (cam2 1) ∧ ({ pixels := 3 } : LineIn).pixels ≠ (cam2 1).width ∧
    (cameras.cam 2).frames = [{ seq := 4, buf := some 0, lines := 2, rows := 2 }] ∧ cameras.camCfg 2 = some (cam2 2) ∧
    cameras.spPoisoned ((cam2 2).bufAddr + 0 * (cam2 2).bufSize) (cam2 2).bufSize = false ∧ (cam2 2).height = 2 ∧ (1 : Nat) ≠ (cam2 2).height ∧
    cameras.cap.err.toNat % 8 ≠ 6 ∧ (cameras.cam 4).frames = [{ seq := 4, buf := some 0, waiting := [2, 2] }] ∧
    cameras.ppe.decodes.head? = some { id := .cmd 1 7, batch := 0, tensor := false, slots := 2 } ∧
    (cameras.batch 0).isSome = true ∧ cameras.spPoisoned 0 2 = false ∧
    (decodeInput { b := 0, height := 1, width := 1, chans := 1 } true (.data [0, 0])).1 ≠ (decodeInput { b := 0 } true .failed).1 := by decide

/-- A CAN FD controller that is ACTIVE, with filters to a holding register and to queues 0 (free) and 1 (full), and host buffer 2
pending, on its bus in `sending`; controller 1 is in bus-off, 2 recovers. -/
def canCfg0 : CanCfg := { c := 0, autoRecover := true, filters := [{ id := 1, mask := 0x1FFFFFFF, ide := false, target := .holding 3 },
  { id := 2, mask := 0x1FFFFFFF, ide := false, target := .queue 0 }, { id := 3, mask := 0x1FFFFFFF, ide := false, target := .queue 1 }] }
def buses : State := { served with
  time := { cnt := 10 }, image := some { img0 with cans := [canCfg0] },
  cans := [(0, { state := .active, tec := 250, queues := [(0, { len := 1 }), (1, { base := 1, len := 1, pi := 1 })], txs := [(2, { req := true })] }),
           (1, { state := .busOff }), (2, { state := .busOff, recovering := true })] }
def sending : State := buses.setCan 0 { buses.can 0 with onBus := some (.host 2) }

theorem met_CanFrames : buses.canCfg 0 = some canCfg0 ∧ (buses.can 0).onLine = true ∧ canFilter canCfg0.filters { id := 9 } = none ∧
    (canFilter canCfg0.filters { id := 1 }).map Prod.fst = some 0 ∧ ((canCfg0.filters[0]?).map CanFilter.target) = some (.holding 3) ∧
    (canFilter canCfg0.filters { id := 2 }).map Prod.fst = some 1 ∧ (canFilter canCfg0.filters { id := 3 }).map Prod.fst = some 2 ∧
    (let y := tblGet {} (buses.can 0).queues 0; (y.pi - y.ack).toNat < y.len) ∧ (let y := tblGet {} (buses.can 0).queues 1; y.len ≤ (y.pi - y.ack).toNat) ∧
    (let y := tblGet {} (buses.can 0).queues 1; (1 - y.ack).toNat ≤ (y.pi - y.ack).toNat ∧ (y.pi - y.ack).toNat < (2 - y.ack).toNat) ∧
    (tblGet {} (buses.can 0).txs 0).req = false ∧ (tblGet {} (buses.can 0).txs 2).req = true ∧ (0x80000000 : Word).getLsbD 31 = true ∧
    (0 : Word).getLsbD 31 = false ∧ (buses.can 0).onBus ≠ some (.host 2) ∧ (sending.can 0).onBus = some (.host 2) ∧ buses.canPending 0 ≠ [] ∧
    (buses.can 1).onLine = false ∧ 248 ≤ (sending.can 0).tec ∧ (buses.can 1).state = .busOff ∧ (buses.can 0).state ≠ .busOff ∧
    (buses.can 2).recovering = true := by decide

/-- Ethernet port 0 with its link up and a filter to a holding register, port 1 down with a servo frame that waits; domain 0 has a LATCH
and an OUTPUT entry that are due. -/
def ports : State := { served with
  time := { cnt := 10, doms := [(0, { state := .run, rate := 2 ^ 49, active := { period := 1000, entries := [{ offset := 0, action := 3 }, { offset := 0, action := 4 }] } })] },
  image := some { img0 with eths := [{ p := 0, filters := [{ dst := 5, etherType := 0x88F7, target := .holding 2 }] }, { p := 1 }],
                            latches := [{ index := 0 }] },
  eths := [(0, { link := true }), (1, { servo := [(4, {})] })] }

theorem met_EthernetAndLatches : (ports.ethCfg 0).isSome = true ∧ (ports.eth 0).link = true ∧
    (ports.ethCfg 0).any (fun c => (c.filters.find? (ethMatches { dst := 6, etherType := 0x88F7 })).isNone) = true ∧
    (ports.ethCfg 0).any (fun c => (c.filters.find? (ethMatches { dst := 5, etherType := 0x88F7 })).any fun f => f.target == .holding 2) = true ∧
    (ports.ethCfg 1).isSome = true ∧ (ports.eth 1).link = false ∧ (ports.eth 1).servo = [(4, {})] ∧ (ports.eth 1).class1 = [] ∧
    (ports.advance 10).fires 0 0 3 = some { offset := 0, action := 3 } ∧ (ports.advance 10).startedOf 0 0 = none ∧
    (ports.advance 10).entryDrained 0 { offset := 0, action := 3 } = false ∧
    (ports.image.bind fun i => i.latches.find? fun l => l.index == 0).isSome = true ∧
    (let p := ports.setDom 0 { ports.dom 0 with fired := [0] }; (p.advance 10).fires 0 1 4 = some { offset := 0, action := 4 } ∧
      (p.advance 10).startedOf 0 1 = none) := by decide

/-- Counters: 0 LIVE with value 3 under VID 7 of context 1, 2 ABANDONED under VID 8; a wait of two on counter 0 in `waiting`. -/
def counting : State := { served with
  time := { cnt := 10, doms := [(0, { state := .run, rate := 2 ^ 49 })] },
  cmd := { served.cmd with ctxs := [(1, { state := .attached, cls := 2, vids := [(7, { counter := 0, sig := true, wait := true }), (8, { counter := 2, sig := true, wait := true })] })] },
  sync := { counters := [(0, { state := .live, value := 3, owner := 1 }), (2, { state := .abandoned })] } }
def waiting : State := { counting with sync := { counting.sync with
  waits := [{ counter := 0, n := 4, who := .cmd { uid := 3, ctx := 1, tag := 9, deadline := 0x8000000000000000 } }] } }

/-- A counter command: VID, and its amount or value. -/
def syncPk (op : Nat) (v n : Byte) : Packet := pk op [v, 0, 0, 0, n]

theorem met_CounterCommands :
    (counting.Starts 1 (syncPk 0x0501 1 5) 0x0501 ∧ chkSyncCreate counting 1 (syncPk 0x0501 1 5) = none) ∧
    (counting.Starts 1 (syncPk 0x0502 1 0) 0x0502 ∧ chkSyncMap counting 1 (syncPk 0x0502 1 0) = none) ∧
    (counting.Starts 1 (syncPk 0x0503 7 0) 0x0503 ∧ chkSyncUnmap counting 1 (syncPk 0x0503 7 0) = none) ∧
    (counting.Starts 1 (syncPk 0x0504 7 1) 0x0504 ∧ chkSyncSignal counting 1 (syncPk 0x0504 7 1) = none) ∧
    (counting.Starts 1 (syncPk 0x0506 7 3) 0x0506 ∧ chkSyncTake counting 1 (syncPk 0x0506 7 3) = none ∧ 3 ≤ (counting.counter 0).value ∧
      counting.Starts 1 (syncPk 0x0506 7 4) 0x0506 ∧ chkSyncTake counting 1 (syncPk 0x0506 7 4) = none ∧ (counting.counter 0).value < 4) ∧
    (counting.Starts 1 (syncPk 0x0507 8 1) 0x0507 ∧ chkSyncInit counting 1 (syncPk 0x0507 8 1) = none) ∧
    (counting.Starts 1 (syncPk 0x0508 7 0) 0x0508 ∧ counting.vid 1 7 = some { counter := 0, sig := true, wait := true }) :=
  ⟨⟨starts_now _ _ _ _ rfl, rfl⟩, ⟨starts_now _ _ _ _ rfl, rfl⟩, ⟨starts_now _ _ _ _ rfl, rfl⟩, ⟨starts_now _ _ _ _ rfl, rfl⟩,
    ⟨starts_now _ _ _ _ rfl, rfl, by decide, starts_now _ _ _ _ rfl, rfl, by decide⟩, ⟨starts_now _ _ _ _ rfl, rfl⟩, ⟨starts_now _ _ _ _ rfl, rfl⟩⟩

theorem met_WaitsAndSignals :
    (counting.Starts 1 (syncPk 0x0505 7 3) 0x0505 ∧ chkSyncWait counting 1 (syncPk 0x0505 7 3) = none ∧ (∀ x ∈ counting.sync.waits, x.counter ≠ 0) ∧
      3 ≤ (counting.counter 0).value ∧ (counting.counter 0).value < 4) ∧
    (∃ r, waiting.sync.waits.map Wait.who = [.cmd r] ∧ r.ctx = 1 ∧ (waiting.advance 10).deadlineDue r.deadline = true) ∧
    (waiting.advance 10).deadlineDue 0 = false ∧ (counting.counter 0).state = .live ∧ (counting.counter 0).value + 1 ≤ 2 ^ 31 - 1 ∧
    2 ^ 31 - 1 < (counting.counter 0).value + (2 ^ 31 - 1) ∧ (counting.counter 2).state ≠ .live :=
  ⟨⟨starts_now _ _ _ _ rfl, rfl, by decide⟩, ⟨_, rfl, rfl, by decide⟩, by decide⟩

theorem met_GrantsSettle : (waiting.sync.waits.find? fun w => w.counter == 0).isSome = true ∧ (waiting.counter 0).value < 4 := by decide

/-- A reply with IRQ that waits in context 0, and a queued command of context 1 that waits with a deadline. -/
def queued : State := { served with
  time := { cnt := 0x200000, doms := [(0, { state := .run, rate := 2 ^ 49, active := { period := 1000, entries := [{ offset := 0, action := 5 }, { offset := 1, action := 5, wdMax := 1 }] } })] },
  lnk := { l0 := true },
  cmd := { served.cmd with
    ctxs := [(0, { state := .attached, cls := 2, replies := [{ tag := 1, status := 0, irq := true }] }), (1, { state := .attached, cls := 2 })],
    queue := [{ cmd := { uid := 4, ctx := 1, tag := 9, deadline := 0x8000000000000000 }, packet := pk 0x0301, part := 0, control := false, fetchedT := 0 }] } }

theorem met_CommandQueues : (queued.ctx 0).replies.length = 1 ∧ (queued.ctx 0).state ≠ .detached ∧ queued.hostDead = false ∧
    ((queued.ctx 0).rplPi - 0).toNat < 2 ^ (queued.ctx 0).rplLog2 ∧ 2 ^ (queued.ctx 0).rplLog2 ≤ ((queued.ctx 0).rplPi - (-64)).toNat ∧
    (queued.cmd.queue.find? fun q => q.cmd.ctx == 1 && q.cmd.tag == 9 && (queued.advance 0).aged q).isSome = true ∧
    (queued.cmd.queue.find? fun q => q.cmd.ctx == 1 && q.cmd.tag == 8 && (queued.advance 0).aged q) = none ∧
    queued.cmd.queue.length = 1 ∧ (queued.advance 0).deadlineDue 0x8000000000000000 = true ∧ (queued.advance 0).deadlineDue 0 = false ∧
    (served.cmd.queue = [] ∧ ∀ k ∈ queueKeys, 0 < served.qmax k.1 k.2) ∧ (queued.ctx 1).state = .attached ∧
    (queued.advance 0).fires 0 0 5 = some { offset := 0, action := 5 } ∧ (queued.advance 0).startedOf 0 0 = none ∧
    firmwareFunc (queued.ctx 1).func = false ∧ 2 ^ (queued.ctx 1).cmdLog2 < ((65 : Word) - (queued.ctx 1).cmdCi).toNat ∧
    served.headerCheck (pk 0x0000) = some stBadOpcode ∧ served.headerCheck (syncPk 0x0501 1 0) = none ∧
    (let p := syncPk 0x0501 1 0; let f := (served.fetchOne 1 p (served.fetchClass 1 p)).1;
      f.startCheck p (f.fetchCheck 1 p) = none ∧ controlFamily p.opcode.toNat = false ∧
      served.queueLen (served.ctx 1).part (served.fetchClass 1 p) < served.qmax (served.ctx 1).part (served.fetchClass 1 p) ∧
      (let s : State := { served with image := some { img0 with parts := [{ id := 0, qmax2 := 0 }] } };
        ¬ s.queueLen 0 2 < s.qmax 0 2)) ∧
    controlFamily 0x0101 = true := by decide

/-! ## Hypotheses met: images, safety, security, service -/

/-- A genuine signature of the vendor, and an envelope with it. -/
def vendor : Sig := { signer := 0, keyHash := 0, genuine := true }
def env1 : Envelope := { sigs := [vendor] }
/-- Images: one that loads, one with a heartbeat period of 0, one without a signature. -/
def imgGood : Image := { env := env1, packages := 1 }
def imgHb : Image := { imgGood with safety := { hbPeriod := 0 } }
def imgUnsigned : Image := { packages := 1 }

/-- The part with both dies up and no image; a held IMG_LOAD in its queue; and one that runs, of `i`. -/
def upNow : State := { live with glob := { hubReady := true, die0Up := true, die1Up := true } }
def aLoad (i : Option Image) : Queued := { cmd := { uid := 2, ctx := 0, tag := 1 }, packet := pk 0x0201, part := 0, control := true, fetchedT := 0, img := some i }
def heldLoad : State := { upNow with cmd := { upNow.cmd with queue := [aLoad (some imgGood)] } }
def loadingOf (i : Option Image) : State := { upNow with pwr := { lpddrInit := false }, glob := { upNow.glob with loading := true }, cmd := { upNow.cmd with loadCmd := some (aLoad i) } }

theorem met_ImageLoads :
    (upNow.Starts 0 (pk 0x0201) 0x0201 ∧ chkImgLoad upNow 0 = none ∧ upNow.mayLoad = true) ∧
    (live.Starts 0 (pk 0x0201) 0x0201 ∧ chkImgLoad live 0 = none ∧ live.mayLoad = false ∧ live.headOf 0 = none) ∧
    (heldLoad.powered = true ∧ heldLoad.headOf 0 = some (aLoad (some imgGood)) ∧ heldLoad.mayLoad = true ∧ (heldLoad.ctx 0).state = .attached ∧
      heldLoad.fenceOk 0 2 (pk 0x0201) = true ∧ (heldLoad.advance 0).startCheck (pk 0x0201) (chkImgLoad heldLoad 0) = none) :=
  ⟨⟨starts_now _ _ _ _ rfl, rfl, rfl⟩, ⟨starts_now _ _ _ _ rfl, rfl, rfl, rfl⟩, rfl, rfl, rfl, rfl, by decide +kernel, rfl⟩

/-- The state in which the checks of a running load are made. -/
def judged (i : Option Image) : State :=
  { (loadingOf i).advance 0 with glob := { (loadingOf i).glob with loading := false }, cmd := { (loadingOf i).cmd with loadCmd := none } }

theorem met_ImageInstalls : (loadingOf (some imgGood)).powered = true ∧ (loadingOf (some imgGood)).pwr.lpddrInit = false ∧
    (judged (some imgGood)).loadCheck imgGood = none ∧ (judged (some imgHb)).loadCheck imgHb = some stBadParam ∧
    (judged (some imgUnsigned)).loadCheck imgUnsigned = some stSigFail := by decide +kernel

theorem met_ImageUnloads : (served.Starts 0 (pk 0x0202) 0x0202 ∧ chkImgUnload served 0 = none ∧ served.glob.imageLoaded = true) ∧
    (live.Starts 0 (pk 0x0202) 0x0202 ∧ chkImgUnload live 0 = none ∧ live.glob.imageLoaded = false) ∧
    (live.Starts 0 (pk 0x0203) 0x0203 ∧ chkImgQuery 0 = none ∧ live.image = none ∧ served.Starts 0 (pk 0x0203) 0x0203 ∧ served.image = some img0) :=
  ⟨⟨starts_now _ _ _ _ rfl, rfl, rfl⟩, ⟨starts_now _ _ _ _ rfl, rfl, rfl⟩, starts_now _ _ _ _ rfl, rfl, rfl, starts_now _ _ _ _ rfl, rfl⟩

/-- `served` under its supervisor: the pins are armed and follow, HEARTBEAT runs, SAFE_IN is enabled. -/
def guarded : State := { served with safe := { armed := true, outA := true, outB := true, hbRun := true, safeInEn := true } }

theorem met_MonitorEvents : guarded.PinsOk ∧ guarded.reactLevel 0x17 = 2 ∧ guarded.powered = true ∧ (0 * 100 < (guarded.railWindow 2).1) ∧
    ((guarded.railWindow 2).2 < 900 * 100) ∧ ((guarded.railWindow 2).1 ≤ 750 * 100 ∧ 750 * 100 ≤ (guarded.railWindow 2).2) ∧
    (115 * 16 : Int) < 1841 := ⟨fun _ => by decide, by decide⟩

theorem met_SafetyPins : guarded.powered = true ∧ guarded.glob.safeHold = false ∧ guarded.safe.armed = true ∧ guarded.safe.safeInEn = true ∧
    guarded.safe.hbRun = true ∧ guarded.glob.hubReady = true ∧ live.safe.armed = false ∧ live.safe.hbRun = false ∧
    ({ guarded with glob := { guarded.glob with safeHold := true } } : State).glob.safeHold = true := by decide

/-- Domain 0 with a SELFTEST entry of region 0 and a GOLDEN entry of frame 0; in `testing` both run and no slice has passed since 0. -/
def diag : State := { guarded with
  time := { cnt := 60000000, doms := [(0, { state := .run, rate := 2 ^ 49, disc := 1, active := { period := 1000, entries := [
    { offset := 0, action := 8, target := 0 }, { offset := 1, action := 7, target := 0 }] } })] },
  image := some { img0 with safety := { golden := [{ index := 0, part := 0, crc := 0 }] } } }
def testing : State := { diag with
  safe := { diag.safe with selftest := [(0, { running := true, passed := List.replicate 40 0 })] },
  sched := { started := [{ d := 0, pool := 0, index := 0, entry := { offset := 0, action := 8, target := 0 }, firedT := 0 },
    { d := 0, pool := 1, index := 1, entry := { offset := 1, action := 7, target := 0 }, firedT := 0 }] } }

theorem met_SelfTests : (diag.advance 0).fires 0 0 8 = some { offset := 0, action := 8, target := 0 } ∧
    diag.entryDrained 0 { offset := 0, action := 8, target := 0 } = false ∧ diag.startedOf 0 0 = none ∧
    (testing.startedOf 0 0).isSome = true ∧ (testing.selfTest 0).running = true ∧ (testing.selfTest 0).next < (testing.selfTest 0).passed.length ∧
    testing.glob.imageLoaded = true ∧ testing.partOf 0 = some 0 ∧ (testing.physOf 0).isSome = true ∧ maskBit testing.pwr.drained 0 = false ∧
    (testing.advance 0).covered 0 = false ∧ (testing.selfTest 0).late = false ∧
    (let s := testing.setSelfTest 0 { late := true }; (s.advance 0).covered 0 = false ∧ (s.selfTest 0).late = true) := by decide +kernel

theorem met_GoldenFrames : ((diag.setDom 0 { diag.dom 0 with fired := [0] }).advance 0).fires 0 1 7 = some { offset := 1, action := 7, target := 0 } ∧
    diag.entryDrained 0 { offset := 1, action := 7, target := 0 } = false ∧ diag.startedOf 0 1 = none ∧ (testing.startedOf 0 1).isSome = true ∧
    (((diag.image.getD {}).safety.golden).find? fun g => g.index == 0) = some { index := 0, part := 0, crc := 0 } ∧
    crc64 [] = 0 ∧ crc64 [1] ≠ 0 := by decide +kernel

/-- In package safe state with a met HOST_REQUEST; in safe state in partition 0; with a record in the log. -/
def safeAll : State := { guarded with safe := { guarded.safe with package := true, parts := 1, logCount := 1, log := [⟨1, 1, 0, 0, 5⟩] } }

/-- A safety command of a scope. -/
def scopePk (op : Nat) (scope : Byte) : Packet := pk op [scope, 0]

theorem met_SafetyCommands :
    guarded.Starts 0 (pk 0x0901) 0x0901 ∧ (guarded.Starts 0 (scopePk 0x0902 1) 0x0902 ∧ chkSafeScope guarded 0 (scopePk 0x0902 1) = none) ∧
    (guarded.Starts 1 (scopePk 0x0902 0) 0x0902 ∧ chkSafeScope guarded 1 (scopePk 0x0902 0) = none) ∧
    (safeAll.Starts 0 (scopePk 0x0903 1) 0x0903 ∧ chkSafeScope safeAll 0 (scopePk 0x0903 1) = none ∧ safeAll.packageHeld = false ∧
      safeAll.Starts 0 (scopePk 0x0903 0) 0x0903 ∧ safeAll.partHeld 0 = true) ∧
    (guarded.partHeld 0 = false ∧ ({ safeAll with safe := { safeAll.safe with latched := true } } : State).packageHeld = true) ∧
    (safeAll.Starts 0 (pk 0x0904 [0, 0, 2]) 0x0904 ∧ chkSafeLogRead (pk 0x0904 [0, 0, 2]) = none ∧ safeAll.logAt 0 = some ⟨1, 1, 0, 0, 5⟩ ∧
      safeAll.logAt 1 = none) :=
  ⟨starts_now _ _ _ _ rfl, ⟨starts_now _ _ _ _ rfl, rfl⟩, ⟨starts_now _ _ _ _ rfl, rfl⟩,
    ⟨starts_now _ _ _ _ rfl, rfl, rfl, starts_now _ _ _ _ rfl, rfl⟩, ⟨rfl, rfl⟩, starts_now _ _ _ _ rfl, rfl, rfl, rfl⟩

/-- The part with a nonce of a lifecycle state, and a zeroisation that runs. -/
def secured (lc : Nat) (owner : Option Digest := none) : State := { live with
  sec := { live.sec with nonce := some ([], 0), mram := { live.sec.mram with lifecycle := lc, owner := owner } } }
def erasing (lc : Nat) : State := { secured lc with
  sec := { (secured lc).sec with mram := { (secured lc).sec.mram with zrec := some (1, 3) } }, lnk := { (secured lc).lnk with lpTrained := true } }

theorem met_Zeroisation : live.sec.mram.zrec = none ∧ (erasing 1).sec.mram.zrec.isSome = true ∧ (erasing 4).lnk.lpTrained = true ∧
    (erasing 4).powered = true ∧ (erasing 4).sec.log.length ≤ 1024 ∧ (erasing 4).sec.mram.lifecycle = 4 ∧ (erasing 1).sec.mram.lifecycle ≠ 4 ∧
    (erasing 1).sec.zcmd = none ∧
    ({ erasing 1 with sec := { (erasing 1).sec with zcmd := some ({ uid := 1, ctx := 0, tag := 1 }, []) } } : State).sec.zcmd.isSome = true := by decide

theorem met_TamperAndEntropy : (secured 1).powered = true ∧ (secured 1).sec.mram.lifecycle ≠ 4 ∧ (secured 4).sec.mram.lifecycle = 4 ∧
    (secured 1).sec.fails < 64 ∧ (secured 1).sec.mram.zrec = none ∧ maskBit (secured 1).sec.mram.policy 0 = true ∧
    maskBit (secured 1).sec.mram.policy 1 = false ∧ ({ secured 1 with sec := { (secured 1).sec with rngFail := true, fails := 64 } } : State).sec.rngFail = true ∧
    (secured 1).sec.nonce = some ([], 0) ∧ 0 + 30000000000 ≤ max (secured 1).time.cnt 30000000000 ∧ max (secured 1).time.cnt 5 < 0 + 30000000000 := by decide

theorem met_SecurityQueries :
    (live.Starts 1 (pk 0x0A01) 0x0A01 ∧ u64 (pk 0x0A01) 24 = 0 ∧ (let p := pk 0x0A01 [0, 0, 0, 0, 0, 0, 0, 0, 1]; live.Starts 1 p 0x0A01 ∧ u64 p 24 ≠ 0)) ∧
    (live.Starts 0 (pk 0x0A02) 0x0A02 ∧ chkSecRandom live 0 = none) ∧ (live.Starts 1 (pk 0x0A03) 0x0A03 ∧ chkSecAttest live = none) ∧
    (live.Starts 0 (pk 0x0A04 [0, 0, 1]) 0x0A04 ∧ chkSecLogRead live 0 (pk 0x0A04 [0, 0, 1]) = none) ∧
    (let s : State := { live with sec := { live.sec with running := [(1, 3, 7)] } };
      s.Starts 0 (pk 0x0A05 [3]) 0x0A05 ∧ chkSecSvnCommit s 0 (pk 0x0A05 [3]) = none ∧ s.runningSvn (u8 (pk 0x0A05 [3]) 16) = some 7) :=
  ⟨⟨starts_now _ _ _ _ rfl, rfl, starts_now _ _ _ _ rfl, by decide⟩, ⟨starts_now _ _ _ _ rfl, rfl⟩, ⟨starts_now _ _ _ _ rfl, rfl⟩,
    ⟨starts_now _ _ _ _ rfl, rfl⟩, starts_now _ _ _ _ rfl, rfl, rfl⟩

/-- An authorisation of an action that verifies in `secured`, and one that does not. -/
def signed (act : Nat) (param : Digest) : Auth := { message := authDigest act [] param }
theorem signed_good (lc : Nat) (o : Option Digest) (act : Nat) (param : Digest) : (secured lc o).authGood (signed act param) act param = true := by
  simp [State.authGood, secured, signed, show live.time.cnt < 30000000000 by decide]

set_option linter.unusedSimpArgs false in
theorem met_AuthorisedCommands :
    (∀ lc o act param, (secured lc o).authGood (signed act param) act param = true) ∧
    (∀ lc o act param, (secured lc o).authGood { signed act param with genuine := false } act param = false) ∧
    ((secured 1).Starts 0 (pk 0x0A06) 0x0A06 ∧ chkSecCtx (secured 1) 0 = none) ∧
    ((secured 0).Starts 0 (pk 0x0A07 [8]) 0x0A07 ∧ chkSecLifecycle (secured 0) 0 (pk 0x0A07 [8]) = none ∧ (secured 0).lifecycleOk 8 (signed 8 0) = true) ∧
    ((secured 1 (some 0)).lifecycleOk 2 (signed 2 0) = true ∧ (secured 3 (some 0)).lifecycleOk 4 (signed 4 0) = true ∧
      (secured 2 (some 0)).lifecycleOk 5 (signed 5 0) = true ∧ (secured 1).lifecycleOk 8 (signed 8 0) = false) ∧
    ((secured 1).Starts 0 (pk 0x0A08) 0x0A08 ∧ chkSecDebugOpen (secured 1) 0 = none ∧ (secured 1).byVendor (signed 3 0) = true) ∧
    ((secured 1 (some 0)).Starts 0 (pk 0x0A09 [27]) 0x0A09 ∧ chkSecTamperPolicy (secured 1 (some 0)) 0 (pk 0x0A09 [27]) = none ∧
      ∀ param, (secured 1 (some 0)).byOwner (signed 6 param) = true) ∧
    ((secured 1 (some 0)).Starts 0 (pk 0x0A0A [2]) 0x0A0A ∧ chkSecKeyImport (secured 1 (some 0)) 0 (pk 0x0A0A [2]) = none ∧
      (let b : List Byte := List.replicate 1568 0 ++ [2, 1]; leField (bytesAt b 0 1636) 1568 1 = 2 ∧ leField (bytesAt b 0 1636) 1569 1 = 1)) ∧
    ((secured 1 (some 0)).Starts 0 (pk 0x0A0B [1]) 0x0A0B ∧ chkSecSystemSet (secured 1 (some 0)) 0 (pk 0x0A0B [1]) = none) :=
  ⟨signed_good, fun _ _ _ _ => rfl, ⟨starts_now _ _ _ _ rfl, rfl⟩, ⟨starts_now _ _ _ _ rfl, rfl, by simp [State.lifecycleOk, State.byVendor, State.byOwner, secured, signed, live, State.reset]⟩, ⟨by simp [State.lifecycleOk, State.byVendor, State.byOwner, secured, signed, live, State.reset], by simp [State.lifecycleOk, State.byVendor, State.byOwner, secured, signed, live, State.reset], by simp [State.lifecycleOk, State.byVendor, State.byOwner, secured, signed, live, State.reset], by simp [State.lifecycleOk, State.byVendor, State.byOwner, secured, signed, live, State.reset]⟩,
    ⟨starts_now _ _ _ _ rfl, rfl, by simp [State.lifecycleOk, State.byVendor, State.byOwner, secured, signed, live, State.reset]⟩, ⟨starts_now _ _ _ _ rfl, rfl, fun _ => by simp [State.lifecycleOk, State.byVendor, State.byOwner, secured, signed, live, State.reset]⟩,
    ⟨starts_now _ _ _ _ rfl, rfl, by decide +kernel⟩, starts_now _ _ _ _ rfl, rfl⟩

/-- SPDM after its negotiation, with a handshake 4, a session 5 and a certificate chain in slot 0. -/
def spoken : State := { live with lnk := { l0 := true }, flash := { certs := [(0, [1, 2])] },
                                  sec := { live.sec with huskReady := true, spdm := { stage := 3, handshake := [4], sessions := [5], next := 6 } } }

theorem met_SpdmRequests : spoken.powered = true ∧ spoken.sec.huskReady = true ∧ spoken.lnk.l0 = true ∧ live.sec.spdm.stage < 3 ∧
    (∀ k, ({ session := some 5 } : SpdmReq).session = some k → k ∈ spoken.sec.spdm.sessions) ∧ 3 ≤ spoken.sec.spdm.stage ∧
    ((0, [1, 2]) ∈ spoken.flash.certs ∧ (spoken.flash.certs.map Prod.fst).Nodup) ∧ spoken.sec.rngFail = false ∧
    ({ spoken with sec := { spoken.sec with rngFail := true } } : State).sec.rngFail = true ∧ 4 ∈ spoken.sec.spdm.handshake ∧
    4 ∉ spoken.sec.spdm.sessions ∧ 5 ∉ spoken.sec.spdm.handshake ∧ 5 ∈ spoken.sec.spdm.sessions :=
  ⟨rfl, rfl, rfl, by decide, fun k h => by cases h; decide, by decide⟩

/-- `served` with partition 0 drained, and with it draining. -/
def drained0 : State := { served with pwr := { drained := 1 } }
def draining0 : State := { served with pwr := { draining := 1, drainCmd := [(0, { uid := 1, ctx := 0, tag := 1 })] } }
/-- A problem of partition 0 that waits for its window. -/
def waitsFor : State := { served with slv := { probs := [(0, { valid := true, desc := { slot := 0 }, cmd := some ({ uid := 1, ctx := 0, tag := 1 }, 0) })] } }

theorem met_PartitionsDrain : (served.Starts 0 (pk 0x0B01 [0, 0]) 0x0B01 ∧ chkSrvDrain served 0 (pk 0x0B01 [0, 0]) = none ∧
      served.drainPart (pk 0x0B01 [0, 0]) = some 0 ∧ maskBit served.pwr.drained 0 = false) ∧
    (drained0.Starts 0 (pk 0x0B01 [0, 0]) 0x0B01 ∧ chkSrvDrain drained0 0 (pk 0x0B01 [0, 0]) = none ∧ maskBit drained0.pwr.drained 0 = true) ∧
    ((waitsFor.prob 0).cmd.isSome = true ∧ (waitsFor.prob 0).desc.part = 0 ∧ (waitsFor.prob 0).run = none) ∧
    (draining0.powered = true ∧ maskBit draining0.pwr.draining 0 = true ∧ (draining0.advance 0).partIdle 0 = true) ∧
    ((draining0.setSelfTest 0 { running := true }).advance 0).partIdle 0 = false :=
  ⟨⟨starts_now _ _ _ _ rfl, rfl, rfl, rfl⟩, ⟨starts_now _ _ _ _ rfl, rfl, rfl⟩, by decide⟩

/-- `drained0` with a repair of region 0 under way; without region 0 bound; with a resumption under way. -/
def repairing : State := { drained0 with pwr := { drained0.pwr with repairCmd := [({ uid := 1, ctx := 0, tag := 1 }, 0, 3)] } }
def resuming : State := { drained0 with pwr := { drained0.pwr with resumeCmd := [(0, { uid := 1, ctx := 0, tag := 1 })] } }

theorem met_Repairs : (drained0.Starts 0 (pk 0x0B02 [0, 255]) 0x0B02 ∧ chkSrvRepair drained0 0 (pk 0x0B02 [0, 255]) = none) ∧
    repairing.powered = true ∧ repairing.partOf 0 = some 0 ∧ repairing.physOf 0 = some 0 ∧
    ({ repairing with glob := { repairing.glob with lmap := [] } } : State).physOf 0 = none ∧
    repairing.sec.mram.repair.length + (repairRecords 0 3 {}).length ≤ 8192 ∧ repairRecords 0 3 {} ≠ [] ∧ repairRecords 0 255 {} = [] :=
  ⟨⟨starts_now _ _ _ _ rfl, rfl⟩, by decide⟩

/-- `img0` with a self-test slot every millisecond, and a partition image of it. -/
def imgTest : Image := imgPlaced { img0 with
  domains := [{ d := 0, tables := [0] }],
  tables := [{ period := 1000000, entries := [{ offset := 0, action := 8, cls := 2, wdMax := 1 }] }] }
def partImg : Image := { env := env1 }
def drainedUp : State := { drained0 with image := some imgTest, sec := { drained0.sec with mram := { drained0.sec.mram with lifecycle := 0 } } }

theorem met_Resumptions : (drained0.Starts 0 (pk 0x0B03 [0]) 0x0B03 ∧ chkSrvResume drained0 0 (pk 0x0B03 [0]) = none) ∧
    (resuming.powered = true ∧ resuming.pwr.resumeCmd.length = 1 ∧ resuming.pwr.partImage = []) ∧
    (drainedUp.Starts 0 (pk 0x0B04 [0]) 0x0B04 ∧ chkSrvPartLoad drainedUp 0 (pk 0x0B04 [0]) = none ∧ drainedUp.image = some imgTest) ∧
    (let b := drainedUp.begin_ 0 (pk 0x0B04 [0]) (drainedUp.ctx 0).cls; b.1.partCheck imgTest partImg 0 = none ∧
      b.1.partCheck imgTest { partImg with extends_ := 1 } 0 = some stConflict) :=
  ⟨⟨starts_now _ _ _ _ rfl, rfl⟩, ⟨rfl, rfl, rfl⟩, ⟨starts_now _ _ _ _ rfl, rfl, rfl⟩, by decide +kernel⟩

/-- Envelopes of hub firmware: one that verifies, one without a signature. -/
def fwEnv : Envelope := { env1 with type := 0x01 }
def updating (h : Handover) : State := { live with pwr := { handover := h, fwCmd := some ({ uid := 1, ctx := 0, tag := 1 }, fwEnv) } }

theorem met_FirmwareUpdates : (live.Starts 0 (pk 0x0B05) 0x0B05 ∧ chkSrvFirmware live 0 = none ∧ live.verifyStatus fwEnv [0x01] = none ∧
      live.verifyStatus { fwEnv with sigs := [] } [0x01] = some stSigFail) ∧
    (live.Starts 0 (pk 0x0B06) 0x0B06 ∧ live.verifyStatus fwEnv [0x01, 0x02, 0x03, 0x04] = none) ∧
    ((updating .loaded).powered = true ∧ (updating .loaded).pwr.fwCmd.isSome = true ∧ (updating .loaded).pwr.handover = .loaded ∧
      (updating .core2).pwr.handover = .core2) ∧
    ({ live with pwr := { flashCmd := some ({ uid := 1, ctx := 0, tag := 1 }, fwEnv) } } : State).pwr.flashCmd.isSome = true :=
  ⟨⟨starts_now _ _ _ _ rfl, rfl, by decide +kernel, by decide +kernel⟩, ⟨starts_now _ _ _ _ rfl, by decide +kernel⟩, by decide⟩

theorem met_ServiceCommands : live.Starts 0 (pk 0x0B07) 0x0B07 ∧ (let p := pk 0x0B08 [0, 0, 0, 0, 0x60, 0xEA, 0, 0];
      served.Starts 0 p 0x0B08 ∧ chkPwrCapSet served 0 p = none ∧ served.glob.imageLoaded = true ∧ live.Starts 0 p 0x0B08 ∧
      chkPwrCapSet live 0 p = none ∧ live.glob.imageLoaded = false) ∧ live.Starts 1 (pk 0x0B09) 0x0B09 :=
  ⟨starts_now _ _ _ _ rfl, ⟨starts_now _ _ _ _ rfl, by decide, rfl, starts_now _ _ _ _ rfl, by decide, rfl⟩, starts_now _ _ _ _ rfl⟩

/-- Telemetry stream 0 of context 1, with decimation 2^DECIM. -/
def watched (decim : Nat) : State := { live with cmd := { live.cmd with decim := decim }, pwr := { tlms := [(0, some { ctx := 1, kind := 0, period := 1, log2 := 6, ring := 0 })] } }

theorem met_TelemetryRecords : (let p := pk 0x0C01 [0, 1, 6]; live.Starts 1 p 0x0C01 ∧ chkTlmOpen live p = none ∧ live.freeTlm = some 0) ∧
    ((watched 0).Starts 1 (pk 0x0C02 [0]) 0x0C02 ∧ chkTlmClose (watched 0) 1 (pk 0x0C02 [0]) = none) ∧
    ((watched 0).powered = true ∧ ((watched 0).tlm 0).isSome = true ∧ (0 + 1 : Word).toNat % 2 ^ (watched 0).cmd.decim = 0 ∧
      (0 + 1 : Word).toNat % 2 ^ (watched 1).cmd.decim ≠ 0 ∧ (BitVec.ofNat 16 0 - BitVec.ofNat 16 0).toNat < 2 ^ 6 - 1 ∧
      ¬ (BitVec.ofNat 16 63 - BitVec.ofNat 16 0).toNat < 2 ^ 6 - 1 ∧ (watched 0).pwr.handover ≠ .loaded ∧ (watched 0).hostDead = false) :=
  ⟨⟨starts_now _ _ _ _ rfl, rfl, rfl⟩, ⟨starts_now _ _ _ _ rfl, rfl⟩, by decide⟩

/-! ## Hypotheses met: invariants -/

theorem reset_memOk : State.reset.MemOk := ⟨rfl, rfl, rfl, rfl⟩
theorem reset_pinsOk : State.reset.PinsOk := fun h => by revert h; decide

theorem met_MemoriesKeepForm : live.MemOk ∧ ∃ u, step live = .next u := ⟨⟨rfl, rfl, rfl, rfl⟩, _, rfl⟩
theorem met_PinsStayLow : guarded.PinsOk ∧ (guarded.safe.outA = true) ∧ ∃ u, step guarded = .next u := ⟨fun _ => by decide, by decide, _, rfl⟩
theorem met_TimeRunsOn : ∃ u, exec (.safeInLow 7) live = .next u ∧ u.time.cnt = 7 := ⟨_, rfl, rfl⟩
theorem met_MramRatchets : (∃ u, exec (.safeInLow 7) (secured 4) = .next u) ∧ (secured 4).sec.mram.lifecycle = 4 ∧
    (∃ u, exec (.zeroisationComplete 0) (erasing 1) = .next u) ∧ (secured 1 (some 0)).sec.mram.owner.isSome = true := ⟨⟨_, rfl⟩, rfl, ⟨_, rfl⟩, rfl⟩

/-! ## Hypotheses met: further clauses -/

/-- STRM_STATE writing a stream. -/
def statePk (i : Byte) : Packet := pk 0x0326 [i, 0, 1]

theorem met_StateWrites : chkStrmNamed streaming 1 (statePk 5) = none ∧ (streaming.strmModel (streaming.stream 5).model).isSome = true ∧
    strmFlag (statePk 5) = true ∧ (streaming.stream 5).chunks ≠ [] ∧ (streaming.stream 0).chunks = [] ∧ chkStrmNamed streaming 1 (statePk 0) = none ∧
    (∃ m, streaming.strmModel (streaming.stream 0).model = some m ∧
      ∃ e ∈ stateOf m [0, 0, 0xC0, 0x7F, 0, 0], f32Fin e.1 = false ∨ 2 ^ 14 < e.2.toInt.natAbs) :=
  ⟨rfl, rfl, rfl, by decide, by decide, rfl, _, rfl, by decide⟩

theorem met_LineRestarts : cameras.domsOf 2 0 = [0] ∧ (cameras.dom 0).state = .run ∧ cameras.sched.swaps = [] ∧ (cameras.cam 0).open_ = false := by decide

theorem met_TimePhase : ∃ x : Domain, x.source = 0 ∧ 0 ≤ x.timeVal 7 ∧ x.ps = 0 ∧ x.ns 8 = x.ns 7 + 2 ∧ x.phase 7 = 14 :=
  ⟨{ rate := 2 ^ 49 }, by decide⟩

theorem met_PackageCount : (judged (some { imgGood with packages := 2 })).verifyStatus imgGood.env [0x10, 0x11] = none ∧
    ({ imgGood with packages := 2 } : Image).packages ≠ (loadingOf none).systemPackages := by decide +kernel

theorem met_OthersRecords : ∃ r, safeAll.logAt 0 = some r ∧ (1 : Nat) ≠ 0 ∧
    r.part ≠ (({ safeAll with cmd := { safeAll.cmd with ctxs := [(1, { state := .attached, part := 3 })] } } : State).ctx 1).part ∧
    safeAll.safe.log.length ≤ 256 := ⟨_, rfl, by decide⟩

/-! ## Worked examples of the spec -/

/-- The operands of the column of spec/02 (R71): the decoded activations and codebook entries. -/
def column : List (FVal × FVal) := [(0x3FC0, 0x3F50), (0x4010, 0xBFB4), (0x33C0, 0x3B40), (0x3080, 0x3B40)].map fun x : Nat × Nat =>
  (bf16.decode x.1, bf16.decode x.2)

/-- The column under an anchor. -/
def columnAt (a : Int) : ColAcc := gridColumn a (fun _ => storedScale false (-12) 0x3D40) (.fin false 0 0) 4 column

theorem test_grid_column : foot 4 (-12) false (.fin false 0 0) (columnAt 4) = 0xBDBAC000 ∧ columnAt 4 = { acc := -6416681139456, ovf := 0, loss := 1 } := by decide

/-- With A = −8 one product leaves the window; the dynamic anchor of the re-run is 3 and gives the same result (R62). -/
theorem test_wide_rerun : (columnAt (-8)).ovf = 1 ∧ (columnAt (-8)).loss = 0 ∧ dynAnchor (column.map Prod.fst) (column.map Prod.snd) = 3 ∧
    foot 3 (-12) false (.fin false 0 0) (columnAt 3) = 0xBDBAC000 ∧ (columnAt 3).loss = 1 := by decide

/-- The flow totaliser of spec/06 (R167): two samples of 0.3 on 1,000. -/
theorem test_compensated_sum : updateElem (0x447A0000, 0) 0x3E99999A = (0x447A1333, 6560) ∧
    updateElem (0x447A1333, 6560) 0x3E99999A = (0x447A2666, 13120) := by decide

/-- The dialogue model of spec/05 (R140): the region's size and the places of its rows. -/
theorem test_kv_region : (let m : ModelCfg := { index := 0, part := 0, maxLen := 8000, layers := 32, heads := 4, dim := 128 };
    kvSize m 8000 = 524288000 ∧ kvOffset m (kvPositions 8000) 5 1 2 4137 = 95267072 ∧ kvOffset m (kvPositions 8000) 5 0 0 5952 = 83443712) := by decide

/-- The geometry of spec/04 (R117): a 3 × 3 convolution with stride 2 and padding 1 over 640 × 400. -/
theorem test_expand_geometry : outDim 400 1 1 1 3 2 = some 200 ∧ outDim 640 1 1 1 3 2 = some 320 := by decide

/-- The check value of R388. -/
theorem test_crc64 : crc64 [0x31, 0x32, 0x33, 0x34, 0x35, 0x36, 0x37, 0x38, 0x39] = 0x995DC9BBDF1939FA := by decide +kernel

/-! ## Terms that WellFormed refuses: one for each range -/

theorem test_ill_formed :
    [Instr.safeInLow (2 ^ 64), .safeQuery 64 { opcode := 0x0901, params := List.replicate 48 0 }, .safeQuery 0 { opcode := 0x0901, params := [] },
     .rgnNumClearRerun 2 0, .rgnNumClearRerun 0 16, .task 0 8 0, .task 0 0 4096, .dieUp 0 2 none true true, .lpddrTrainingDone 0 3 0 0 none,
     .lpddrTrainingDone 0 0 14 0 none, .lpddrTrainingDone 0 0 0 65 none, .pcieLinkUp 0 3 1 false, .pcieLinkUp 0 4 7 false, .vfFlr 0 0, .vfFlr 0 32,
     .cteCoefRegWrite 64 2 0, .cteCoefRegWrite 0 1 0, .canClearLate 4, .stepStart 0 8, .solverDeadline 0 256, .policyMissing 0 16,
     .encoderIndexEdge 0 16, .sampleFrameStart 0 8, .bandConverted 0 32 [], .syncInEdge 0 4, .loadWindow 0 101, .coverLoss 0 32, .ideCheckFail 0 (.selective 8),
     .rolinkForward 4 0, .rolinkForward 0 8, .ethLinkChange 6 true, .csiPortChange 8 true, .drainComplete 0 8].all (fun i => !i.wf) = true := by decide

theorem test_well_formed : Instr.wf (.safeQuery 63 { opcode := 0x0901, params := List.replicate 48 0 }) = true ∧ Instr.wf (.task 0 7 4095) = true ∧
    Instr.wf (.ideCheckFail 0 (.selective 7)) = true ∧ Instr.wf (.vfFlr 0 31) = true := by decide

/-- An event of a unit that no part has changes nothing but the time. -/
theorem test_absent_unit : exec (.rgnNumClearRerun 0 40) live = .next live := rfl

/-! ## Hypotheses met: cases of one cycle, and a host that no request reaches -/

/-- The part with an Insecure link stream. -/
def deadHost : State := { served with lnk := { served.lnk with ide := [(8, .insecure)] } }
/-- The part with a control command that waits. -/
def controlled : State := { served with cmd := { served.cmd with
  queue := [{ cmd := { uid := 4, ctx := 0, tag := 9 }, packet := pk 0x0106 [0], part := 0, control := true, fetchedT := 0 }] } }

theorem met_DeadHost : deadHost.hostDead = true ∧ deadHost.ctxDead 1 = true ∧ (deadHost.ctx 1).state = .attached ∧ deadHost.headOf 1 = none ∧
    deadHost.mayFetch 1 = true ∧ deadHost.fenceOk 1 deadHost.cmd.nextUid (pk 0x0106) = true ∧ deadHost.controlFull = false ∧
    deadHost.controlWaits = false ∧ firmwareFunc (deadHost.ctx 1).func = false ∧ served.ctxDead 1 = false ∧
    ({ solving with lnk := deadHost.lnk } : State).ctxDead 1 = true ∧ ({ State.reset with lnk := deadHost.lnk } : State).hostDead = true := by decide

theorem met_CommandGuards : controlFamily 0x0301 = false ∧ controlled.controlWaits = true ∧
    ({ controlled with cmd := { controlled.cmd with queue := List.replicate 32 { cmd := { uid := 4, ctx := 1, tag := 9 }, packet := pk 0x0106,
                                                                                 part := 0, control := true, fetchedT := 0 } } } : State).controlFull = true ∧
    (∀ q ∈ queued.cmd.queue, queued.headOf 1 = some q ∧ queued.fenceOk 1 q.cmd.uid q.packet = true ∧ queued.aged q = true) ∧
    ({ queued with cmd := { queued.cmd with queue := [] } } : State).startCheck (pk 0x0301) (some stBusy) = some stBusy := by decide

/-- The part with an event of this cycle at the level PARTITION in its log and its cause register. -/
def sameCycle : State := { served with
  records := [0x500008],
  safe := { served.safe with log := [⟨0x10, 1, 0, 0, 0⟩], logCount := 1, cause := w32 (2 ^ 31 + 2 ^ 24 + 0x10) } }

theorem met_SameCycle : sameCycle.causeStays 0x11 1 = true ∧ sameCycle.causeStays 0x08 1 = false ∧ sameCycle.partSafe 7 = false ∧
    sameCycle.eventNow 0 = true ∧ sameCycle.eventNow 8 = false ∧ guarded.eventNow 0 = false ∧
    (sameCycle.safe.log = [] ++ [⟨0x10, 1, 0, 0, 0⟩] ∧ ∀ q ∈ sameCycle.safe.log, q.time / 2 = sameCycle.time.cnt / 2 ∧ 0x08 < q.code) ∧
    (∃ q ∈ sameCycle.safe.log, q.code ≤ 0x11) := by decide

theorem met_LoadEvents : (loadingOf none).loadEvents = [] ∧
    ({ loadingOf none with cmd := { (loadingOf none).cmd with loadT := some 4 }, safe := { log := [⟨0x12, 2, 0xFF, 0, 5⟩] } } : State).loadEvents ≠ [] := by
  decide

theorem met_RemoteDown : deadHost.remoteDown 1 = true := by decide
end

section
/-! PROOFS. Bytes and numbers (R11): a little-endian number reads back, and so does memory that is written. -/
namespace Sys2Proof.Machine

/-- A number's little-endian bytes spell it, modulo the range of `k` bytes. -/
theorem leNat_leBytes (n k : Nat) : leNat (leBytes n k) = n % 2 ^ (8 * k) := by
  induction k generalizing n with
  | zero => simp [leBytes, leNat, Nat.mod_one]
  | succ k ih =>
    have hpow : 2 ^ (8 * (k + 1)) = 256 * 2 ^ (8 * k) := by ring
    rw [leBytes, leNat, ih, hpow, Nat.mod_mul]
    simp

/-- A byte outside the run that is written keeps its value. -/
theorem memGet_memWrite_outside (m : Mem) (a x : Nat) (bs : List Byte) (h : x < a ∨ a + bs.length ≤ x) :
    memGet (memWrite m a bs) x = memGet m x := by
  rw [memGet_memWrite, if_neg (by omega)]

/-- A run of bytes that is written reads back. -/
theorem memRead_memWrite (m : Mem) (a : Nat) (bs : List Byte) : memRead (memWrite m a bs) a bs.length = bs := by
  induction bs generalizing m a with
  | nil => rfl
  | cons b bs ih =>
    have head : memGet (memWrite (memSet m a b) (a + 1) bs) a = b := by
      rw [memGet_memWrite_outside _ _ _ _ (by omega), memGet_memSet, if_pos rfl]
    rw [List.length_cons, memRead, memWrite, head, ih]

/-- A number that is written to memory as little-endian bytes reads back. -/
theorem leNat_memRead_memWrite (m : Mem) (a n k : Nat) :
    leNat (memRead (memWrite m a (leBytes n k)) a k) = n % 2 ^ (8 * k) := by
  have read := memRead_memWrite m a (leBytes n k)
  rw [leBytes_length] at read
  rw [read, leNat_leBytes]

/-- Settles O60: numbers by induction on their bytes, memory by induction on the bytes written. -/
theorem bytesReadBack : Obligations.BytesReadBack :=
  ⟨fun n k => ⟨leNat_leBytes n k, leBytes_length n k⟩,
   fun m a bs => ⟨memRead_memWrite m a bs, fun x h => memGet_memWrite_outside m a x bs h, memWrite_wf m a bs⟩,
   leNat_memRead_memWrite⟩

end Sys2Proof.Machine
end

section
/-! PROOFS. Register accesses: what a write leaves of W1C bits, record registers and selectors (R13, R15, R16, R481), of the locked registers
(R33, R292), and what the time unit captures (R250, R251). -/
namespace Sys2Proof.Machine

/-! ## Host writes by address -/

/-- A powered part makes a host write on its blocks and on their copy of the cycle's start. -/
theorem State.hostWrite_on (s : State) (f : Blocks → Blocks → Blocks) (hp : s.powered = true) :
    s.hostWrite f = { s with toBlocks := f s.mark s.toBlocks, mark := f s.mark s.mark } := if_pos hp

/-- An aligned 32-bit write of a powered part writes the register at its address. -/
theorem exec_registerWrite_aligned {s u : State} {t a : Nat} {v : Word} (hp : s.powered = true) (ha : a % 4 = 0)
    (hu : (s.advance t).writeReg a v = u) : exec (.registerWrite t a 4 v) s = .next u := by
  simp [exec, execRegisterWrite, hp, ha, hu]

/-- A write that is not an aligned 32-bit word has no effect. -/
theorem exec_registerWrite_unaligned (s : State) (t a n : Nat) (v : Word) (h : n ≠ 4 ∨ a % 4 ≠ 0) :
    exec (.registerWrite t a n v) s = .next (s.advance t) := by
  rcases h with h | h <;> simp [exec, execRegisterWrite, h]

/-- A reserved address holds no register to write. -/
theorem State.writeReg_reserved (s : State) (a : Nat) (v : Word) (h : 0x2000000 ≤ a) : s.writeReg a v = s := by
  rw [State.writeReg, if_neg (by omega), if_neg (by omega)]

/-- An aligned 32-bit write of a reserved address has no effect. -/
theorem exec_registerWrite_reserved (s : State) (t a : Nat) (v : Word) (hp : s.powered = true) (h : 0x2000000 ≤ a) :
    exec (.registerWrite t a 4 v) s = .next (s.advance t) := by
  by_cases ha : a % 4 = 0
  · exact exec_registerWrite_aligned hp ha (State.writeReg_reserved _ a v h)
  · exact exec_registerWrite_unaligned s t a 4 v (.inr ha)

/-! ## Access codes (R15, R16) -/

/-- A W1C write of all 32 bits clears the bits written 1 that stood at the start of the cycle. -/
theorem w1c_word (was old v : Word) : w1c was old 0xFFFFFFFF v = old &&& ~~~(v &&& was) := by
  rw [w1c, show (0xFFFFFFFF : Word) = BitVec.allOnes 32 from rfl, BitVec.allOnes_and]

/-- In the copy of the cycle's start every bit written 1 is cleared. -/
theorem w1c_word_self (was v : Word) : w1c was was 0xFFFFFFFF v = was &&& ~~~v := by
  rw [w1c_word, BitVec.not_and, BitVec.and_or_distrib_left]
  simp

/-- A record register that has taken no record in the cycle clears VALID and MULTI where they are written 1. -/
theorem w1cRec_stale (old v : Word) : w1cRec false old v = old &&& ~~~(v &&& 0xC0000000) := by
  rw [BitVec.and_comm v]; rfl

/-- A record taken in the cycle outlives a write of VALID, which clears MULTI. -/
theorem w1cRec_fresh (old v : Word) (h : v.getLsbD 31 = true) : w1cRec true old v = old &&& ~~~0x40000000 := by
  rw [w1cRec, h]; rfl

/-- TIME_EVENT is W1C (R286). -/
theorem State.writeReg_timeEvent (s : State) (v : Word) (hp : s.powered = true) :
    s.writeReg 0x200010 v = { s with
      time := { s.time with event := s.time.event &&& ~~~(v &&& s.mark.time.event) },
      mark := { s.mark with time := { s.mark.time with event := s.mark.time.event &&& ~~~v } } } := by
  rw [← w1c_word, ← w1c_word_self]
  simp [State.writeReg, State.writeBlock, State.writeTime, State.hostWrite_on, hp]

/-- SAFE_CAUSE is a record register (R397). -/
theorem State.writeReg_safeCause (s : State) (v : Word) (hp : s.powered = true) :
    s.writeReg 0x500008 v = { s with
      safe := { s.safe with cause := s.w1cRecAt 0x500008 s.safe.cause v },
      mark := { s.mark with safe := { s.mark.safe with cause := s.w1cRecAt 0x500008 s.mark.safe.cause v } } } := by
  simp [State.writeReg, State.writeBlock, State.writeSafe, State.hostWrite_on, hp]

/-- The counter selector stores the low 14 bits (R324). -/
theorem State.writeReg_syncSel (s : State) (v : Word) (hp : s.powered = true) :
    s.writeReg 0xE00008 v = { s with
      sync := { s.sync with sel := v.truncate 14 }, mark := { s.mark with sync := { s.mark.sync with sel := v.truncate 14 } } } := by
  simp [State.writeReg, State.writeBlock, State.writeSync, State.hostWrite_on, hp]

/-- The rail selector stores a rail above 9 as 9 (R447). -/
theorem State.writeReg_railSel (s : State) (v : Word) (hp : s.powered = true) :
    let sel := BitVec.ofNat 4 (min 9 (v.toNat % 16))
    s.writeReg 0x700010 v = { s with
      pwr := { s.pwr with railSel := sel }, mark := { s.mark with pwr := { s.mark.pwr with railSel := sel } } } := by
  simp [State.writeReg, State.writeBlock, State.writePwr, State.hostWrite_on, hp]

/-- The value that a 14-bit selector shows. -/
theorem zeroExtend_truncate_14 (v : Word) : (v.truncate 14).zeroExtend 32 = v &&& 0x3FFF := by
  apply BitVec.eq_of_toNat_eq
  rw [BitVec.toNat_and, show (0x3FFF : Word).toNat = 2 ^ 14 - 1 from rfl, Nat.and_two_pow_sub_one_eq_mod]
  simp
  omega

/-- Each access code on its registers, and the addresses and accesses without effect. -/
theorem registerWrites : Claims.RegisterWrites := by
  intro s t v hp
  refine ⟨⟨_, exec_registerWrite_aligned hp rfl (State.writeReg_timeEvent _ v hp), rfl, rfl, rfl⟩,
    ⟨_, exec_registerWrite_aligned hp rfl (State.writeReg_safeCause _ v hp), fun stale => ?_, fun fresh valid => ?_, rfl⟩,
    ⟨_, exec_registerWrite_aligned hp rfl (State.writeReg_syncSel _ v hp), zeroExtend_truncate_14 v, rfl⟩,
    ⟨_, exec_registerWrite_aligned hp rfl (State.writeReg_railSel _ v hp), Nat.mod_eq_of_lt (by omega), rfl⟩,
    exec_registerWrite_aligned hp rfl rfl,
    fun a h => exec_registerWrite_reserved s t a v hp h,
    fun a n h => exec_registerWrite_unaligned s t a n v h⟩
  · exact (congrArg (w1cRec · s.safe.cause v) stale).trans (w1cRec_stale _ v)
  · exact (congrArg (w1cRec · s.safe.cause v) fresh).trans (w1cRec_fresh _ v valid)

/-! ## Locked registers (R33, R292) -/

/-- What GLOBAL_MODE shows of its three fields. -/
theorem globalMode_word (det : Bool) (id count : BitVec 3) :
    w32 (fld count.toNat 8 3 + fld id.toNat 4 3 + bitAt det 0) =
      count.zeroExtend 32 <<< 8 ||| id.zeroExtend 32 <<< 4 ||| (BitVec.ofBool det).zeroExtend 32 := by
  decide +revert

/-- GLOBAL_MODE shows the bits of its fields as they were written. -/
theorem globalMode_reads_back (v : Word) :
    w32 (fld (BitVec.ofNat 3 (bitsOf v.toNat 8 3)).toNat 8 3 + fld (BitVec.ofNat 3 (bitsOf v.toNat 4 3)).toNat 4 3 + bitAt (v.getLsbD 0) 0) =
      v &&& 0x771 := by
  have field (lo : Nat) : BitVec.ofNat 3 (bitsOf v.toNat lo 3) = v.extractLsb' lo 3 := by
    apply BitVec.eq_of_toNat_eq
    simp [bitsOf, Nat.shiftRight_eq_div_pow]
  have mask : ∀ i, (h : i < 32) → (0x771#32)[i] = decide (i = 0 ∨ 4 ≤ i ∧ i < 7 ∨ 8 ≤ i ∧ i < 11) := by decide
  rw [globalMode_word, field, field]
  ext i hi
  simp [mask]
  grind

/-- Clearing the low six bits of a word, as a division and as a mask. -/
theorem w32_div_64_mul_64 (v : Word) : w32 (v.toNat / 64 * 64) = v &&& 0xFFFFFFC0 := by
  have shifts : w32 (v.toNat / 64 * 64) = v >>> 6 <<< 6 := by
    apply BitVec.eq_of_toNat_eq
    simp [w32, Nat.shiftLeft_eq, Nat.shiftRight_eq_div_pow]
  have mask : ∀ i, (h : i < 32) → (0xFFFFFFC0#32)[i] = decide (6 ≤ i) := by decide
  rw [shifts]
  ext i hi
  simp [mask]
  grind

/-- A word keeps the low 32 bits of a number. -/
theorem w32_mod (n : Nat) : w32 (n % 2 ^ 32) = w32 n := by
  apply BitVec.eq_of_toNat_eq
  simp [w32]

/-- The high word of BOOT_RCB after a write of one of its halves. -/
theorem bootRcb_high (hi lo : Nat) (h : hi < 2 ^ 32) (l : lo < 2 ^ 32) :
    w32 ((BitVec.ofNat 64 (hi * 2 ^ 32 + lo)).toNat / 2 ^ 32) = w32 hi := by
  rw [BitVec.toNat_ofNat, Nat.mod_eq_of_lt (by omega)]
  exact congrArg w32 (by omega)

/-- The low word of BOOT_RCB after a write of one of its halves. -/
theorem bootRcb_low (hi lo : Nat) : w32 (BitVec.ofNat 64 (hi * 2 ^ 32 + lo)).toNat = w32 lo := by
  apply BitVec.eq_of_toNat_eq
  simp only [w32, BitVec.toNat_ofNat]
  omega

/-- GLOBAL_MODE is stored while no image is loaded or loading. -/
theorem exec_globalModeWrite_unlocked (s : State) (v : Word) (hp : s.powered = true) (loaded : s.glob.imageLoaded = false)
    (loading : s.glob.loading = false) : exec (.globalModeWrite v) s = .next { s with glob := { s.glob with
      det := v.getLsbD 0, pkgId := BitVec.ofNat 3 (bitsOf v.toNat 4 3), pkgCount := BitVec.ofNat 3 (bitsOf v.toNat 8 3) } } := by
  simp [exec, execGlobalModeWrite, hp, loaded, loading]

/-- GLOBAL_MODE is locked while an image is loaded or loading. -/
theorem exec_globalModeWrite_locked (s : State) (v : Word) (hp : s.powered = true)
    (locked : s.glob.imageLoaded = true ∨ s.glob.loading = true) :
    exec (.globalModeWrite v) s = .next { s with glob := { s.glob with modeRefused := true } } := by
  simp [exec, execGlobalModeWrite, hp, locked]

/-- A half of BOOT_RCB is stored while context 0 is DETACHED; the low half is a multiple of 64. -/
theorem exec_bootRcbWrite_unlocked (s : State) (v : Word) (hi : Bool) (hp : s.powered = true) (detached : (s.ctx 0).state = .detached) :
    let old := s.cmd.bootRcb.toNat
    exec (.bootRcbWrite hi v) s = .next { s with cmd := { s.cmd with
      bootRcb := BitVec.ofNat 64 (if hi then v.toNat * 2 ^ 32 + old % 2 ^ 32 else old / 2 ^ 32 * 2 ^ 32 + v.toNat / 64 * 64) } } := by
  simp [exec, execBootRcbWrite, hp, detached]

/-- BOOT_RCB is locked while context 0 is attached. -/
theorem exec_bootRcbWrite_locked (s : State) (v : Word) (hi : Bool) (hp : s.powered = true) (attached : (s.ctx 0).state ≠ .detached) :
    exec (.bootRcbWrite hi v) s = .next { s with cmd := { s.cmd with bootRefused := true } } := by
  simp [exec, execBootRcbWrite, hp, attached]

/-- A locked register keeps its fields and reports the write; an unlocked one stores it. -/
theorem lockedRegisters : Claims.LockedRegisters := by
  intro s v hi hp
  refine ⟨fun loaded loading => ⟨_, exec_globalModeWrite_unlocked s v hp loaded loading, globalMode_reads_back v, rfl⟩,
    exec_globalModeWrite_locked s v hp,
    fun detached => ⟨_, exec_bootRcbWrite_unlocked s v hi hp detached, rfl, ?_, ?_⟩,
    exec_bootRcbWrite_locked s v hi hp⟩
  · rintro rfl
    exact ⟨(bootRcb_high _ _ v.isLt (Nat.mod_lt _ (by decide))).trans (by simp [w32]),
      (bootRcb_low _ _).trans (w32_mod _)⟩
  · rintro rfl
    have old : s.cmd.bootRcb.toNat < 2 ^ 64 := s.cmd.bootRcb.isLt
    exact ⟨(bootRcb_low _ _).trans (w32_div_64_mul_64 v), bootRcb_high _ _ (by omega) (by omega)⟩

/-! ## Captures of the time unit (R250, R251) -/

/-- A domain with its capture taken at tick `n`: zeros where it is IDLE, else its phase and, in a TIME domain, its time value. -/
def Domain.captured (x : Domain) (n : Nat) : Domain :=
  if x.state = .idle then { x with snapPhase := 0, snapNs := 0, snapSecLo := 0, snapSecHi := 0 } else
    let v := if x.source = 0 then (x.timeVal n).toNat else 0
    let sec := v / 2 ^ 16 / 10 ^ 9
    { x with snapPhase := x.phase n, snapNs := w32 (v / 2 ^ 16 % 10 ^ 9), snapSecLo := w32 sec,
             snapSecHi := w32 (v % 2 ^ 16 * 2 ^ 16 + sec / 2 ^ 32 % 2 ^ 16) }

/-- A capture replaces the domain by its captured form at the present tick. -/
theorem State.snap_eq (s : State) (d : Nat) : s.snap d = s.setDom d ((s.dom d).captured s.time.cnt) := by
  unfold State.snap Domain.captured
  dsimp only
  split <;> rfl

theorem Domain.captured_idle (x : Domain) (n : Nat) (h : x.state = .idle) :
    (x.captured n).snapPhase = 0 ∧ (x.captured n).snapNs = 0 := by
  simp [Domain.captured, h]

theorem Domain.captured_phase (x : Domain) (n : Nat) (h : x.state ≠ .idle) : (x.captured n).snapPhase = x.phase n := by
  simp [Domain.captured, h]

/-- The nanoseconds of a captured TIME domain, within their second. -/
theorem Domain.captured_ns (x : Domain) (n : Nat) (h : x.state ≠ .idle) (time : x.source = 0) :
    (x.captured n).snapNs.toNat = (x.timeVal n).toNat / 2 ^ 16 % 10 ^ 9 := by
  simp only [Domain.captured, h, time, if_false, if_true, w32, BitVec.toNat_ofNat]
  omega

/-- The captures of the domains of `ds` that a mask selects, one after the other. -/
def State.snapMasked (s : State) (v : Word) (ds : List Nat) : State :=
  ds.foldl (fun s d => if maskBit v d then s.snap d else s) s

/-- TIME_SNAP captures the eight domains that its mask selects (R285). -/
theorem exec_timeSnap (s : State) (t : Nat) (v : Word) (hp : s.powered = true) :
    exec (.timeSnap t v) s = .next ((s.advance t).snapMasked v (List.range 8)) := by
  simp [exec, execTimeSnap, State.snapMasked, hp]

/-- Captures change nothing but the domains. -/
theorem State.snapMasked_frame (s : State) (v : Word) (ds : List Nat) :
    s.snapMasked v ds = { s with time := { s.time with doms := (s.snapMasked v ds).time.doms } } := by
  refine foldl_keeps (fun s u : State => u = { s with time := { s.time with doms := u.time.doms } }) _
    (fun _ => rfl) (fun a b c ab bc => ?_) (fun s d => ?_) ds s
  · rw [bc, ab]
  · split
    · rw [State.snap_eq]; rfl
    · rfl

/-- Each selected domain is captured once, at one tick; the others are left alone. -/
theorem State.dom_snapMasked (s : State) (v : Word) (ds : List Nat) (distinct : ds.Nodup) (d : Nat) :
    (s.snapMasked v ds).dom d = if d ∈ ds ∧ maskBit v d = true then (s.dom d).captured s.time.cnt else s.dom d := by
  induction ds generalizing s with
  | nil => simp [State.snapMasked]
  | cons k ds ih =>
    obtain ⟨fresh, distinct⟩ := List.nodup_cons.1 distinct
    have step : s.snapMasked v (k :: ds) = (if maskBit v k then s.snap k else s).snapMasked v ds := rfl
    rw [step, ih _ distinct]
    by_cases sel : maskBit v k = true
    · by_cases hd : d = k
      · subst hd
        simp [sel, fresh, State.snap_eq]
      · simp [sel, hd, State.snap_eq]
    · by_cases hd : d = k
      · subst hd
        simp [sel]
      · simp [sel, hd]

/-- A read of TIME_CNT_LO captures the high word of the counter. -/
theorem exec_timeCntLoRead (s : State) (t : Nat) (hp : s.powered = true) :
    exec (.timeCntLoRead t) s = .next { s.advance t with
      time := { (s.advance t).time with cntHi := w32 ((s.advance t).time.cnt / 2 ^ 32) } } :=
  congrArg _ (if_pos hp)

/-- What TIME_SNAP at tick `t` leaves of each domain: a capture at the present tick where the mask selects it. -/
theorem State.dom_timeSnap (s : State) (t : Nat) (v : Word) (d : Nat) :
    ((s.advance t).snapMasked v (List.range 8)).dom d =
      if d < 8 ∧ maskBit v d = true then (s.dom d).captured (max s.time.cnt t) else s.dom d := by
  simpa using State.dom_snapMasked (s.advance t) v _ List.nodup_range d

theorem State.dom_timeSnap_selected (s : State) (t : Nat) {v : Word} {d : Nat} (hd : d < 8) (sel : maskBit v d = true) :
    ((s.advance t).snapMasked v (List.range 8)).dom d = (s.dom d).captured (max s.time.cnt t) :=
  (State.dom_timeSnap s t v d).trans (if_pos ⟨hd, sel⟩)

theorem State.dom_timeSnap_unselected (s : State) (t : Nat) {v : Word} {d : Nat} (out : 8 ≤ d ∨ maskBit v d = false) :
    ((s.advance t).snapMasked v (List.range 8)).dom d = s.dom d := by
  refine (State.dom_timeSnap s t v d).trans (if_neg fun ⟨hd, sel⟩ => ?_)
  rcases out with beyond | unselected
  · omega
  · simp [unselected] at sel

/-- The counter's high word is captured by a read of its low one, and the domains that TIME_SNAP selects at one tick. -/
theorem timeCaptures : Claims.TimeCaptures := by
  intro s t v hp
  have frame := State.snapMasked_frame (s.advance t) v (List.range 8)
  have cnt : ((s.advance t).snapMasked v (List.range 8)).time.cnt = max s.time.cnt t := by rw [frame]; rfl
  refine ⟨⟨_, exec_timeCntLoRead s t hp, rfl, rfl, rfl⟩,
    ⟨_, exec_timeSnap s t v hp, cnt, by rw [cnt]; exact frame, fun d hd sel idle => ?_,
      fun d out => State.dom_timeSnap_unselected s t out, fun d hd sel live => ?_, fun d hd sel live time _ => ?_⟩⟩
  · rw [State.dom_timeSnap_selected s t hd sel]
    exact Domain.captured_idle _ _ idle
  · rw [State.dom_timeSnap_selected s t hd sel]
    exact Domain.captured_phase _ _ live
  · rw [State.dom_timeSnap_selected s t hd sel]
    exact Domain.captured_ns _ _ live time

/-- Settles O5, from its three parts. -/
theorem registerAccesses : Obligations.RegisterAccesses := ⟨registerWrites, lockedRegisters, timeCaptures⟩

end Sys2Proof.Machine
end

section
/-! PROOFS. Links and host memory that fail (R25, R27, R453, R454, R457, R459, R462). -/
namespace Sys2Proof.Machine

/-! ## Flits, words and keys -/

/-- The events of a Rolink port that carries traffic. -/
theorem exec_rolinkEvents {s : State} {p : Nat} (t : Nat) (hp : s.powered = true) (ok : s.rolOk p = true) :
    exec (.rolinkFlitCrcFail p) s = .next { s with lnk := { s.lnk with rolRetry := satInc s.lnk.rolRetry } } ∧
    exec (.rolinkRetryFail t p) s = .next { s.advance t with lnk := { s.lnk with rolFault := maskSet s.lnk.rolFault p } } ∧
    exec (.rolinkKeyRenew t p true) s = .next (s.advance t) ∧
    exec (.rolinkKeyRenew t p false) s = .next { s.advance t with lnk := { s.lnk with rolUp := maskClear s.lnk.rolUp p } } := by
  have later : (s.advance t).rolOk p = true := ok
  simp [exec, execRolinkFlitCrcFail, execRolinkRetryFail, execRolinkKeyRenew, hp, ok, later]

/-- A word of LPDDR read again, or corrected, on the channel of its address. -/
theorem exec_lpddrReadEccError {s : State} (t a : Nat) (single : Bool) (hp : s.powered = true) (trained : s.lnk.lpTrained = true) :
    exec (.lpddrReadEccError t (a / 256 % 16) a single) s = .next { s.advance t with lnk := if single then
      { s.lnk with lpCe := satInc s.lnk.lpCe } else { s.lnk with lpRetry := satInc s.lnk.lpRetry } } := by
  cases single <;> simp [exec, execLpddrReadEccError, lpChannel, hp, trained]

/-- The poisoned lines once a line has been poisoned. -/
def poisonLine (l : List Nat) (w : Nat) : List Nat := if l.contains w then l else l ++ [w]

theorem mem_poisonLine (l : List Nat) (w : Nat) : w ∈ poisonLine l w := by
  unfold poisonLine
  split
  · exact List.contains_iff_mem.1 ‹_›
  · simp

/-- A byte of a poisoned line is poisoned. -/
theorem State.lpPoisoned_of_mem {s : State} {a : Nat} (h : a / 64 ∈ s.cmp.lpPoison) : s.lpPoisoned a 1 = true := by
  simpa [State.lpPoisoned, linesOf] using h

/-- A word that cannot be read poisons its line and records its channel. -/
theorem exec_lpddrRetryFail {s : State} (t a : Nat) (hp : s.powered = true) (trained : s.lnk.lpTrained = true) :
    exec (.lpddrRetryFail t (a / 256 % 16) a) s = .next { (s.advance t).recorded 0xF00010 with
      lnk := { s.lnk with lpUe := recWrite s.lnk.lpUe (a / 256 % 16) },
      cmp := { s.cmp with lpPoison := poisonLine s.cmp.lpPoison (a / 64) } } := by
  simp [exec, execLpddrRetryFail, lpChannel, poisonLine, hp, trained]

/-- A keyed IDE stream whose check fails enters Insecure. -/
theorem exec_ideCheckFail {s : State} (t : Nat) {st : IdeStream} (hp : s.powered = true)
    (keyed : tblGet .unkeyed s.lnk.ide (ideKey st) = .secure) :
    exec (.ideCheckFail t st) s =
      .next { s.advance t with lnk := { s.lnk with ide := tblSet .unkeyed s.lnk.ide (ideKey st) .insecure } } := by
  simp [exec, execIdeCheckFail, hp, keyed]

/-- The events of flits, words and keys. -/
theorem linkEvents : Claims.LinkEvents := by
  intro s t p a hp
  refine ⟨exec_rolinkEvents t hp, fun _ => rfl, fun trained => ⟨exec_lpddrReadEccError t a false hp trained,
    exec_lpddrReadEccError t a true hp trained, _, exec_lpddrRetryFail t a hp trained, ?_, rfl, rfl, rfl, rfl⟩,
    fun st keyed => ⟨_, exec_ideCheckFail t hp keyed, by simp, rfl⟩⟩
  exact State.lpPoisoned_of_mem (mem_poisonLine _ _)

/-! ## Failed requests to host memory (R453) -/

/-- Both events of a failed request to host memory do what its target asks. -/
theorem exec_hostFailure {s : State} {t : Nat} {i : HostTarget → Instr} (hi : i = .completionTimeout t ∨ i = .hostCompletionError t)
    (target : HostTarget) : exec (i target) s = .next ((s.advance t).hostFailed target) := by
  rcases hi with rfl | rfl <;> rfl

/-- A buffer of a command that does not run concerns nothing. -/
theorem State.bufferFailed_idle {s : State} {c : Nat} {tag : Word} (idle : ∀ r ∈ s.cmd.running, r.cmd.ctx = c → r.cmd.tag ≠ tag) :
    s.bufferFailed c tag = s := by
  have missing : (s.cmd.running.find? fun r => r.cmd.ctx == c && r.cmd.tag == tag) = none := by
    simpa using idle
  rw [State.bufferFailed, missing]

/-- The failed requests to host memory. -/
theorem hostFailures : Claims.HostFailures := by
  intro s t hp i hi
  have on : ¬ (!(s.advance t).powered) = true := by simp [hp]
  have failed (target) := exec_hostFailure (s := s) hi target
  refine ⟨fun c => (failed (.ringRead c)).trans (congrArg _ (if_neg on)), fun c => (failed (.ringWrite c)).trans (congrArg _ (if_neg on)),
    fun c tag idle => ?_, fun c tag => (failed (.buffer c tag)).trans (congrArg _ (if_neg on))⟩
  exact (failed (.buffer c tag)).trans (congrArg _ ((if_neg on).trans (State.bufferFailed_idle (s := s.advance t) idle)))

/-! ## Links that fail (R25, R27, R223) -/

/-- A bit that is set stays set when another bit of the mask is. -/
theorem maskBit_maskSet_of_maskBit {w : Nat} (m : BitVec w) (i b : Nat) (h : maskBit m b = true) : maskBit (maskSet m i) b = true := by
  simp_all [maskBit, maskSet]

theorem SafeFrame.glob_eq {s u : State} (h : SafeFrame s u) : u.glob = s.glob := by rw [h.eq]

theorem State.raise_glob (s : State) (code part detail : Nat) : (s.raise code part detail).glob = s.glob :=
  (State.raise_frame s code part detail).glob_eq

theorem State.raiseAt_glob (s : State) (code part detail lvl : Nat) : (s.raiseAt code part detail lvl).glob = s.glob :=
  (State.raiseAt_frame s code part detail lvl).glob_eq

/-- Events charged to several partitions leave GLOBAL alone. -/
theorem foldl_raise_glob (s : State) (code detail : Nat) (ps : List Nat) :
    (ps.foldl (fun u p => u.raise code p detail) s).glob = s.glob :=
  foldl_keeps (fun s u : State => u.glob = s.glob) _ (fun _ => rfl) (fun _ _ _ h k => k.trans h)
    (fun s p => State.raise_glob s code p detail) ps s

/-- A missing policy result changes the group and the product under way for it alone. -/
theorem State.missPolicy_frame (s : State) (g : Nat) :
    s.missPolicy g = { s with cte := (s.missPolicy g).cte, cmp := { s.cmp with regions := (s.missPolicy g).cmp.regions } } := by
  unfold State.missPolicy
  dsimp only
  split <;> rfl

theorem State.missPolicy_glob (s : State) (g : Nat) : (s.missPolicy g).glob = s.glob := by
  rw [State.missPolicy_frame]

theorem State.missPolicy_result (s : State) (g : Nat) : ((s.missPolicy g).group g).result = .missing := by
  unfold State.missPolicy
  dsimp only
  split <;> simp

/-- A product under way is that of the C0 region. -/
theorem State.c0Phys_of_policyRun {s : State} {g : Nat} {e : Nat × List ColOut} (h : s.policyRun g = some e) : s.c0Phys = some e.1 := by
  unfold State.policyRun at h
  cases hk : s.c0Phys with
  | none => simp [hk] at h
  | some k =>
    simp only [hk, Option.bind_some] at h
    split at h
    · split at h <;> simp_all
      simp [← h]
    · simp at h

/-- A C0 region without a product computes none for any group. -/
theorem State.policyRun_none {s : State} {g k : Nat} (hk : s.c0Phys = some k) (h : (s.region k).policy = none) : s.policyRun g = none := by
  simp [State.policyRun, hk, h]

/-- A product that the C0 region gives up is not under way. -/
theorem State.policyRun_givenUp {s : State} {g : Nat} {e : Nat × List ColOut} (run : s.policyRun g = some e) :
    (s.setRegion e.1 { s.region e.1 with policy := none }).policyRun g = none := by
  have site : s.c0Phys = some e.1 := State.c0Phys_of_policyRun run
  exact State.policyRun_none (k := e.1) site (by simp)

theorem State.missPolicy_policyRun (s : State) (g : Nat) : (s.missPolicy g).policyRun g = none := by
  unfold State.missPolicy
  dsimp only
  split
  · next e run => exact State.policyRun_givenUp run
  · assumption

/-- The bit of a link in GLOBAL_FAULT (R36). -/
def linkBit : LinkId → Nat
  | .noc die _ => if die = 0 then 2 else 3
  | .bridge die => if die = 0 then 0 else 1
  | .c0lane die _ => if die = 0 then 0 else 1

/-- What the failure of a link does before the link is taken out of service: a lost C0 crossing leaves its group without a result. -/
def State.linkLost (s : State) : LinkId → State
  | .c0lane _ g => if (s.group g).valid && (s.group g).result == .waiting then s.missPolicy g else s
  | _ => s

/-- Whom the failure of a link is charged to. -/
def State.linkCharged (s : State) : LinkId → State
  | .noc die n => if s.linkParts die n = [] then s.raiseAt 0x08 0xFF n 0 else (s.linkParts die n).foldl (fun u p => u.raise 0x08 p n) s
  | .bridge die => s.raise 0x10 0xFF die
  | .c0lane die _ => s.raise 0x10 0xFF die

/-- A link that fails again is taken out of service and charged. -/
theorem exec_nocRetryFail {s : State} (t : Nat) (link : LinkId) (hp : s.powered = true) :
    exec (.nocRetryFail t link) s = .next ((((s.advance t).linkLost link).linkFault (linkBit link)).linkCharged link) := by
  cases link with
  | noc die n =>
    have parts : ((s.advance t).linkFault (if die = 0 then 2 else 3)).linkParts die n = s.linkParts die n := rfl
    cases h : s.linkParts die n <;> simp [exec, execNocRetryFail, hp, State.linkLost, linkBit, State.linkCharged, parts, h]
  | bridge die => simp [exec, execNocRetryFail, hp, State.linkLost, linkBit, State.linkCharged]
  | c0lane die g => simp [exec, execNocRetryFail, hp, State.linkLost, linkBit, State.linkCharged]

theorem State.linkCharged_glob (s : State) (link : LinkId) : (s.linkCharged link).glob = s.glob := by
  cases link with
  | noc die n =>
    simp only [State.linkCharged]
    split
    · exact State.raiseAt_glob _ _ _ _ _
    · exact foldl_raise_glob _ _ _ _
  | bridge die => exact State.raise_glob _ _ _ _
  | c0lane die g => exact State.raise_glob _ _ _ _

theorem State.linkLost_glob (s : State) (link : LinkId) : (s.linkLost link).glob = s.glob := by
  cases link with
  | c0lane die g =>
    simp only [State.linkLost]
    split
    · exact State.missPolicy_glob s g
    · rfl
  | noc die n => rfl
  | bridge die => rfl

/-- A link that is out of service stays so when a link fails. -/
theorem exec_nocRetryFail_linkDown {s u : State} {t : Nat} {link : LinkId} (hp : s.powered = true)
    (h : exec (.nocRetryFail t link) s = .next u) (b : Nat) (down : maskBit s.glob.linkDown b = true) : maskBit u.glob.linkDown b = true := by
  rw [exec_nocRetryFail t link hp] at h
  obtain rfl := Host.Outcome.next.inj h
  have glob : ((s.advance t).linkLost link).glob = s.glob := State.linkLost_glob _ link
  rw [State.linkCharged_glob, State.linkFault, glob]
  exact maskBit_maskSet_of_maskBit _ _ _ down

/-- The failed flits of the networks on chip and the bridge. -/
theorem nocEvents : Claims.NocEvents := by
  intro s t n g link hp
  refine ⟨fun die0 => by simp [exec, execNocFlitCrcFail, hp, die0], fun die1 => by simp [exec, execNocFlitCrcFail, hp, die1],
    fun unheld => ?_, fun held => ?_, exec_nocRetryFail t _ hp, exec_nocRetryFail t _ hp,
    fun valid waiting => ⟨(s.advance t).missPolicy g, ?_, State.missPolicy_result _ g, State.missPolicy_policyRun _ g,
      State.missPolicy_frame _ g⟩, fun u => exec_nocRetryFail_linkDown hp⟩
  · exact (exec_nocRetryFail t _ hp).trans (congrArg _ (if_pos unheld))
  · exact (exec_nocRetryFail t _ hp).trans (congrArg _ (if_neg held))
  · have lost : (s.advance t).linkLost (.c0lane 0 g) = (s.advance t).missPolicy g := if_pos (by simp [valid, waiting])
    rw [exec_nocRetryFail t _ hp, lost]
    rfl

/-- Settles O9, from its three parts. -/
theorem linkFaults : Obligations.LinkFaults := ⟨linkEvents, hostFailures, nocEvents⟩

end Sys2Proof.Machine
end

section
/-! PROOFS. The step builder's work list (R31, R133, R134, R152). -/
namespace Sys2Proof.Machine

/-! ## The order of entries -/

theorem insertBy_perm (rank : Nat → Nat) (i : Nat) (l : List Nat) : (insertBy rank i l).Perm (i :: l) := by
  induction l with
  | nil => rfl
  | cons j rest ih =>
    unfold insertBy
    split
    · rfl
    · exact (ih.cons j).trans (.swap i j rest)

/-- The order in which entries are taken neither drops nor repeats one. -/
theorem State.byHeld_perm (s : State) (is : List Nat) : (s.byHeld is).Perm is := by
  have insert : ∀ is l : List Nat, (is.foldl (fun l i => insertBy (fun k => 15 - (s.seq k).held) i l) l).Perm (is ++ l) := by
    intro is
    induction is with
    | nil => intro l; rfl
    | cons i is ih => exact fun l => (ih _).trans ((((insertBy_perm _ i l).append_left is)).trans List.perm_middle)
  simpa [State.byHeld] using insert is []

/-! ## One entry taken -/

/-- The positions that a list asks for in sequences of a state. -/
def State.positions (s : State) (st : SeqState) (list : List (Nat × Nat)) : Nat :=
  ((list.filter fun e => (s.seq e.1).state == st).map Prod.snd).sum

@[simp] theorem State.positions_append (s : State) (st : SeqState) (list : List (Nat × Nat)) (i n : Nat) :
    s.positions st (list ++ [(i, n)]) = s.positions st list + if (s.seq i).state = st then n else 0 := by
  by_cases h : (s.seq i).state = st <;> simp [State.positions, List.filter_append, h]

/-- An entry put on the list with a number of positions, which are then no longer free. -/
def State.putSeq (s : State) (a : ListAcc) (i n : Nat) : ListAcc :=
  let dec := (s.seq i).state == .decode
  { a with list := a.list ++ [(i, n)], tok := (if dec then a.tok - n else a.tok), chk := (if dec then a.chk else a.chk - n) }

/-- An entry is put on the list with a number of positions that are still free, while the list has room, or it is held over. -/
theorem State.takeSeq_cases (s : State) (big : Template) (a : ListAcc) (i : Nat) :
    (∃ n, s.takeSeq big a i = s.putSeq a i n ∧ 0 < n ∧ s.seqRuns i = true ∧ a.list.length < big.seqMax ∧
      n ≤ if (s.seq i).state == .decode then a.tok else a.chk) ∨
    s.takeSeq big a i = { a with held := a.held ++ [i] } := by
  unfold State.takeSeq
  extract_lets x dec room fits put
  have fitsIff (n) : fits n = true ↔ (0 < n ∧ s.seqRuns i = true) ∧ x.room (x.needs n) = true ∧ a.list.length < big.seqMax := by
    simp [fits, and_assoc]
  split
  · next h =>
    obtain ⟨free, fit⟩ := Bool.and_eq_true_iff.1 h
    obtain ⟨⟨pos, run⟩, -, len⟩ := (fitsIff _).1 fit
    exact .inl ⟨x.want, rfl, pos, run, len, of_decide_eq_true free⟩
  · split
    · next h =>
      obtain ⟨cut, fit⟩ := Bool.and_eq_true_iff.1 h
      obtain ⟨⟨pos, run⟩, -, len⟩ := (fitsIff _).1 fit
      exact .inl ⟨64 * (room / 64), rfl, pos, run, len, Nat.mul_div_le room 64⟩
    · exact .inr rfl

/-- What holds of the list at every stage of its making: it has room within the template, its entries may run, and the positions asked for
and those still free make up the template's. -/
structure ListAcc.Fits (s : State) (mdl : Nat) (big : Template) (a : ListAcc) : Prop where
  seqs : a.list.length ≤ big.seqMax
  runs : ∀ e ∈ a.list, ((s.seq e.1).state = .prompt ∨ (s.seq e.1).state = .decode) ∧ (s.seq e.1).model = mdl ∧ s.seqRuns e.1 = true ∧ 0 < e.2
  toks : s.positions .decode a.list + a.tok = big.tokMax
  chks : s.positions .prompt a.list + a.chk = big.chkMax

/-- Taking a live entry of the model keeps the list within its bounds. -/
theorem State.takeSeq_fits {s : State} {mdl : Nat} {big : Template} {a : ListAcc} {i : Nat} (fits : a.Fits s mdl big)
    (live : (s.seq i).state = .prompt ∨ (s.seq i).state = .decode) (model : (s.seq i).model = mdl) :
    (s.takeSeq big a i).Fits s mdl big := by
  obtain ⟨seqs, runs, toks, chks⟩ := fits
  rcases s.takeSeq_cases big a i with ⟨n, put, pos, run, room, free⟩ | held
  · rw [put, State.putSeq]
    refine ⟨by simpa using room, fun e he => ?_, ?_, ?_⟩
    · rcases List.mem_append.1 he with old | new
      · exact runs e old
      · obtain rfl := List.mem_singleton.1 new
        exact ⟨live, model, run, pos⟩
    all_goals rcases live with st | st <;> simp [st] at free ⊢ <;> omega
  · rw [held]
    exact ⟨seqs, runs, toks, chks⟩

/-- Taking an entry puts at most this entry on the list. -/
theorem State.takeSeq_keys (s : State) (big : Template) (a : ListAcc) (i : Nat) :
    ((s.takeSeq big a i).list.map Prod.fst).Sublist (a.list.map Prod.fst ++ [i]) := by
  rcases s.takeSeq_cases big a i with ⟨n, put, -⟩ | held
  · simp [put, State.putSeq]
  · simp [held]

/-! ## A group of entries, and all of them -/

/-- Taking live entries of the model one after the other keeps the list within its bounds, and puts none but them on it. -/
theorem State.takeSeqs {s : State} {mdl : Nat} {big : Template} (group : List Nat)
    (live : ∀ i ∈ group, ((s.seq i).state = .prompt ∨ (s.seq i).state = .decode) ∧ (s.seq i).model = mdl) {a : ListAcc}
    (fits : a.Fits s mdl big) :
    (group.foldl (s.takeSeq big) a).Fits s mdl big ∧
      ((group.foldl (s.takeSeq big) a).list.map Prod.fst).Sublist (a.list.map Prod.fst ++ group) := by
  induction group generalizing a with
  | nil => simpa using fits
  | cons i group ih =>
    obtain ⟨st, model⟩ := live i (by simp)
    obtain ⟨fits', keys⟩ := ih (fun j hj => live j (by simp [hj])) (s.takeSeq_fits fits st model)
    exact ⟨fits', keys.trans (by simpa using (s.takeSeq_keys big a i).append_right group)⟩

/-- The live entries of a partition. -/
def State.liveSeqs (s : State) (part : Nat) : List Nat :=
  (s.seqsOf part).filter fun i => (s.seq i).state == .prompt || (s.seq i).state == .decode

/-- The live entries of a model, class and state, in the order in which the builder tries them. -/
def State.seqGroup (s : State) (part mdl : Nat) (g : Nat × SeqState) : List Nat :=
  s.byHeld ((s.liveSeqs part).filter fun i => (s.seq i).model == mdl && (s.seq i).cls == g.1 && (s.seq i).state == g.2)

theorem State.mem_seqGroup (s : State) (part mdl : Nat) (g : Nat × SeqState) (i : Nat) : i ∈ s.seqGroup part mdl g ↔
    i ∈ s.liveSeqs part ∧ (s.seq i).model = mdl ∧ (s.seq i).cls = g.1 ∧ (s.seq i).state = g.2 := by
  rw [State.seqGroup, (s.byHeld_perm _).mem_iff]
  simp [and_assoc]

/-- The groups that the builder tries, in their order. -/
def seqGroups : List (Nat × SeqState) := [(2, .decode), (2, .prompt), (3, .decode), (3, .prompt)]

/-- A group taken, or held over as a whole. -/
def State.takeGroup (s : State) (part mdl : Nat) (big : Template) (a : ListAcc) (g : Nat × SeqState) : ListAcc :=
  if g.1 = 3 ∧ (s.builder part).credit3 ≤ 0 ∧ ((s.liveSeqs part).any fun i => (s.seq i).cls == 2 && s.seqRuns i) then
    { a with held := a.held ++ s.seqGroup part mdl g }
  else (s.seqGroup part mdl g).foldl (s.takeSeq big) a

theorem State.workList_list (s : State) (part mdl : Nat) (big : Template) :
    (s.workList part mdl big).list = (seqGroups.foldl (s.takeGroup part mdl big) { tok := big.tokMax, chk := big.chkMax }).list := rfl

theorem State.takeGroup_fits {s : State} {part mdl : Nat} {big : Template} {a : ListAcc} (g : Nat × SeqState) (fits : a.Fits s mdl big) :
    (s.takeGroup part mdl big a g).Fits s mdl big ∧
      ((s.takeGroup part mdl big a g).list.map Prod.fst).Sublist (a.list.map Prod.fst ++ s.seqGroup part mdl g) := by
  unfold State.takeGroup
  split
  · exact ⟨⟨fits.seqs, fits.runs, fits.toks, fits.chks⟩, List.sublist_append_left _ _⟩
  · refine State.takeSeqs _ (fun i hi => ?_) fits
    obtain ⟨live, model, -, -⟩ := (s.mem_seqGroup part mdl g i).1 hi
    exact ⟨by simpa using (List.mem_filter.1 live).2, model⟩

theorem State.takeGroups_fits {s : State} {part mdl : Nat} {big : Template} (gs : List (Nat × SeqState)) {a : ListAcc}
    (fits : a.Fits s mdl big) : (gs.foldl (s.takeGroup part mdl big) a).Fits s mdl big ∧
      ((gs.foldl (s.takeGroup part mdl big) a).list.map Prod.fst).Sublist (a.list.map Prod.fst ++ gs.flatMap (s.seqGroup part mdl)) := by
  induction gs generalizing a with
  | nil => simpa using fits
  | cons g gs ih =>
    obtain ⟨fits', keys⟩ := State.takeGroup_fits (part := part) g fits
    obtain ⟨fits'', keys'⟩ := ih fits'
    exact ⟨fits'', keys'.trans (by simpa using keys.append_right _)⟩

/-- No entry stands in two groups, and none twice in one. -/
theorem State.seqGroups_nodup (s : State) (part mdl : Nat) (distinct : (s.srv.ents.map Prod.fst).Nodup) :
    (seqGroups.flatMap (s.seqGroup part mdl)).Nodup := by
  have live : (s.liveSeqs part).Nodup := (distinct.sublist (List.filter_sublist.map _)).filter _
  refine List.nodup_flatMap.2 ⟨fun g _ => (s.byHeld_perm _).nodup_iff.2 (live.filter _), ?_⟩
  have distinctGroups : seqGroups.Pairwise (· ≠ ·) := by decide
  refine distinctGroups.imp fun {g g'} ne i hi hi' => ne ?_
  obtain ⟨-, -, cls, st⟩ := (s.mem_seqGroup part mdl g i).1 hi
  obtain ⟨-, -, cls', st'⟩ := (s.mem_seqGroup part mdl g' i).1 hi'
  exact Prod.ext (cls.symm.trans cls') (st.symm.trans st')

/-- Settles O22, by the invariant that every entry taken keeps. -/
theorem workListBounds : Obligations.WorkListBounds := by
  intro s part mdl big distinct
  have start : ListAcc.Fits s mdl big { tok := big.tokMax, chk := big.chkMax } :=
    ⟨by simp, by simp, by simp [State.positions], by simp [State.positions]⟩
  obtain ⟨⟨seqs, runs, toks, chks⟩, keys⟩ := State.takeGroups_fits (part := part) seqGroups start
  rw [← s.workList_list] at seqs runs toks chks keys
  exact ⟨(s.seqGroups_nodup part mdl distinct).sublist (by simpa using keys), seqs, runs, by unfold State.positions at toks; omega,
    by unfold State.positions at chks; omega⟩

end Sys2Proof.Machine
end

section
/-! PROOFS. A command that starts runs its effect (R296, R298), and what its start leaves. -/
namespace Sys2Proof.Machine

/-! ## The start of a command -/

/-- The checks that precede a command's own read nothing of the command processor. -/
theorem State.startCheck_cmd (s : State) (m : Cmd) (p : Packet) (own : Option Status) :
    ({ s with cmd := m } : State).startCheck p own = s.startCheck p own := rfl

theorem State.headerCheck_cmd (s : State) (m : Cmd) (p : Packet) : ({ s with cmd := m } : State).headerCheck p = s.headerCheck p := rfl

/-- With no command of its context queued, a command is fetched as it starts. -/
theorem State.begin_fetched {s : State} {c : Nat} (fresh : s.headOf c = none) (p : Packet) (cls : Nat) :
    s.begin_ c p cls = s.fetchOne c p cls := by
  simp [State.begin_, fresh]

/-- The queued command at the front of its context's order leaves the queue as it starts. -/
theorem State.begin_queued {s : State} {c : Nat} {q : Queued} (head : s.headOf c = some q) (p : Packet) (cls : Nat) :
    s.begin_ c p cls = ({ s with cmd := { s.cmd with queue := s.cmd.queue.erase q } }, { q.cmd with cls := cls }) := by
  simp [State.begin_, head]

/-- What a start leaves of the state, in an equation to rewrite with. -/
theorem State.begin_eq (s : State) (c : Nat) (p : Packet) (cls : Nat) : (s.begin_ c p cls).1 = { s with cmd := (s.begin_ c p cls).1.cmd } := by
  obtain ⟨m, h⟩ := State.begin_frame s c p cls
  rw [h]

/-- A fetch leaves the partition of every context and the queue as they are. -/
theorem State.fetchOne_part (s : State) (c : Nat) (p : Packet) (cls k : Nat) : ((s.fetchOne c p cls).1.ctx k).part = (s.ctx k).part := by
  by_cases h : k = c <;> simp [State.fetchOne, State.ctx, State.setCtx, h]

theorem State.fetchOne_queueFull (s : State) (c : Nat) (p : Packet) (cls k : Nat) :
    (s.fetchOne c p cls).1.queueFull c k p = s.queueFull c k p := by
  unfold State.queueFull
  rw [State.fetchOne_part]
  rfl

/-- A check that has not been failed at the start, made again on a state with another command processor. -/
theorem State.startCheck_own {s : State} {p : Packet} (passed : s.startCheck p none = none) (m : Cmd) (own : Option Status) :
    ({ s with cmd := m } : State).startCheck p own = own := by
  rw [State.startCheck_cmd]
  unfold State.startCheck at passed ⊢
  split at passed
  · simp at passed
  · split at passed
    · simp at passed
    · split at passed
      · simp at passed
      · simp [*]

/-- A command that starts and passes its own checks runs its effect, on the state in which it has left its queue or has been fetched. -/
theorem State.command_starts {s : State} {c : Nat} {p : Packet} {op : Nat} (starts : s.Starts c p op) (cls : Nat)
    (run : State → CmdRef → State) : s.command c p op cls none run = run (s.begin_ c p cls).1 (s.begin_ c p cls).2 := by
  obtain ⟨hp, hop, attached, passed, order, buffer, turn⟩ := starts
  have go : (!s.powered || p.opcode.toNat != op || (s.ctx c).state != .attached || (!controlFamily op && s.controlWaits)) = false := by
    rcases order with h | h <;> simp [hp, hop, attached, h]
  rw [State.command, if_neg (by simp [go])]
  rcases turn with ⟨q, head, rfl, fence, aged⟩ | ⟨fresh, fetch, fence, header, live, full, room⟩
  · simp only [head, State.begin_queued head, fence, aged, State.bufferCheck, buffer, State.startCheck_own passed]
    simp
  · have passed' := State.startCheck_own passed (s.fetchOne c p cls).1.cmd
    have header' := (State.headerCheck_cmd s (s.fetchOne c p cls).1.cmd p).trans header
    have eq : ({ s with cmd := (s.fetchOne c p cls).1.cmd } : State) = (s.fetchOne c p cls).1 := rfl
    rw [eq] at passed' header'
    simp only [fresh, State.begin_fetched fresh, fetch, fence, full, live, header', passed', State.fetchOne_queueFull, room]
    simp

end Sys2Proof.Machine
end

section
/-! PROOFS. Image loads: when one is accepted or held (R32, R33, R307), and what its end leaves (R22, R250, R376, R380, R398, R408). -/
namespace Sys2Proof.Machine

/-! ## Acceptance (R32) -/

/-- An IMG_LOAD of a context as the control queue holds it, with what its read brought. -/
def State.queuedLoad (s : State) (c : Nat) (p : Packet) (r : CmdRef) (img : Option Image) : Queued :=
  { cmd := r, packet := p, part := (s.ctx c).part, control := true, fetchedT := s.time.cnt, img := some img }

/-- An IMG_LOAD that is accepted as it starts begins its load. -/
theorem exec_imgLoad_accepted {s : State} {c : Nat} {p : Packet} (img : Option Image) (starts : s.Starts c p 0x0201)
    (passed : chkImgLoad s c = none) (may : s.mayLoad = true) :
    let b := s.begin_ c p (s.ctx c).cls
    exec (.imgLoad c p img) s = .next (b.1.acceptLoad (b.1.queuedLoad c p b.2 img)) := by
  simp only [exec, execImgLoad, may, passed, State.command_starts starts]
  rfl

/-- An IMG_LOAD that is fetched before both dies are up is held in the control queue. -/
theorem exec_imgLoad_held {s : State} {c : Nat} {p : Packet} (img : Option Image) (starts : s.Starts c p 0x0201)
    (passed : chkImgLoad s c = none) (may : s.mayLoad = false) (fresh : s.headOf c = none) :
    let f := s.fetchOne c p (s.ctx c).cls
    exec (.imgLoad c p img) s = .next { f.1 with cmd := { f.1.cmd with queue := s.cmd.queue ++ [s.queuedLoad c p f.2 img] } } := by
  obtain ⟨hp, hop, attached, pre, -, -, ⟨q, head, -⟩ | ⟨-, fetch, -, header, live, full, -⟩⟩ := starts
  · simp [fresh] at head
  · have full : s.controlFull = false := full
    have header' : (s.fetchOne c p (s.ctx c).cls).1.headerCheck p = none := header
    have pre' : (s.fetchOne c p (s.ctx c).cls).1.startCheck p none = none := pre
    simp only [exec, execImgLoad, may, passed, State.holdLoad, hp, hop, attached, fresh, fetch, full, live, header', pre']
    rfl

/-- What IMG_LOAD_ACCEPT waits for. -/
theorem exec_imgLoadAccept_waits {s : State} (t : Nat) (may : s.mayLoad = false) : exec (.imgLoadAccept t) s = .next (s.advance t) := by
  have may' : (s.advance t).mayLoad = false := may
  simp only [exec, execImgLoadAccept]
  split
  · rfl
  · rw [if_pos (by simp [may'])]

/-- The held IMG_LOAD is accepted in the cycle in which both dies are up. -/
theorem exec_imgLoadAccept_accepts {s : State} (t : Nat) {q : Queued} {i : Option Image} (hp : s.powered = true) (head : s.headOf 0 = some q)
    (read : q.img = some i) (may : s.mayLoad = true) (attached : (s.ctx 0).state = .attached)
    (fence : s.fenceOk 0 q.cmd.uid q.packet = true) (passed : (s.advance t).startCheck q.packet (chkImgLoad s 0) = none) :
    exec (.imgLoadAccept t) s =
      .next (State.acceptLoad { s.advance t with cmd := { s.cmd with queue := s.cmd.queue.erase q } } q) := by
  have head' : (s.advance t).headOf 0 = some q := head
  have may' : (s.advance t).mayLoad = true := may
  have fence' : (s.advance t).fenceOk 0 q.cmd.uid q.packet = true := fence
  have passed' : ({ s.advance t with cmd := { s.cmd with queue := s.cmd.queue.erase q } } : State).startCheck q.packet
      (chkImgLoad { s.advance t with cmd := { s.cmd with queue := s.cmd.queue.erase q } } 0) = none := passed
  simp only [exec, execImgLoadAccept, head']
  rw [if_neg (by simp [hp, may', read, fence', attached])]
  simp only [State.advance_cmd, passed']

/-- Loads are accepted or held. -/
theorem imageLoadStarts : Claims.ImageLoads := by
  intro s t c p img
  refine ⟨fun starts passed may => ?_, fun starts passed may fresh => ?_, fun q i hp head read may attached fence passed =>
    exec_imgLoadAccept_accepts t hp head read may attached fence passed, exec_imgLoadAccept_waits t⟩
  · have frame := State.begin_eq s c p (s.ctx c).cls
    refine ⟨_, _, exec_imgLoad_accepted img starts passed may, rfl, rfl, rfl, ?_, ?_, ?_⟩ <;> rw [State.acceptLoad, frame]
  · exact ⟨_, _, exec_imgLoad_held img starts passed may fresh, rfl, rfl, rfl, rfl, rfl⟩

/-! ## The end of a load -/

/-- The running load ends, at the earliest with the zero fill of LPDDR. -/
theorem exec_imgLoadComplete {s : State} (t : Nat) {q : Queued} (hp : s.powered = true) (running : s.cmd.loadCmd = some q)
    (filled : s.pwr.lpddrInit = false) : exec (.imgLoadComplete t) s = .next ((s.advance t).finishLoad q) := by
  simp [exec, execImgLoadComplete, hp, running, filled]

/-- The tick of the load's acceptance forgotten. -/
def State.loadOver (s : State) : State := { s with cmd := { s.cmd with loadT := none } }

/-- A reply does not read the tick of the load's acceptance. -/
theorem State.complete_loadOver (s : State) (r : CmdRef) (st : Status) (res : List Word) :
    (s.complete r st res).loadOver = s.loadOver.complete r st res := by
  unfold State.complete State.pushReply
  have ctx : ∀ c, s.loadOver.ctx c = s.ctx c := fun _ => rfl
  simp only [ctx]
  split
  · split
    · rfl
    · split <;> rfl
  · rfl

/-- What remains of a load once LOADING is cleared. -/
def State.unloading (s : State) : State := { s with glob := { s.glob with loading := false }, cmd := { s.cmd with loadCmd := none } }

/-- A load whose image could not be read. -/
theorem State.finishLoad_unread {s : State} {q : Queued} (h : q.img = some none) :
    s.finishLoad q = s.unloading.loadOver.complete q.cmd stEcc [] := by
  rw [← State.complete_loadOver]
  simp only [State.finishLoad, h]
  rfl

/-- A load whose image is refused without a counted signature failure. -/
theorem State.finishLoad_refused {s : State} {q : Queued} {i : Image} {st : Status} (h : q.img = some (some i))
    (refused : s.unloading.loadCheck i = some st) (unsigned : st ≠ stSigFail) :
    s.finishLoad q = s.unloading.loadOver.complete q.cmd st [] := by
  rw [← State.complete_loadOver]
  unfold State.unloading at refused
  simp only [State.finishLoad, h, refused, if_neg unsigned]
  rfl

/-- A load whose image does not verify. -/
theorem State.finishLoad_sigFail {s : State} {q : Queued} {i : Image} (h : q.img = some (some i))
    (refused : s.unloading.loadCheck i = some stSigFail) : s.finishLoad q = s.unloading.loadOver.sigFail q.cmd := by
  unfold State.unloading at refused
  simp only [State.finishLoad, h, refused, if_pos]
  exact State.complete_loadOver _ _ _ _

/-- A load whose image passes. -/
theorem State.finishLoad_passed {s : State} {q : Queued} {i : Image} (h : q.img = some (some i)) (passed : s.unloading.loadCheck i = none) :
    s.finishLoad q = (s.unloading.installImage i).loadOver.complete q.cmd stOk [w32 i.regions, w32 i.parts.length] := by
  unfold State.unloading at passed
  rw [← State.complete_loadOver]
  simp only [State.finishLoad, h, passed]
  rfl

/-- An image for another number of packages is refused with NO_FIT, whatever else may be wrong with it beside its signature (R33). -/
theorem State.loadCheck_packages {s : State} {i : Image} (verified : s.verifyStatus i.env [0x10, 0x11] = none)
    (other : i.packages ≠ s.systemPackages) : s.loadCheck i = some stNoFit := by
  simp [State.loadCheck, firstSome, verified, State.chkPart, firstFail, other]

/-! ## What a load sets -/

/-- The two states differ in the compute regions and memories and in the streams at most. -/
structure StreamFrame (s u : State) : Prop where
  eq : u = { s with cmp := u.cmp, strm := u.strm }

theorem StreamFrame.refl (s : State) : StreamFrame s s := ⟨rfl⟩
theorem StreamFrame.trans (s t u : State) (h : StreamFrame s t) (k : StreamFrame t u) : StreamFrame s u := by
  constructor
  rw [k.eq, h.eq]

theorem StreamFrame.foldl {β : Type} (f : State → β → State) (hf : ∀ s x, StreamFrame s (f s x)) (l : List β) (s : State) :
    StreamFrame s (l.foldl f s) :=
  foldl_keeps StreamFrame f StreamFrame.refl StreamFrame.trans hf l s

theorem State.spWrite_stream (s : State) (a : Nat) (bs : List Byte) : StreamFrame s (s.spWrite a bs) := by
  obtain ⟨m, h⟩ := State.spWrite_frame s a bs
  rw [h]
  exact ⟨rfl⟩

theorem State.writeSlot_stream (s : State) (m : StrmModel) (slot : Nat) (st : StrmState) : StreamFrame s (s.writeSlot m slot st) :=
  StreamFrame.foldl _ (fun s _ => StreamFrame.trans _ _ _ (State.spWrite_stream s _ _) (State.spWrite_stream _ _ _)) _ s

/-- An IMAGE stream that opens, and the streams shown. -/
theorem State.loadStream_stream (s : State) (x : ImgStrm) : StreamFrame s (s.loadStream x) := by
  unfold State.loadStream
  split
  · exact StreamFrame.refl s
  · exact StreamFrame.trans _ _ _ ⟨rfl⟩ (State.writeSlot_stream _ _ _ _)

theorem State.showStream_stream (s : State) (i : Nat) : StreamFrame s (s.showStream i) := ⟨rfl⟩

theorem State.loadStreams_stream (s : State) (i : Image) : StreamFrame s (s.loadStreams i) :=
  StreamFrame.trans _ _ _ (StreamFrame.trans _ _ _ ⟨rfl⟩ (StreamFrame.foldl _ State.loadStream_stream _ _))
    (StreamFrame.foldl _ State.showStream_stream _ _)

theorem State.loadTiles_stream (s : State) (i : Image) (ls : List Nat) : StreamFrame s (s.loadTiles i ls) := by
  refine StreamFrame.foldl _ (fun s p => ?_) _ s
  split
  · split
    · exact ⟨rfl⟩
    · exact StreamFrame.refl s
  · exact StreamFrame.refl s

theorem State.loadCompute_stream (s : State) (i : Image) : StreamFrame s (s.loadCompute i) := by
  unfold State.loadCompute
  extract_lets u code v w
  have hu : StreamFrame s u := by
    unfold u
    split
    · exact ⟨rfl⟩
    · exact StreamFrame.refl s
  have hv : StreamFrame u v := by
    unfold v
    split
    · exact ⟨rfl⟩
    · exact StreamFrame.refl u
  have hw : StreamFrame v w := StreamFrame.foldl _ (fun s (d : Nat × List Byte) => State.spWrite_stream s d.1 d.2) _ v
  have lp := StreamFrame.foldl (fun (s : State) (d : Nat × List Byte) => s.lpWrite d.1 d.2) (fun s d => ⟨rfl⟩) i.lpData w
  exact StreamFrame.trans _ _ _ (StreamFrame.trans _ _ _ (StreamFrame.trans _ _ _ (StreamFrame.trans _ _ _ hu hv) hw) lp)
    (State.loadTiles_stream _ i _)

/-- The state in which the service states and the safety supervisor of an image are set. -/
def State.installBlocks (s : State) (i : Image) : State :=
  ((((((((s.loadGlobal i).quietCompute).loadTime i).loadSync i).loadCompute i).loadStreams i).loadControl i).loadInputs i).loadService i

theorem State.installImage_eq (s : State) (i : Image) :
    s.installImage i = ((s.installBlocks i).loadSafe i).measure 4 i.env.headerDigest := rfl

/-- What the supervisor and the measurement that follow find. -/
theorem State.installBlocks_blocks (s : State) (i : Image) :
    let v := s.installBlocks i
    v.safe = s.safe ∧ v.cmd = s.cmd ∧ v.sec = s.sec ∧ v.glob = (s.loadGlobal i).glob ∧ v.image = some (imgPlaced i) ∧
      v.lnk = { s.lnk with rolFault := 0 } ∧ v.pwr.cap = s.pwr.capNext.getD s.pwr.cap ∧ v.srv.ents = [] ∧ v.sync.waits = [] := by
  have compute := (State.loadCompute_stream ((((s.loadGlobal i).quietCompute).loadTime i).loadSync i) i).eq
  have streams := (State.loadStreams_stream (((((s.loadGlobal i).quietCompute).loadTime i).loadSync i).loadCompute i) i).eq
  rw [State.installBlocks, streams, compute]
  exact ⟨rfl, rfl, rfl, rfl, rfl, rfl, rfl, rfl, rfl⟩

/-- The axis groups of a partition that fault change the control engine alone. -/
theorem State.faultPartGroups_cte (s : State) (p : Nat) : ∃ c, s.faultPartGroups p = { s with cte := c } := by
  refine foldl_keeps (fun a b : State => ∃ c, b = { a with cte := c }) _ (fun a => ⟨a.cte, rfl⟩) ?_ (fun a g => ?_) _ s
  · rintro a b c ⟨x, rfl⟩ ⟨y, rfl⟩
    exact ⟨y, rfl⟩
  · split
    · obtain ⟨c, h⟩ := State.faultGroupOnly_cte a g 7
      simp only [h]
      split
      · exact ⟨_, rfl⟩
      · exact ⟨_, rfl⟩
    · exact ⟨a.cte, rfl⟩

theorem State.faultPartsGroups_cte (s : State) (ps : List Nat) : ∃ c, ps.foldl State.faultPartGroups s = { s with cte := c } := by
  refine foldl_keeps (fun a b : State => ∃ c, b = { a with cte := c }) _ (fun a => ⟨a.cte, rfl⟩) ?_ State.faultPartGroups_cte _ s
  rintro a b c ⟨x, rfl⟩ ⟨y, rfl⟩
  exact ⟨y, rfl⟩

/-- The supervisor after a load, but for the pins: the package is held where a Reset event latched it or an event arose during the load. -/
theorem State.loadSafe_eq (s : State) (i : Image) : ∃ (x : Safe) (c : Cte), s.loadSafe i = ({ s with safe := x, cte := c } : State).drivePins ∧
    x.armed = true ∧ x.parts = 0 ∧ x.package = (s.safe.latched || decide (s.loadEvents ≠ [])) := by
  unfold State.loadSafe
  extract_lets held x u v
  have cte : ∃ c, v = { u with cte := c } := by
    unfold v
    split
    · exact State.faultPartsGroups_cte u _
    · exact ⟨u.cte, rfl⟩
  obtain ⟨c, hv⟩ := cte
  exact ⟨u.safe, c, congrArg State.drivePins hv, rfl, rfl, rfl⟩

/-- The SVN that counts for an image's index is the image's once it is loaded (R408). -/
theorem State.runningSvn_loaded {s : State} {i : Image} (loaded : s.image = some i) :
    s.runningSvn i.env.svnIndex = some i.env.svn.toNat := by
  simp [State.runningSvn, loaded, List.filter_append]

theorem imgPlaced_env (i : Image) : (imgPlaced i).env = i.env := by
  unfold imgPlaced
  split <;> rfl

/-- The state that a load leaves but for its reply. -/
def State.loaded (s : State) (i : Image) : State := (s.unloading.installImage i).loadOver

/-- Behind the blocks that the image describes, a load sets the supervisor, faults axis groups, and is measured. -/
theorem State.loaded_eq (s : State) (i : Image) : ∃ (x : Safe) (c : Cte) (y : Sec) (n : Nat),
    let v := s.unloading.installBlocks i
    s.loaded i = { v with safe := x, cte := c, sec := y, free := n, cmd := { v.cmd with loadT := none } } ∧
      y.mram = v.sec.mram ∧ y.running = v.sec.running ∧ x.armed = true ∧ x.parts = 0 ∧
      x.package = (v.safe.latched || decide (v.loadEvents ≠ [])) ∧ x.outA = (s.loaded i).pinLevel ∧ x.outB = (s.loaded i).pinLevel := by
  obtain ⟨x, c, safe, armed, parts, package⟩ := (s.unloading.installBlocks i).loadSafe_eq i
  rw [State.loaded, State.installImage_eq, safe]
  generalize s.unloading.installBlocks i = v at package
  exact ⟨_, _, _, _, rfl, rfl, rfl, armed, parts, package, rfl, rfl⟩

/-- What a load that passes leaves in the blocks that the image does not describe. -/
theorem State.loaded_blocks (s : State) (i : Image) :
    let u := s.loaded i
    u.image = some (imgPlaced i) ∧ u.glob = (s.unloading.loadGlobal i).glob ∧ u.cmd.loadT = none ∧ u.pwr.cap = s.pwr.capNext.getD s.pwr.cap ∧
      u.srv.ents = [] ∧ u.sync.waits = [] ∧ u.lnk.rolFault = 0 ∧ u.sec.mram = s.sec.mram ∧ u.sec.running = s.sec.running := by
  obtain ⟨-, -, sec, glob, image, lnk, cap, ents, waits⟩ := s.unloading.installBlocks_blocks i
  obtain ⟨x, c, y, n, eq, mram, running, -⟩ := s.loaded_eq i
  rw [sec] at mram running
  rw [eq]
  exact ⟨image, glob, rfl, cap, ents, waits, congrArg Lnk.rolFault lnk, mram, running⟩

/-- What a load that passes leaves in the supervisor. -/
theorem State.loaded_safe (s : State) (i : Image) :
    let u := s.loaded i
    u.safe.armed = true ∧ u.safe.parts = 0 ∧ u.safe.package = (s.safe.latched || decide (s.loadEvents ≠ [])) ∧
      u.safe.outA = u.pinLevel ∧ u.safe.outB = u.pinLevel := by
  obtain ⟨safe, cmd, -⟩ := s.unloading.installBlocks_blocks i
  obtain ⟨x, c, y, n, eq, -, -, armed, parts, package, outA, outB⟩ := s.loaded_eq i
  rw [State.loadEvents, safe, cmd] at package
  have supervisor : (s.loaded i).safe = x := by rw [eq]
  simp only [supervisor]
  exact ⟨armed, parts, package, outA, outB⟩

/-- What the end of a load leaves. -/
theorem imageInstalls : Claims.ImageInstalls := by
  intro s t q hp running filled
  have ends := exec_imgLoadComplete t hp running filled
  refine ⟨fun i st read refused unsigned => ?_, fun i read refused => ?_, fun i read verified other => ?_, fun i read passed => ?_, fun unread => ?_⟩
  · exact ends.trans (congrArg _ (State.finishLoad_refused read refused unsigned))
  · exact ends.trans (congrArg _ (State.finishLoad_sigFail read refused))
  · exact ends.trans (congrArg _ (State.finishLoad_refused read (State.loadCheck_packages verified other) (by decide)))
  · obtain ⟨image, glob, loadT, cap, ents, waits, fault, mram, run⟩ := (s.advance t).loaded_blocks i
    obtain ⟨armed, parts, package, outA, outB⟩ := (s.advance t).loaded_safe i
    refine ⟨(s.advance t).loaded i, ends.trans (congrArg _ (State.finishLoad_passed read passed)), image, ?_, ?_, ?_, ?_, armed, parts,
      fun quiet => ?_, fun arose => ?_, loadT, outA, outB, cap, ents, waits, fault, mram, run, ?_⟩
    · rw [glob]; rfl
    · rw [glob]; rfl
    · rw [glob]; rfl
    · rw [glob]; rfl
    · have quiet : (s.advance t).loadEvents = [] := quiet
      simpa [quiet] using package
    · have arose : (s.advance t).loadEvents ≠ [] := arose
      simpa [arose] using package
    · rw [← imgPlaced_env]
      exact State.runningSvn_loaded image
  · exact ends.trans (congrArg _ (State.finishLoad_unread unread))

/-- Settles O43, from its two parts. -/
theorem imageLoads : Obligations.ImageLoads := ⟨imageLoadStarts, imageInstalls⟩

end Sys2Proof.Machine
end

section
/-! PROOFS. Repair of regions (R21, R22, R371, R439). -/
namespace Sys2Proof.Machine

/-! ## The bindings of logical regions -/

/-- Erasing a key leaves what the other keys are bound to. -/
theorem find?_tblErase_ne {α : Type} (t : Tbl α) {n m : Nat} (ne : m ≠ n) :
    (tblErase t n).find? (fun e => e.1 == m) = t.find? fun e => e.1 == m := by
  induction t with
  | nil => rfl
  | cons e t ih =>
    obtain ⟨k, v⟩ := e
    by_cases hk : k = n
    · have other : ¬ n = m := fun h => ne h.symm
      simp [tblErase, hk, ih, other]
    · simp [tblErase, hk, List.find?_cons, ih]

/-- A key that is not bound is found where it is bound. -/
theorem find?_tblInsert {α : Type} (t : Tbl α) (n m : Nat) (v : α) (fresh : ∀ e ∈ t, e.1 ≠ n) :
    (tblInsert t n v).find? (fun e => e.1 == m) = if m = n then some (n, v) else t.find? fun e => e.1 == m := by
  induction t with
  | nil =>
    by_cases h : m = n
    · simp [tblInsert, h]
    · simp [tblInsert, h, Ne.symm h]
  | cons e t ih =>
    obtain ⟨k, w⟩ := e
    have hk : k ≠ n := fresh (k, w) (by simp)
    have ih := ih fun e he => fresh e (by simp [he])
    by_cases hm : m = n
    · subst hm
      by_cases hlt : m < k <;> simp [tblInsert, hlt, hk, ih]
    · have hm' : ¬ n = m := fun h => hm h.symm
      by_cases hlt : n < k <;> simp [tblInsert, hlt, List.find?_cons, hm, hm', ih]

/-- The number of a region is that of its die and its place there. -/
theorem rkey_div_mod (x : Nat) : rkey (x / 16) (x % 16) = x := by
  unfold rkey
  omega

/-- The region to which a repair rebinds a logical region: of those that are available and that no other logical region holds, the first of
the same die, or else the first. -/
def State.rebindPick (s : State) (l k : Nat) : Option Nat :=
  let free := s.offered.filter fun x => !(tblErase s.glob.lmap l).any fun e => rkey e.2.1 e.2.2 == x
  (free.find? fun x => x / 16 == k / 16).orElse fun _ => free.head?

/-- The bindings with a logical region bound to a physical one, or unbound. -/
def rebound (t : Tbl (Nat × Nat)) (l : Nat) (pick : Option Nat) : Tbl (Nat × Nat) := match pick with
  | none => tblErase t l
  | some x => tblInsert (tblErase t l) l (x / 16, x % 16)

/-- The region picked is available, and no other logical region holds it. -/
theorem State.rebindPick_free {s : State} {l k x : Nat} (h : s.rebindPick l k = some x) :
    s.available x = true ∧ ∀ e ∈ tblErase s.glob.lmap l, rkey e.2.1 e.2.2 ≠ x := by
  unfold State.rebindPick at h
  extract_lets free at h
  have mem : x ∈ free := by
    cases found : free.find? fun x => x / 16 == k / 16 with
    | some y =>
      obtain rfl : y = x := by simpa [found] using h
      exact List.mem_of_find?_eq_some found
    | none => exact List.mem_of_mem_head? (by simpa [found] using h)
  obtain ⟨offered, unheld⟩ := List.mem_filter.1 mem
  exact ⟨(List.mem_filter.1 offered).2, by simpa using unheld⟩

/-- The C0 region's reservation of its MVU moved to the region picked. -/
def State.moveC0 (s : State) (k : Nat) (pick : Option Nat) : State := match pick with
  | some x => if (s.region k).mvuC0 then (s.setRegion k { s.region k with mvuC0 := false }).setRegion x { s.region x with mvuC0 := true } else s
  | none => s

theorem State.moveC0_frame (s : State) (k : Nat) (pick : Option Nat) : ∃ r, s.moveC0 k pick = { s with cmp := { s.cmp with regions := r } } := by
  unfold State.moveC0
  split
  · split
    · exact ⟨_, rfl⟩
    · exact ⟨_, rfl⟩
  · exact ⟨_, rfl⟩

/-- A rebinding changes the bindings, the mark of what is rebound, and what the MVU of the C0 region reserves. -/
theorem State.rebind_frame (s : State) (l k : Nat) : ∃ w r, s.rebind l k = { s with
    glob := { s.glob with lmap := rebound s.glob.lmap l (s.rebindPick l k) }
    pwr := { s.pwr with rebound := w }
    cmp := { s.cmp with regions := r } } := by
  let w := if s.pwr.rebound.contains l then s.pwr.rebound else s.pwr.rebound ++ [l]
  let bound : State := { s with
    glob := { s.glob with lmap := rebound s.glob.lmap l (s.rebindPick l k) }
    pwr := { s.pwr with rebound := w } }
  have moved : s.rebind l k = bound.moveC0 k (s.rebindPick l k) := rfl
  obtain ⟨r, h⟩ := bound.moveC0_frame k (s.rebindPick l k)
  exact ⟨w, r, moved.trans h⟩

/-- What a logical region is bound to after a rebinding of `l`. -/
theorem State.physOf_rebound {s u : State} {l k : Nat} (h : u.glob.lmap = rebound s.glob.lmap l (s.rebindPick l k)) (j : Nat) :
    u.physOf j = if j = l then s.rebindPick l k else s.physOf j := by
  have fresh := tblErase_keys s.glob.lmap l
  have unbound : (tblErase s.glob.lmap l).find? (fun e => e.1 == l) = none :=
    List.find?_eq_none.2 fun e he => by simpa using fresh e he
  unfold State.physOf
  rw [h]
  cases s.rebindPick l k with
  | none =>
    by_cases hj : j = l
    · simp [rebound, hj, unbound]
    · simp [rebound, hj, find?_tblErase_ne _ hj]
  | some x =>
    rw [rebound, find?_tblInsert _ _ _ _ fresh]
    by_cases hj : j = l
    · simp [hj, rkey_div_mod]
    · simp [hj, find?_tblErase_ne _ hj]

/-- No logical region but `l` holds the region to which `l` is rebound. -/
theorem State.physOf_ne_rebindPick {s : State} {l k x j : Nat} (h : s.rebindPick l k = some x) (hj : j ≠ l) : s.physOf j ≠ some x := by
  obtain ⟨-, unheld⟩ := State.rebindPick_free h
  unfold State.physOf
  rw [← find?_tblErase_ne _ hj]
  intro held
  obtain ⟨e, found, key⟩ := Option.map_eq_some_iff.1 held
  exact unheld e (List.mem_of_find?_eq_some found) key

/-! ## Repair records -/

/-- Every record of a repair withdraws the region that is repaired. -/
theorem repairRecords_region {k tile : Nat} {f : RepairFound} : ∀ r ∈ repairRecords k tile f, rkey r.die r.region = k := by
  intro r hr
  have at_ : r.die = k / 16 ∧ r.region = k % 16 := by
    unfold repairRecords at hr
    split at hr
    · simp_all
    · simp only [List.mem_append, List.mem_map] at hr
      rcases hr with (⟨_, -, rfl⟩ | other) | ⟨_, -, rfl⟩
      · simp
      · split at other
        · simp_all
        · simp at other
      · simp
  rw [at_.1, at_.2, rkey_div_mod]

/-- A region that is named by a repair record is not available. -/
theorem State.available_of_recorded {s : State} {k : Nat} {r : Repair} (recorded : r ∈ s.sec.mram.repair) (at_ : rkey r.die r.region = k) :
    s.available k = false := by
  have named : (s.sec.mram.repair.any fun r => rkey r.die r.region == k) = true := List.any_eq_true.2 ⟨r, recorded, by simp [at_]⟩
  simp [State.available, named]

/-! ## SRV_REPAIR (R439) -/

/-- SRV_REPAIR runs until REPAIR_COMPLETE. -/
theorem exec_srvRepair {s : State} {c : Nat} {p : Packet} (starts : s.Starts c p 0x0B02) (passed : chkSrvRepair s c p = none) :
    let b := s.begin_ c p (s.ctx c).cls
    exec (.srvRepair c p) s = .next { b.1 with pwr := { s.pwr with repairCmd := s.pwr.repairCmd ++ [(b.2, u8 p 16, u8 p 17)] } } := by
  have pwr : (s.begin_ c p (s.ctx c).cls).1.pwr = s.pwr := by rw [State.begin_eq]
  simp only [exec, execSrvRepair, passed, State.command_starts starts, pwr]

/-- The state in which the one repair that runs has ended. -/
def State.repairEnded (s : State) (t : Nat) : State := { s.advance t with pwr := { s.pwr with repairCmd := [] } }

theorem State.repairEnded_eq {s : State} {e : CmdRef × Nat × Nat} (running : s.pwr.repairCmd = [e]) (t : Nat) :
    ({ s.advance t with pwr := { (s.advance t).pwr with repairCmd := (s.advance t).pwr.repairCmd.erase e } } : State) = s.repairEnded t := by
  simp [State.repairEnded, running]

/-- The repair that runs is found by the partition of its region. -/
theorem State.find_repair {s : State} {q l tile : Nat} {r : CmdRef} (running : s.pwr.repairCmd = [(r, l, tile)]) (owner : s.partOf l = some q)
    (t : Nat) : (s.advance t).pwr.repairCmd.find? (fun e => (s.advance t).partOf e.2.1 == some q) = some (r, l, tile) := by
  have owner' : (s.advance t).partOf l = some q := owner
  simp [running, owner']

section
variable {s : State} {q l tile : Nat} {r : CmdRef} (hp : s.powered = true) (running : s.pwr.repairCmd = [(r, l, tile)])
  (owner : s.partOf l = some q) (t : Nat) (f : RepairFound) {k : Nat}
include hp running owner

/-- The repair of a region that is bound to none. -/
theorem exec_repairComplete_unbound (unbound : s.physOf l = none) :
    exec (.repairComplete t q f) s = .next ((s.repairEnded t).complete r stOk [0, 0]) := by
  have unbound' : (s.repairEnded t).physOf l = none := unbound
  simp only [exec, execRepairComplete, State.find_repair running owner, State.repairEnded_eq running, unbound']
  simp [hp, State.replyNow]

/-- A repair whose records would not fit MRAM. -/
theorem exec_repairComplete_full (bound : s.physOf l = some k)
    (full : 8192 < s.sec.mram.repair.length + (repairRecords k tile f).length) :
    exec (.repairComplete t q f) s = .next ((s.repairEnded t).complete r stNoFit []) := by
  have bound' : (s.repairEnded t).physOf l = some k := bound
  simp only [exec, execRepairComplete, State.find_repair running owner, State.repairEnded_eq running, bound']
  simp [hp, full]

/-- A repair that has found nothing. -/
theorem exec_repairComplete_clean (bound : s.physOf l = some k) (room : s.sec.mram.repair.length ≤ 8192)
    (clean : repairRecords k tile f = []) : exec (.repairComplete t q f) s =
      .next (((s.repairEnded t).repairMet q l k).complete r stOk [0, s.lmapWord l]) := by
  have bound' : (s.repairEnded t).physOf l = some k := bound
  have word : ((s.repairEnded t).repairMet q l k).lmapWord l = s.lmapWord l := rfl
  simp only [exec, execRepairComplete, State.find_repair running owner, State.repairEnded_eq running, bound', clean, word]
  simp [hp, State.replyNow, room]

/-- A repair that writes records to MRAM. -/
theorem exec_repairComplete_recorded (bound : s.physOf l = some k)
    (room : s.sec.mram.repair.length + (repairRecords k tile f).length ≤ 8192) (found : repairRecords k tile f ≠ []) :
    let v := (s.repairEnded t).repairMet q l k
    let u := (v.setMram { s.sec.mram with repair := s.sec.mram.repair ++ repairRecords k tile f }).rebind l k
    exec (.repairComplete t q f) s = .next (u.complete r stOk [w32 (repairRecords k tile f).length, u.lmapWord l]) := by
  have bound' : (s.repairEnded t).physOf l = some k := bound
  have mram : ((s.repairEnded t).repairMet q l k).sec.mram = s.sec.mram := rfl
  simp only [exec, execRepairComplete, State.find_repair running owner, State.repairEnded_eq running, bound', if_neg found, mram]
  simp [hp, State.replyNow, Nat.not_lt.2 room]

end

/-- What a repair that has found something leaves of the bindings: the region is bound to another one that is available and that no other
logical region holds, or to none. -/
theorem State.rebind_bound {v : State} {l k : Nat} {rec : Repair} (recorded : rec ∈ v.sec.mram.repair) (at_ : rkey rec.die rec.region = k) :
    let u := v.rebind l k
    u.sec = v.sec ∧ (∀ x, u.physOf l = some x → u.available x = true ∧ x ≠ k ∧ ∀ j, j ≠ l → u.physOf j ≠ some x) ∧
      ∀ j, j ≠ l → u.physOf j = v.physOf j := by
  obtain ⟨w, regions, frame⟩ := v.rebind_frame l k
  have sec : (v.rebind l k).sec = v.sec := by rw [frame]
  have phys := State.physOf_rebound (s := v) (u := v.rebind l k) (l := l) (k := k) (by rw [frame])
  have offered : (v.rebind l k).available = v.available := by rw [frame]; rfl
  refine ⟨sec, fun x bound => ?_, fun j hj => (phys j).trans (if_neg hj)⟩
  have pick : v.rebindPick l k = some x := ((phys l).trans (if_pos rfl)).symm.trans bound
  have free := (State.rebindPick_free pick).1
  refine ⟨by rw [offered]; exact free, fun same => ?_, fun j hj => ?_⟩
  · rw [same, State.available_of_recorded recorded at_] at free
    contradiction
  · rw [phys j, if_neg hj]
    exact State.physOf_ne_rebindPick pick hj

/-- Repairs: their start, and what their end leaves. -/
theorem repairs : Claims.Repairs := by
  refine ⟨fun s c p => exec_srvRepair, fun s t q l tile r f hp running owner => ⟨exec_repairComplete_unbound hp running owner t f,
    fun k bound => ⟨exec_repairComplete_full hp running owner t f bound, exec_repairComplete_clean hp running owner t f bound,
      fun room found => ?_⟩⟩⟩
  obtain ⟨rec, hrec⟩ := List.exists_mem_of_ne_nil _ found
  refine ⟨_, exec_repairComplete_recorded hp running owner t f bound room found, ?_⟩
  exact State.rebind_bound (List.mem_append_right _ hrec) (repairRecords_region rec hrec)

end Sys2Proof.Machine
end

section
/-! PROOFS. Resumption and partition images (R384, R440, R441). -/
namespace Sys2Proof.Machine

/-! ## What a resumption leaves alone -/

/-- The two states have the same image, husk, drains and resumptions, and the same tile cores halted. -/
structure ResumeFrame (s u : State) : Prop where
  image   : u.image = s.image
  sec     : u.sec = s.sec
  drained : u.pwr.drained = s.pwr.drained
  resumes : u.pwr.resumeCmd = s.pwr.resumeCmd
  halted  : ∀ k, (u.region k).halted = (s.region k).halted

theorem ResumeFrame.refl (s : State) : ResumeFrame s s := ⟨rfl, rfl, rfl, rfl, fun _ => rfl⟩
theorem ResumeFrame.trans (s t u : State) (h : ResumeFrame s t) (k : ResumeFrame t u) : ResumeFrame s u :=
  ⟨k.image.trans h.image, k.sec.trans h.sec, k.drained.trans h.drained, k.resumes.trans h.resumes, fun r => (k.halted r).trans (h.halted r)⟩

theorem ResumeFrame.foldl {β : Type} (f : State → β → State) (hf : ∀ s x, ResumeFrame s (f s x)) (l : List β) (s : State) :
    ResumeFrame s (l.foldl f s) :=
  foldl_keeps ResumeFrame f ResumeFrame.refl ResumeFrame.trans hf l s

theorem ResumeFrame.of_safe {s u : State} (h : SafeFrame s u) : ResumeFrame s u := by
  rw [h.eq]
  exact ⟨rfl, rfl, rfl, rfl, fun _ => rfl⟩

theorem State.complete_resume (s : State) (r : CmdRef) (st : Status) (res : List Word) : ResumeFrame s (s.complete r st res) := by
  obtain ⟨m, h⟩ := State.complete_frame s r st res 0
  rw [h]
  exact ⟨rfl, rfl, rfl, rfl, fun _ => rfl⟩

theorem State.spWrite_resume (s : State) (a : Nat) (bs : List Byte) : ResumeFrame s (s.spWrite a bs) := by
  obtain ⟨m, h⟩ := State.spWrite_frame s a bs
  rw [h]
  exact ⟨rfl, rfl, rfl, rfl, fun _ => rfl⟩

/-- A change of a stream. -/
theorem State.setStream_resume (s : State) (i : Nat) (x : Strm) : ResumeFrame s (s.setStream i x) := ⟨rfl, rfl, rfl, rfl, fun _ => rfl⟩

theorem State.finishChunk_resume (s : State) (i : Nat) (st : Status) : ResumeFrame s (s.finishChunk i st) := by
  unfold State.finishChunk
  dsimp only
  split
  · exact ResumeFrame.refl s
  · exact ResumeFrame.trans _ _ _ (State.setStream_resume s i _) (State.complete_resume _ _ _ _)

theorem State.finishFrom_resume (s : State) (i n : Nat) (st : Status) (fuel : Nat) : ResumeFrame s (s.finishFrom i n st fuel) := by
  induction fuel generalizing s n with
  | zero => exact ResumeFrame.refl s
  | succ fuel ih =>
    unfold State.finishFrom
    dsimp only
    split
    · exact ResumeFrame.trans _ _ _ (State.finishChunk_resume s i st) (ih _ _)
    · split
      · exact ResumeFrame.refl s
      · exact ResumeFrame.trans _ _ _ (ResumeFrame.trans _ _ _ (State.setStream_resume s i _) (State.complete_resume _ _ _ _)) (ih _ _)

theorem State.faultStream_resume (s : State) (i : Nat) (st : Status) : ResumeFrame s (s.faultStream i st) := by
  unfold State.faultStream
  extract_lets x u v
  have h : ResumeFrame s v := ResumeFrame.trans _ _ _ (State.setStream_resume s i _) (State.finishFrom_resume u i 0 st _)
  split
  · exact ResumeFrame.trans _ _ _ h (ResumeFrame.of_safe (State.raise_frame v _ _ _))
  · exact h

theorem State.writeSlot_resume (s : State) (m : StrmModel) (slot : Nat) (st : StrmState) : ResumeFrame s (s.writeSlot m slot st) :=
  ResumeFrame.foldl _ (fun s _ => ResumeFrame.trans _ _ _ (State.spWrite_resume s _ _) (State.spWrite_resume _ _ _)) _ s

/-- A stream that comes back into its pool, or faults. -/
theorem State.swapBack_resume (s : State) (i : Nat) : ResumeFrame s (s.swapBack i) := by
  unfold State.swapBack
  dsimp only
  split
  · exact ResumeFrame.refl s
  · split
    · exact ResumeFrame.refl s
    · split
      · exact ResumeFrame.trans _ _ _ (State.setStream_resume s i _) (State.faultStream_resume _ i stEcc)
      · split
        · exact State.setStream_resume s i _
        · exact ResumeFrame.trans _ _ _ (State.writeSlot_resume s _ _ _) ⟨rfl, rfl, rfl, rfl, fun _ => rfl⟩

/-- The test of a region. -/
theorem State.coverNow_resume (s : State) (fail : List Nat) (l : Nat) : ResumeFrame s (s.coverNow fail l) := by
  unfold State.coverNow
  dsimp only
  split
  · refine ResumeFrame.trans _ _ _ ?_ (ResumeFrame.of_safe (State.raise_frame _ _ _ _))
    exact ⟨rfl, rfl, rfl, rfl, fun _ => rfl⟩
  · exact ⟨rfl, rfl, rfl, rfl, fun _ => rfl⟩

theorem State.restoreLinks_resume (s : State) (q : Nat) : ResumeFrame s (s.restoreLinks q) :=
  ResumeFrame.foldl (fun s k => { s with glob := { s.glob with linkDown := maskClear (maskClear s.glob.linkDown (k / 16)) (2 + k / 16) } })
    (fun _ _ => ⟨rfl, rfl, rfl, rfl, fun _ => rfl⟩) _ s

/-- Programs written to tile cores halt none and release none. -/
theorem State.loadTiles_resume (s : State) (i : Image) (ls : List Nat) : ResumeFrame s (s.loadTiles i ls) := by
  refine ResumeFrame.foldl _ (fun s p => ?_) _ s
  split
  · next k _ =>
    dsimp only
    split
    · refine ⟨rfl, rfl, rfl, rfl, fun j => ?_⟩
      rw [State.region_setRegion]
      split <;> simp [*]
    · exact ResumeFrame.refl s
  · exact ResumeFrame.refl s

/-! ## The reload of slices -/

/-- No tile core of some regions is halted. -/
def State.releaseCores (s : State) (ks : List Nat) : State := ks.foldl (fun s k => s.setRegion k { s.region k with halted := 0 }) s

theorem State.releaseCores_frame (s : State) (ks : List Nat) : ∃ r, s.releaseCores ks = { s with cmp := { s.cmp with regions := r } } := by
  refine foldl_keeps (fun a b : State => ∃ r, b = { a with cmp := { a.cmp with regions := r } }) _ (fun a => ⟨a.cmp.regions, rfl⟩) ?_
    (fun a k => ⟨_, rfl⟩) ks s
  rintro a b c ⟨r, rfl⟩ ⟨r', rfl⟩
  exact ⟨r', rfl⟩

theorem State.releaseCores_halted (s : State) (ks : List Nat) (j : Nat) :
    ((s.releaseCores ks).region j).halted = if j ∈ ks then 0 else (s.region j).halted := by
  unfold State.releaseCores
  induction ks generalizing s with
  | nil => rfl
  | cons k ks ih =>
    rw [List.foldl_cons, ih, State.region_setRegion]
    by_cases h : j = k <;> simp [h]

/-- Behind the release of its tile cores, the reload of a partition writes memories alone. -/
theorem State.reloadSlices_resume (s : State) (q : Nat) : ResumeFrame (s.releaseCores (s.physParts q)) (s.reloadSlices q) := by
  unfold State.reloadSlices
  extract_lets ks u compute v data w
  have written : ResumeFrame u w := ResumeFrame.trans _ v _ ⟨rfl, rfl, rfl, rfl, fun _ => rfl⟩
    (ResumeFrame.foldl _ (fun s (d : Nat × List Byte) => State.spWrite_resume s d.1 d.2) data v)
  split
  · exact ResumeFrame.trans _ _ _ written (State.loadTiles_resume w _ _)
  · exact written

/-! ## RESUME_COMPLETE (R440) -/

/-- A bit of a mask once a bit has been cleared. -/
theorem maskBit_maskClear {w : Nat} (m : BitVec w) (i k : Nat) : maskBit (maskClear m i) k = (maskBit m k && decide (k ≠ i)) := by
  unfold maskBit maskClear
  rw [BitVec.getLsbD_and, BitVec.getLsbD_not, BitVec.getLsbD_ofNat, Nat.testBit_two_pow]
  by_cases h : k < w
  · simp [h, eq_comm]
  · simp [BitVec.getLsbD_of_ge m k (Nat.not_lt.1 h)]

/-- A partition that leaves its drain, behind its streams that come back. -/
theorem State.endDrain_eq (s : State) (q : Nat) : ∃ (v : State) (x : Sched), ResumeFrame s v ∧
    s.endDrain q = { v with sched := x, pwr := { v.pwr with drained := maskClear v.pwr.drained q } } :=
  ⟨_, _, ResumeFrame.foldl _ State.swapBack_resume _ s, rfl⟩

/-- What a resumption leaves that takes no partition image, but for its reply: the slices reloaded, the rebound regions tested, the links
restored, and the drain left. -/
def State.resumed (s : State) (q : Nat) (fail : List Nat) : State :=
  let v := s.reloadSlices q
  (((((v.partCfg q).regions.filter v.pwr.rebound.contains).foldl (fun s l => s.coverNow fail l) v).restoreLinks q).endDrain q)

theorem State.resumed_leaves (s : State) (q : Nat) (fail : List Nat) :
    let u := s.resumed q fail
    maskBit u.pwr.drained q = false ∧ (∀ k, k ≠ q → maskBit u.pwr.drained k = maskBit s.pwr.drained k) ∧
      u.pwr.resumeCmd = s.pwr.resumeCmd ∧ u.image = s.image ∧ (∀ k ∈ s.physParts q, (u.region k).halted = 0) ∧ u.sec = s.sec := by
  let v := s.reloadSlices q
  let tested := ((v.partCfg q).regions.filter v.pwr.rebound.contains).foldl (fun s l => s.coverNow fail l) v
  obtain ⟨r, released⟩ := s.releaseCores_frame (s.physParts q)
  obtain ⟨w, sched, drain, eq⟩ := (tested.restoreLinks q).endDrain_eq q
  have resumed : s.resumed q fail = { w with sched := sched, pwr := { w.pwr with drained := maskClear w.pwr.drained q } } := eq
  have frame : ResumeFrame (s.releaseCores (s.physParts q)) w :=
    ResumeFrame.trans _ _ _ (s.reloadSlices_resume q) (ResumeFrame.trans _ _ _
      (ResumeFrame.foldl _ (fun s l => s.coverNow_resume fail l) _ v) (ResumeFrame.trans _ _ _ (tested.restoreLinks_resume q) drain))
  obtain ⟨image, sec, drained, resumes, halted⟩ := frame
  rw [resumed]
  have drained : w.pwr.drained = s.pwr.drained := by rw [drained, released]
  refine ⟨by simp [maskBit_maskClear], fun k hk => ?_, resumes.trans (by rw [released]), image.trans (by rw [released]), fun k hk => ?_,
    sec.trans (by rw [released])⟩
  · rw [← drained]
    simp [maskBit_maskClear, hk]
  · exact (halted k).trans ((s.releaseCores_halted _ k).trans (if_pos hk))

/-- The state in which the one resumption that runs has ended. -/
def State.resumeEnded (s : State) (t : Nat) : State := { s.advance t with pwr := { s.pwr with resumeCmd := [] } }

theorem State.resumeEnded_eq {s : State} {e : Nat × CmdRef} (running : s.pwr.resumeCmd = [e]) (t : Nat) :
    ({ s.advance t with pwr := { (s.advance t).pwr with resumeCmd := (s.advance t).pwr.resumeCmd.erase e } } : State) = s.resumeEnded t := by
  simp [State.resumeEnded, running]

theorem State.find_resume {s : State} {q : Nat} {r : CmdRef} (running : s.pwr.resumeCmd = [(q, r)]) (t : Nat) :
    (s.advance t).pwr.resumeCmd.find? (fun e => e.1 == q) = some (q, r) := by
  simp [running]

/-- SRV_RESUME runs until RESUME_COMPLETE. -/
theorem exec_srvResume {s : State} {c : Nat} {p : Packet} (starts : s.Starts c p 0x0B03) (passed : chkSrvResume s c p = none) :
    let b := s.begin_ c p (s.ctx c).cls
    exec (.srvResume c p) s = .next { b.1 with pwr := { s.pwr with resumeCmd := s.pwr.resumeCmd ++ [(u8 p 16, b.2)] } } := by
  have pwr : (s.begin_ c p (s.ctx c).cls).1.pwr = s.pwr := by rw [State.begin_eq]
  simp only [exec, execSrvResume, passed, State.command_starts starts, pwr]

/-- A store that cannot be read leaves the partition drained. -/
theorem exec_resumeComplete_unread {s : State} (t : Nat) {q : Nat} {r : CmdRef} (fail : List Nat) (hp : s.powered = true)
    (running : s.pwr.resumeCmd = [(q, r)]) : exec (.resumeComplete t q false fail) s = .next ((s.resumeEnded t).complete r stEcc []) := by
  simp only [exec, execResumeComplete, State.find_resume running, State.resumeEnded_eq running]
  simp [hp]

theorem State.takePartImage_none {s : State} (empty : s.pwr.partImage = []) (q : Nat) : s.takePartImage q = s := by
  simp [State.takePartImage, empty]

/-- The end of a resumption that takes no partition image. -/
theorem exec_resumeComplete_resumed {s : State} (t : Nat) {q : Nat} {r : CmdRef} (fail : List Nat) (hp : s.powered = true)
    (running : s.pwr.resumeCmd = [(q, r)]) (empty : s.pwr.partImage = []) :
    exec (.resumeComplete t q true fail) s = .next (((s.resumeEnded t).resumed q fail).complete r stOk []) := by
  have empty' : (s.resumeEnded t).pwr.partImage = [] := empty
  simp only [exec, execResumeComplete, State.find_resume running, State.resumeEnded_eq running, State.takePartImage_none empty']
  simp [hp, empty, State.replyNow, State.openPartStreams, State.resumed]

/-! ## SRV_PART_LOAD (R441) -/

/-- Where no group of checks fails, none of them does. -/
theorem eq_none_of_firstSome {l : List (Option Status)} (h : firstSome l = none) : ∀ x ∈ l, x = none := by
  induction l with
  | nil => simp
  | cons x l ih =>
    cases x with
    | some st => simp [firstSome] at h
    | none => simpa using ih h

/-- A partition image that passes its checks has its tables staged. -/
theorem State.stageAll_of_partCheck {s : State} {i j : Image} {q : Nat} (passed : s.partCheck i j q = none) :
    ∃ u, (s.unstagePart q).stageAll (partTables i j) = some u := by
  have fits := eq_none_of_firstSome passed (if ((s.unstagePart q).stageAll (partTables i j)).isNone then some stNoFit else none) (by simp)
  cases staged : (s.unstagePart q).stageAll (partTables i j) with
  | none => simp [staged] at fits
  | some u => exact ⟨u, rfl⟩

/-- Tables that are staged, or no longer, change the domains alone. -/
theorem State.stageAll_frame {s u : State} {ts : List (Nat × Nat × TableCfg)} (h : s.stageAll ts = some u) :
    ∃ x, u = { s with time := x } := by
  induction ts generalizing s with
  | nil =>
    obtain rfl := Option.some.inj h
    exact ⟨s.time, rfl⟩
  | cons e ts ih =>
    unfold State.stageAll at h
    split at h
    · simp at h
    · obtain ⟨x, rfl⟩ := ih h
      exact ⟨x, rfl⟩

theorem State.unstagePart_frame (s : State) (q : Nat) : ∃ x, s.unstagePart q = { s with time := x } := by
  unfold State.unstagePart
  split
  · exact ⟨s.time, rfl⟩
  · refine foldl_keeps (fun a b : State => ∃ x, b = { a with time := x }) _ (fun a => ⟨a.time, rfl⟩) ?_ (fun a c => ⟨_, rfl⟩) _ s
    rintro a b c ⟨x, rfl⟩ ⟨y, rfl⟩
    exact ⟨y, rfl⟩

section
variable {s : State} {c : Nat} {p : Packet} (starts : s.Starts c p 0x0B04) (passed : chkSrvPartLoad s c p = none)
include starts passed

/-- A partition image that cannot be read. -/
theorem exec_srvPartLoad_unread : exec (.srvPartLoad c p none) s =
    .next ((s.begin_ c p (s.ctx c).cls).1.complete (s.begin_ c p (s.ctx c).cls).2 stEcc []) := by
  simp only [exec, execSrvPartLoad, passed, State.command_starts starts]

variable {i j : Image} (image : s.image = some i)
include image

/-- A partition image that is refused without a counted signature failure. -/
theorem exec_srvPartLoad_refused {st : Status} (refused : (s.begin_ c p (s.ctx c).cls).1.partCheck i j (u8 p 16) = some st)
    (unsigned : st ≠ stSigFail) : exec (.srvPartLoad c p (some j)) s =
      .next ((s.begin_ c p (s.ctx c).cls).1.complete (s.begin_ c p (s.ctx c).cls).2 st []) := by
  have image' : (s.begin_ c p (s.ctx c).cls).1.image = some i := by rw [State.begin_eq, image]
  simp only [exec, execSrvPartLoad, passed, State.command_starts starts, image', refused, if_neg unsigned]

/-- A partition image that is accepted: it is staged and measured, and waits for the resumption. -/
theorem exec_srvPartLoad_staged {v : State} (accepted : (s.begin_ c p (s.ctx c).cls).1.partCheck i j (u8 p 16) = none)
    (staged : ((s.begin_ c p (s.ctx c).cls).1.unstagePart (u8 p 16)).stageAll (partTables i j) = some v) :
    let u : State := { v with image := some (withPartTables i j), pwr := { v.pwr with
      partImage := tblInsert (tblErase v.pwr.partImage (u8 p 16)) (u8 p 16) j } }
    exec (.srvPartLoad c p (some j)) s =
      .next ((u.measure 4 j.env.headerDigest).complete (s.begin_ c p (s.ctx c).cls).2 stOk []) := by
  have image' : (s.begin_ c p (s.ctx c).cls).1.image = some i := by rw [State.begin_eq, image]
  simp only [exec, execSrvPartLoad, passed, State.command_starts starts, image', accepted, staged, State.replyNow]

end

/-- Resumptions and partition images: their start, and what their end leaves. -/
theorem resumptions : Claims.Resumptions := by
  refine ⟨fun s c p => exec_srvResume, fun s t q r fail hp running => ⟨exec_resumeComplete_unread t fail hp running, fun empty =>
    ⟨_, exec_resumeComplete_resumed t fail hp running empty, (s.resumeEnded t).resumed_leaves q fail⟩⟩, fun s c p i j starts passed image =>
      ⟨fun st => exec_srvPartLoad_refused starts passed image, fun accepted => ?_, exec_srvPartLoad_unread starts passed⟩⟩
  obtain ⟨v, staged⟩ := State.stageAll_of_partCheck accepted
  obtain ⟨x, unstage⟩ := State.unstagePart_frame (s.begin_ c p (s.ctx c).cls).1 (u8 p 16)
  obtain ⟨y, stage⟩ := State.stageAll_frame staged
  rw [unstage, State.begin_eq] at stage
  refine ⟨_, exec_srvPartLoad_staged starts passed image accepted staged, rfl, ?_, by rw [stage]; rfl, by rw [stage]; rfl, by rw [stage]; rfl⟩
  exact (find?_tblInsert _ _ _ _ (tblErase_keys _ _)).trans (if_pos rfl)

/-- Settles O53, from its two parts. -/
theorem repairAndResume : Obligations.RepairAndResume := ⟨repairs, resumptions⟩

end Sys2Proof.Machine
end

section
/-! PROOFS. Clears (R71, R481): what a clear leaves of the counter it names, and that it changes nothing else. -/
namespace Sys2Proof.Machine

/-! ## What a clear leaves of a count (R71) -/

theorem sinceMark_of_le {n : Nat} {was cur : BitVec n} (h : was.toNat ≤ cur.toNat) : sinceMark was cur = cur - was := if_pos h
theorem sinceMark_of_lt {n : Nat} {was cur : BitVec n} (h : cur.toNat < was.toNat) : sinceMark was cur = cur := if_neg (by omega)

/-- A host write that leaves of one counter what the cycle has counted is a clear of that counter. -/
theorem clears_of_hostWrite {s : State} {i : Instr} {get : Blocks → Word} {set : Blocks → Word → Blocks} (hp : s.powered = true)
    (h : exec i s = .next (s.hostWrite fun w x => set x (sinceMark (get w) (get x)))) : Claims.Clears s i get set := by
  refine ⟨sinceMark (get s.mark) (get s.toBlocks), ?_, fun same => ?_, sinceMark_of_le, sinceMark_of_lt⟩
  · rw [h, State.hostWrite_on s _ hp, sinceMark_self]
  · rw [same, sinceMark_self]

/-! ## Clears of a region's registers (R481) -/

/-- What a key holds after one key has been changed. -/
theorem tblGet_tblUpd {α : Type} [DecidableEq α] (d : α) (t : Tbl α) (n m : Nat) (f : α → α) :
    tblGet d (tblUpd d t n f) m = if m = n then f (tblGet d t n) else tblGet d t m :=
  tblGet_tblSet d t n m _

theorem clearsRegion_of_rgnWrite {s : State} {i : Instr} {k : Nat} {f : Region → Region → Region} (hp : s.powered = true)
    (on : s.enabled k = true) (h : exec i s = .next (s.rgnWrite k f)) : Claims.ClearsRegion s i k f := by
  rw [State.rgnWrite, if_pos on, State.hostWrite_on s _ hp] at h
  exact ⟨_, h, fun j => tblGet_tblUpd ({} : Region) s.cmp.regions k j _, fun j => tblGet_tblUpd ({} : Region) s.mark.cmp.regions k j _, rfl⟩

theorem clearsPort_of_portWrite {s : State} {i : Instr} {k : Nat} {f : RegionSp → RegionSp → RegionSp} (hp : s.powered = true)
    (on : s.enabled k = true) (h : exec i s = .next (s.portWrite k f)) : Claims.ClearsPort s i k f := by
  rw [State.portWrite, if_pos on, State.hostWrite_on s _ hp] at h
  exact ⟨_, h, fun j => tblGet_tblUpd ({} : RegionSp) s.cmp.ports k j _, fun j => tblGet_tblUpd ({} : RegionSp) s.mark.cmp.ports k j _, rfl⟩

/-- The registers of a region that the grade does not enable ignore a write. -/
theorem State.rgnWrite_disabled {s : State} {k : Nat} (off : s.enabled k = false) (f : Region → Region → Region) : s.rgnWrite k f = s :=
  if_neg (by simp [off])

theorem State.portWrite_disabled {s : State} {k : Nat} (off : s.enabled k = false) (f : RegionSp → RegionSp → RegionSp) :
    s.portWrite k f = s :=
  if_neg (by simp [off])

/-- The clears of a region's registers. -/
theorem regionClears : Claims.RegionClears := by
  refine ⟨fun n a b => ⟨sinceMark_self a, sinceMark_of_le, sinceMark_of_lt⟩, fun s d r hp => ⟨fun on => ?_, fun off => ?_⟩⟩
  · have region {i : Instr} {f} := clearsRegion_of_rgnWrite (i := i) (f := f) hp on
    have port {i : Instr} {f} := clearsPort_of_portWrite (i := i) (f := f) hp on
    exact ⟨region rfl, region rfl, region rfl, region rfl, region rfl, region rfl, port rfl, port rfl, port rfl, port rfl, port rfl⟩
  · have region (f) := congrArg (Host.Outcome.next : State → Out) (State.rgnWrite_disabled off f)
    have port (f) := congrArg (Host.Outcome.next : State → Out) (State.portWrite_disabled off f)
    simp only [List.forall_mem_cons]
    exact ⟨region _, region _, region _, region _, region _, region _, port _, port _, port _, port _, port _, by simp⟩

/-! ## Clears of one counter -/

/-- The clears of the serving, stream, command and synchronisation registers. -/
theorem commandClears : Claims.CommandClears := by
  intro s hp
  have clear {i get set} := clears_of_hostWrite (s := s) (i := i) (get := get) (set := set) hp
  have resync : exec .cmdStrmClearResync s = _ := congrArg Host.Outcome.next (State.hostWrite_on s _ hp)
  refine ⟨clear rfl, clear rfl, clear rfl, clear rfl, ⟨_, _, _, resync, ?_, sinceMark_of_le, sinceMark_of_le⟩, clear rfl, clear rfl,
    clear rfl, clear rfl, clear rfl, clear rfl, clear rfl, clear rfl⟩
  simp only [sinceMark_self]

/-- The clears of the safety, security and power registers. -/
theorem supervisorClears : Claims.SupervisorClears := by
  intro s hp
  have clear {i get set} := clears_of_hostWrite (s := s) (i := i) (get := get) (set := set) hp
  exact ⟨clear rfl, clear rfl, clear rfl, clear rfl, clear rfl, clear rfl, clear rfl, clear rfl⟩

/-! ## Clears of one counter in every domain, port or controller -/

/-- What a key holds after the first `n` keys have been changed, each once. -/
theorem tblGet_foldl_tblUpd {α : Type} [DecidableEq α] (d : α) (f : Nat → α → α) (t : Tbl α) (n j : Nat) :
    tblGet d ((List.range n).foldl (fun m k => tblUpd d m k (f k)) t) j = if j < n then f j (tblGet d t j) else tblGet d t j := by
  induction n with
  | zero => rfl
  | succ n ih =>
    rw [List.range_succ, List.foldl_append, List.foldl_cons, List.foldl_nil, tblGet_tblUpd]
    by_cases last : j = n
    · subst last
      rw [if_pos rfl, ih, if_neg (by omega), if_pos (by omega)]
    · rw [if_neg last, ih]
      exact if_congr (by omega) rfl rfl

/-- A clear in every phase domain: each keeps what its cycle has counted, and the copy of the cycle's start none of it. -/
theorem exec_clearsDoms {s : State} {i : Instr} {f : Domain → Domain → Domain} (hp : s.powered = true)
    (h : exec i s = .next (s.hostWrite (Blocks.onDoms f))) : ∃ u, exec i s = .next u ∧
      (∀ d, u.dom d = if d < 8 then f (tblGet {} s.mark.time.doms d) (s.dom d) else s.dom d) ∧
      (∀ d, tblGet {} u.mark.time.doms d =
        if d < 8 then f (tblGet {} s.mark.time.doms d) (tblGet {} s.mark.time.doms d) else tblGet {} s.mark.time.doms d) ∧
      u = { s with time := { s.time with doms := u.time.doms }, mark := { s.mark with time := { s.mark.time with doms := u.mark.time.doms } } } := by
  rw [State.hostWrite_on s _ hp] at h
  exact ⟨_, h, fun d => tblGet_foldl_tblUpd ({} : Domain) (fun d => f (tblGet {} s.mark.time.doms d)) s.time.doms 8 d,
    fun d => tblGet_foldl_tblUpd ({} : Domain) (fun d => f (tblGet {} s.mark.time.doms d)) s.mark.time.doms 8 d, rfl⟩

/-- A clear on every Ethernet port. -/
theorem exec_clearsEths {s : State} {i : Instr} {f : Eth → Eth → Eth} (hp : s.powered = true)
    (h : exec i s = .next (s.hostWrite (Blocks.onEths f))) : ∃ u, exec i s = .next u ∧
      (∀ p, u.eth p = if p < 6 then f (tblGet {} s.mark.eths p) (s.eth p) else s.eth p) ∧
      (∀ p, tblGet {} u.mark.eths p = if p < 6 then f (tblGet {} s.mark.eths p) (tblGet {} s.mark.eths p) else tblGet {} s.mark.eths p) ∧
      u = { s with eths := u.eths, mark := { s.mark with eths := u.mark.eths } } := by
  rw [State.hostWrite_on s _ hp] at h
  exact ⟨_, h, fun p => tblGet_foldl_tblUpd ({} : Eth) (fun p => f (tblGet {} s.mark.eths p)) s.eths 6 p,
    fun p => tblGet_foldl_tblUpd ({} : Eth) (fun p => f (tblGet {} s.mark.eths p)) s.mark.eths 6 p, rfl⟩

/-- A clear of a CAN FD controller. -/
theorem exec_clearsCan {s : State} {i : Instr} {c : Nat} {f : Can → Can → Can} (hp : s.powered = true)
    (h : exec i s = .next (s.hostWrite (Blocks.onCan c f))) : ∃ u, exec i s = .next u ∧
      (∀ n, u.can n = if n = c then f (tblGet {} s.mark.cans c) (s.can c) else s.can n) ∧
      (∀ n, tblGet {} u.mark.cans n = if n = c then f (tblGet {} s.mark.cans c) (tblGet {} s.mark.cans c) else tblGet {} s.mark.cans n) ∧
      u = { s with cans := u.cans, mark := { s.mark with cans := u.mark.cans } } := by
  rw [State.hostWrite_on s _ hp] at h
  exact ⟨_, h, fun n => tblGet_tblUpd ({} : Can) s.cans c n _, fun n => tblGet_tblUpd ({} : Can) s.mark.cans c n _, rfl⟩

/-- The clears of the solver, control-engine, time and schedule registers. -/
theorem timingClears : Claims.TimingClears := by
  intro s hp
  have clear {i get set} := clears_of_hostWrite (s := s) (i := i) (get := get) (set := set) hp
  have doms {i f} := exec_clearsDoms (s := s) (i := i) (f := f) hp
  refine ⟨clear rfl, clear rfl, clear rfl, clear rfl, clear rfl, clear rfl, clear rfl, clear rfl, clear rfl, clear rfl, clear rfl, clear rfl,
    clear rfl, clear rfl, clear rfl, clear rfl, ?_, ?_⟩
  · simpa only [sinceMark_self] using doms (i := .timeClearHold) rfl
  · simpa only [sinceMark_self] using doms (i := .timeClearSkip) rfl

/-- The clears of the capture, pre-processing, CAN FD, Ethernet and link registers. -/
theorem portClears : Claims.PortClears := by
  intro s c hp
  have clear {i get set} := clears_of_hostWrite (s := s) (i := i) (get := get) (set := set) hp
  have can {i f} := exec_clearsCan (s := s) (i := i) (c := c) (f := f) hp
  have eths {i f} := exec_clearsEths (s := s) (i := i) (f := f) hp
  refine ⟨clear rfl, clear rfl, clear rfl, clear rfl, clear rfl, clear rfl, clear rfl, clear rfl, clear rfl, clear rfl, clear rfl,
    ?_, ?_, ?_, ?_, ?_, ?_, ?_⟩
  · simpa only [sinceMark_self] using can (i := .canClearLate c) rfl
  · simpa only [sinceMark_self] using can (i := .canClearRxdrop c) rfl
  · simpa only [sinceMark_self] using can (i := .canClearAbandon c) rfl
  · simpa only [sinceMark_self] using eths (i := .ethClearLate) rfl
  · simpa only [sinceMark_self] using eths (i := .ethClearFcs) rfl
  · simpa only [sinceMark_self] using eths (i := .ethClearRxdrop) rfl
  · simpa only [sinceMark_self] using eths (i := .ethClearRx) rfl

/-- Settles O4, from its five families of clears. -/
theorem countersClear : Obligations.CountersClear := ⟨regionClears, commandClears, timingClears, portClears, supervisorClears⟩

end Sys2Proof.Machine
end

section
/-! PROOFS. Passes that start and go on (R60, R62, R80 to R90, R104, R109): what settling can change, said once for each of its operations. -/
namespace Sys2Proof.Machine

/-! ## What settling keeps -/

theorem Region.cluster_setCluster (x : Region) (c d : Nat) (y : Cluster) : (x.setCluster c y).cluster d = if d = c then y else x.cluster d :=
  tblGet_tblSet _ _ _ _ _

/-- A region but for what settling may change of it: the mode and interval that it shows, and its passes, products and clusters. -/
def Region.still (x : Region) : Region := { x with mode := 0, interval := 0, mvuMode := 0, clusters := [], passes := [], mvus := [] }

/-- What settling keeps between two states. Where `writes` is false, it keeps the scratchpad too. -/
structure Settles (writes : Bool) (s u : State) : Prop where
  still : ∀ k, (u.region k).still = (s.region k).still
  active : ∀ k c, ((u.region k).cluster c).active = ((s.region k).cluster c).active
  lp : u.cmp.lp = s.cmp.lp
  spPoison : u.cmp.spPoison = s.cmp.spPoison
  ids : u.cmp.works.map Work.id = s.cmp.works.map Work.id
  sp : writes = false → u.cmp.sp = s.cmp.sp

namespace Settles
variable {w : Bool} {s t u : State}

theorem refl (w : Bool) (s : State) : Settles w s s := ⟨fun _ => rfl, fun _ _ => rfl, rfl, rfl, rfl, fun _ => rfl⟩

theorem trans (h : Settles w s t) (k : Settles w t u) : Settles w s u where
  still i := (k.still i).trans (h.still i)
  active i c := (k.active i c).trans (h.active i c)
  lp := k.lp.trans h.lp
  spPoison := k.spPoison.trans h.spPoison
  ids := k.ids.trans h.ids
  sp off := (k.sp off).trans (h.sp off)

theorem foldl {β : Type} (f : State → β → State) (hf : ∀ s x, Settles w s (f s x)) (l : List β) (s : State) : Settles w s (l.foldl f s) :=
  foldl_keeps (Settles w) f (refl w) (fun _ _ _ => trans) hf l s

theorem of_cmp (h : u.cmp = s.cmp) : Settles w s u := by
  constructor <;> simp [State.region, h]

theorem of_safe (h : SafeFrame s u) : Settles w s u := of_cmp (by rw [h.eq])

theorem of_ports {x : Tbl RegionSp} (h : u.cmp = { s.cmp with ports := x }) : Settles w s u := by
  constructor <;> simp [State.region, h]

theorem of_works {l : List Work} (h : u.cmp = { s.cmp with works := l }) (ids : l.map Work.id = s.cmp.works.map Work.id) : Settles w s u := by
  constructor <;> simp [State.region, h, ids]

theorem of_sp {m : Mem} (h : u.cmp = { s.cmp with sp := m }) : Settles true s u := by
  constructor <;> simp [State.region, h]

/-- A region written without a change of what settling keeps. -/
theorem setRegion {k : Nat} {x : Region} (still : x.still = (s.region k).still)
    (active : ∀ c, (x.cluster c).active = ((s.region k).cluster c).active) : Settles w s (s.setRegion k x) := by
  refine ⟨fun j => ?_, fun j c => ?_, rfl, rfl, rfl, fun _ => rfl⟩
  · rw [State.region_setRegion]
    split
    · next h => rw [h, still]
    · rfl
  · rw [State.region_setRegion]
    split
    · next h => rw [h, active]
    · rfl

/-- A cluster written without a change of its active set, and the region's passes changed. -/
theorem setShadow {k c : Nat} {y : Cluster} {f : RunPass → RunPass} (active : y.active = ((s.region k).cluster c).active) :
    Settles w s (s.setRegion k (((s.region k).setCluster c y).mapPasses f)) := by
  refine setRegion rfl fun d => ?_
  have read : ((((s.region k).setCluster c y).mapPasses f).cluster d) = if d = c then y else (s.region k).cluster d := Region.cluster_setCluster _ c d y
  rw [read]
  split
  · next h => rw [h, active]
  · rfl

end Settles

/-! ## Its operations -/

theorem State.updWork_settles {w : Bool} (s : State) (id : WorkId) {f : Work → Work} (hf : ∀ x, (f x).id = x.id) : Settles w s (s.updWork id f) := by
  refine .of_works rfl ?_
  simp only [List.map_map]
  exact List.map_congr_left fun x _ => by simp only [Function.comp]; split <;> simp [hf]

theorem State.addStatus_settles {w : Bool} (s : State) (id : Option WorkId) (st : Status) : Settles w s (s.addStatus id st) := by
  cases id with
  | none => exact .refl w s
  | some id => exact s.updWork_settles id fun _ => rfl

theorem State.addPos_settles {w : Bool} (s : State) (id : WorkId) (i : Nat) (st : Status) : Settles w s (s.addPos id i st) :=
  s.updWork_settles id fun _ => rfl

theorem State.faultUnit_settles {w : Bool} (s : State) (k : Nat) : Settles w s (s.faultUnit k) := .of_safe (State.raise_frame s _ _ _)

theorem State.poisonedPass_settles {w : Bool} (s : State) (k : Nat) (p : RunPass) (bad : Bool) : Settles w s (s.poisonedPass k p bad) := by
  unfold State.poisonedPass
  split
  · exact (s.addStatus_settles _ _).trans (State.faultUnit_settles _ k)
  · exact .refl w s

theorem State.poisonedActs_settles {w : Bool} (s : State) (k : Nat) (p : RunPass) (poss : List Nat) : Settles w s (s.poisonedActs k p poss) := by
  unfold State.poisonedActs
  dsimp only
  split
  · have marked := Settles.foldl (w := w) (fun (s : State) pos => s.addPos p.key.work (p.vecs.getD pos 0) stEcc) (fun s _ => s.addPos_settles _ _ _)
      (poss.filter fun pos => s.winPoisoned p (p.actRange pos)) s
    split
    · exact marked
    · exact marked.trans (State.faultUnit_settles _ k)
  · exact s.poisonedPass_settles k p _

theorem State.loadShadow_settles {w : Bool} (s : State) (k c : Nat) : Settles w s (s.loadShadow k c) := by
  unfold State.loadShadow
  dsimp only
  split
  · exact .refl w s
  · split
    · exact .refl w s
    · refine Settles.trans ?_ (State.poisonedPass_settles _ k _ _)
      exact .setShadow rfl

theorem State.setPort_settles {w : Bool} (s : State) (k : Nat) (x : RegionSp) : Settles w s (s.setPort k x) := .of_ports rfl

theorem State.askMode_settles {w : Bool} (s : State) (k : Nat) : Settles w s (s.askMode k) := by
  unfold State.askMode
  dsimp only
  split
  · exact .refl w s
  · split
    · exact s.setPort_settles k _
    · exact .refl w s

theorem State.passWin_settles {w : Bool} (s : State) (k slot : Nat) (ps : List RunPass) : Settles w s (s.passWin k slot ps) := by
  unfold State.passWin
  split
  · exact .refl w s
  · dsimp only
    split
    · exact .refl w s
    · exact s.setPort_settles k _

theorem State.beginMvu_settles {w : Bool} (s : State) (k : Nat) : Settles w s (s.beginMvu k) := by
  unfold State.beginMvu
  dsimp only
  split
  · exact .refl w s
  · split
    · exact .refl w s
    · split
      · exact .refl w s
      · have begun : ∀ x : Region, x.still = (s.region k).still → x.clusters = (s.region k).clusters → Settles w s (s.setRegion k x) :=
          fun x still same => .setRegion still fun c => by rw [Region.cluster, same]; rfl
        split
        · exact begun _ rfl rfl
        · refine Settles.trans (Settles.trans ?_ (State.poisonedPass_settles _ k _ _)) (State.poisonedActs_settles _ k _ _)
          exact begun _ rfl rfl

theorem State.writeAnchors_settles (s : State) (p : RunPass) : Settles true s (s.writeAnchors p) := by
  refine Settles.foldl _ (fun s a => ?_) _ s
  obtain ⟨m, h⟩ := State.spWrite_frame s (p.sh.base + p.desc.anchorTable + 4 * (p.sh.first / 128 + a.2)) (leBytes (BitVec.ofInt 16 a.1).toNat 2)
  rw [h]
  exact .of_sp rfl

/-- A pass that may begin keeps the scratchpad too where it is a wide re-run, whose anchors no table holds. -/
theorem State.readyPass_settles {w : Bool} (s : State) (k : Nat) (p : RunPass) (h : w = true ∨ p.wide.isSome = true) :
    Settles w s (s.readyPass k p) := by
  unfold State.readyPass
  extract_lets q x u v
  have shown : Settles w s u := .setRegion (by simp only [x]; split <;> rfl) fun c => by simp only [x]; split <;> rfl
  have marked : Settles w s v := shown.trans (State.poisonedActs_settles _ k p _)
  split
  · exact shown
  · split
    · split
      · exact marked
      · obtain rfl : w = true := h.resolve_right ‹_›
        exact marked.trans (State.writeAnchors_settles _ _)
    · exact shown

/-- What one region takes of its next sets, products, windows and modes. -/
def State.settleRegion (s : State) (k : Nat) : State :=
  let s := (List.range 4).foldl (fun s c => s.loadShadow k c) s
  let s := (s.askMode k).beginMvu k
  (s.passWin k 64 (s.region k).passes).passWin k 68 (s.region k).mvus

/-- The passes that may begin. -/
def State.beginPasses (s : State) : State := s.passes.foldl (fun s e => if s.mayBegin e.2 then s.readyPass e.1 e.2 else s) s

theorem State.settle_eq (s : State) : s.settle = (s.beginPasses.cmp.regions.map Prod.fst).foldl State.settleRegion s.beginPasses := rfl

theorem State.settleRegion_settles {w : Bool} (s : State) (k : Nat) : Settles w s (s.settleRegion k) := by
  unfold State.settleRegion
  extract_lets fed begun
  have feed : Settles w s fed := .foldl _ (fun s c => s.loadShadow_settles k c) _ s
  have begin_ : Settles w fed begun := .trans (fed.askMode_settles k) (State.beginMvu_settles _ k)
  exact feed.trans (begin_.trans (.trans (State.passWin_settles _ k 64 _) (State.passWin_settles _ k 68 _)))

/-- Where no pass waits to begin, none does. -/
theorem State.beginPasses_of_ready {s : State} (h : ∀ e ∈ s.passes, e.2.ready = true) : s.beginPasses = s := by
  have none : ∀ (l : List (Nat × RunPass)), (∀ e ∈ l, e.2.ready = true) →
      l.foldl (fun s e => if s.mayBegin e.2 then s.readyPass e.1 e.2 else s) s = s := by
    intro l hl
    induction l with
    | nil => rfl
    | cons e l ih =>
      have waits : s.mayBegin e.2 = false := by simp [State.mayBegin, hl e (by simp)]
      rw [List.foldl_cons, waits]
      exact ih fun x hx => hl x (by simp [hx])
  exact none s.passes h

theorem State.beginPasses_settles (s : State) : Settles true s s.beginPasses := by
  refine Settles.foldl _ (fun s e => ?_) _ s
  split
  · exact s.readyPass_settles _ _ (.inl rfl)
  · exact .refl true s

theorem State.settle_settles (s : State) : Settles true s s.settle :=
  s.beginPasses_settles.trans (.foldl _ (fun s k => s.settleRegion_settles k) _ _)

theorem State.settle_settles_of_ready {s : State} (h : ∀ e ∈ s.passes, e.2.ready = true) : Settles false s s.settle := by
  rw [State.settle_eq, State.beginPasses_of_ready h]
  exact .foldl _ (fun s k => s.settleRegion_settles k) _ s

/-- What settling keeps of the regions, the memories, the works and everything else. -/
theorem passesSettle : Claims.PassesSettle := by
  intro s u
  have kept : Settles true s u := s.settle_settles
  refine ⟨fun k => ?_, kept.lp, kept.spPoison, kept.ids, fun ready => (State.settle_settles_of_ready ready).sp rfl, s.settle_pass.eq⟩
  have field {α : Type} (f : Region → α) := congrArg f (kept.still k)
  exact ⟨field Region.ovfCnt, field Region.lossCnt, field Region.nonfinite, field Region.rerunCnt, field Region.trip, field Region.swapCnt,
    field Region.busyCyc, field Region.gateRow, field Region.gateCells, field Region.mvuBusy, field Region.parity, field Region.mvuParity,
    field Region.halted, field Region.tcoreFault, field Region.shape, field Region.dirBack, field Region.tiles, kept.active k⟩

end Sys2Proof.Machine
end

section
/-! PROOFS. Stored weights and stationary registers (R40, R72, R73), descriptors that are refused (R47, R68), and parity faults (R94). -/
namespace Sys2Proof.Machine

/-! ## Stored weights (R40) -/

theorem weightAt_cb4_low (rd : Nat → Byte) (o k : Nat) : (weightAt rd 0 o (2 * k)).toNat = (rd (o + k)).toNat % 16 := by
  simp [weightAt]
  omega

theorem weightAt_cb4_high (rd : Nat → Byte) (o k : Nat) : (weightAt rd 0 o (2 * k + 1)).toNat = (rd (o + k)).toNat / 16 := by
  have half : (2 * k + 1) / 2 = k := by omega
  have odd : ¬ (2 * k + 1) % 2 = 0 := by omega
  have byte := (rd (o + k)).isLt
  simp [weightAt, half]
  omega

theorem weightAt_byte (rd : Nat → Byte) (o k : Nat) {mode : Nat} (low : 1 ≤ mode) (high : mode ≤ 4) :
    (weightAt rd mode o k).toNat = (rd (o + k)).toNat := by
  have byte := (rd (o + k)).isLt
  rw [weightAt, if_neg (by omega), if_pos high, BitVec.toNat_ofNat]
  omega

theorem weightAt_word (rd : Nat → Byte) (o k : Nat) {mode : Nat} (wide : 5 ≤ mode) :
    (weightAt rd mode o k).toNat = (rd (o + 2 * k)).toNat + 256 * (rd (o + 2 * k + 1)).toNat := by
  have low := (rd (o + 2 * k)).isLt
  have high := (rd (o + 2 * k + 1)).isLt
  rw [weightAt, if_neg (by omega), if_neg (by omega)]
  simp [rd16, rdLe, leNat, List.range_succ]
  omega

/-! ## Stationary registers (R73) -/

/-- The value of a register is the value that the shadow feed has put into it, whatever its parity bit. -/
theorem withParity_value (x : BitVec 16) : BitVec.ofNat 16 (withParity x).toNat = x := by
  apply BitVec.eq_of_toNat_eq
  have bound := x.isLt
  simp only [withParity, bitAt, BitVec.toNat_ofNat]
  split <;> omega

/-- A register with two CB4 codes stands for their two codebook entries. -/
theorem regVals_twoCodes {d : LayerDesc} {shape : Nat} {a b : BitVec 16} (two : twoCodes d shape = true) (ha : a.toNat < 16) (hb : b.toNat < 16) :
    regVals d shape (withParity (regWord d shape [a, b])) =
      [weightVal d.mode d.opnd2Fp16 d.codebook a, weightVal d.mode d.opnd2Fp16 d.codebook b] := by
  have mode : d.mode = 0 := by
    simp only [twoCodes, Bool.and_eq_true, beq_iff_eq] at two
    exact two.1
  have word : (regWord d shape [a, b]).toNat = a.toNat + b.toNat * 16 := by
    simp [regWord, two]
    omega
  have low : (a.toNat + b.toNat * 16) % 16 = a.toNat := by omega
  have high : (a.toNat + b.toNat * 16) / 16 % 16 = b.toNat := by omega
  simp only [regVals, two, if_true, withParity_value, word, low, high, mode, weightVal, List.map_cons, List.map_nil]

/-- The value of an INT8 code does not change with its sign extension. -/
theorem int8Val_signExtend (c : BitVec 16) : int8Val ((BitVec.ofNat 8 c.toNat).signExtend 16) = int8Val c := by
  have low (x : BitVec 8) : BitVec.ofNat 8 (x.signExtend 16).toNat = x := by
    rw [BitVec.ofNat_toNat]
    refine BitVec.eq_of_getLsbD_eq fun i hi => ?_
    rw [BitVec.getLsbD_setWidth, BitVec.getLsbD_signExtend, if_pos hi]
    simp [hi, show i < 16 by omega]
  simp only [int8Val, low]

/-- Only the codebook modes look into the codebook. -/
theorem weightVal_codebook {mode : Nat} (h : ¬ mode ≤ 1) (opnd2 : Bool) (l l' : List (BitVec 16)) (w : BitVec 16) :
    weightVal mode opnd2 l w = weightVal mode opnd2 l' w := by
  unfold weightVal
  split
  · omega
  · omega
  all_goals rfl

/-- A register with one code stands for its weight. -/
theorem regVals_oneCode {d : LayerDesc} {shape : Nat} {a : BitVec 16} (one : twoCodes d shape = false) :
    regVals d shape (withParity (regWord d shape [a])) = [weightVal d.mode d.opnd2Fp16 d.codebook a] := by
  simp only [regVals, regWord, one, List.headD_cons, withParity_value, Bool.false_eq_true, if_false]
  by_cases book : d.mode ≤ 1
  · rcases (by omega : d.mode = 0 ∨ d.mode = 1) with h | h <;> simp [h, weightVal]
  · rw [if_neg book, if_neg book, weightVal_codebook book d.opnd2Fp16 d.codebook []]
    by_cases int8 : d.mode = 2
    · rw [if_pos int8, int8]
      exact congrArg (fun v => [v]) (int8Val_signExtend a)
    · rw [if_neg int8]

/-- Stored weights and what registers stand for. -/
theorem registerWords : Claims.RegisterWords :=
  ⟨fun rd o k => ⟨weightAt_cb4_low rd o k, weightAt_cb4_high rd o k, fun _ => weightAt_byte rd o k, fun _ => weightAt_word rd o k⟩,
    fun _ _ _ _ two ha hb => regVals_twoCodes two ha hb, fun _ _ _ one _ => regVals_oneCode one⟩

/-! ## Refused descriptors (R47, R68) -/

/-- A pass of work that has failed does not start; a refused descriptor of one of its regions gives its work BAD_PARAM. -/
theorem passRefused : Claims.PassRefused := by
  intro s id cls part idx poss cfg
  refine ⟨fun failed => by simp [State.startPass, failed], fun usable serves i k hi => ?_⟩
  intro p phys product bad
  have refused : ((List.range cfg.shares.length).filterMap fun i =>
      (s.physOf (s.shareOf id cls part poss idx cfg i).sh.lreg).map fun k => (k, s.shareOf id cls part poss idx cfg i)).any
        (fun e => !e.2.isAttn && (layerBad e.2.desc || codebookBad e.2.desc)) = true := by
    refine List.any_eq_true.2 ⟨(k, p), List.mem_filterMap.2 ⟨i, List.mem_range.2 hi, ?_⟩, by simpa [product] using bad⟩
    show Option.map _ (s.physOf p.sh.lreg) = some (k, p)
    rw [phys]
    rfl
  simp only [State.startPass, usable, refused, if_true]
  simp [serves]

/-! ## Parity faults (R94) -/

/-- A mask's bits once one has been set. -/
theorem maskBit_maskSet {w : Nat} (m : BitVec w) (i j : Nat) : maskBit (maskSet m i) j = (maskBit m j || decide (j < w ∧ i = j)) := by
  rw [maskBit, maskSet, BitVec.getLsbD_or, BitVec.getLsbD_ofNat, Nat.testBit_two_pow, Bool.decide_and]
  rfl

/-- A safety event leaves the compute regions and memories alone. -/
theorem State.faultUnit_cmp (s : State) (k : Nat) : (s.faultUnit k).cmp = s.cmp := by
  have h := (State.raise_frame s 0x08 (s.partOfPhys k) k).eq
  rw [State.faultUnit, h]

/-! ### The events counted -/

/-- As many safety events have been logged in both states. -/
def SameLogCount (s u : State) : Prop := u.safe.logCount = s.safe.logCount

theorem SameLogCount.trans {s t u : State} (h : SameLogCount s t) (k : SameLogCount t u) : SameLogCount s u := Eq.trans k h

theorem SameLogCount.foldl {β : Type} {f : State → β → State} (hf : ∀ s x, SameLogCount s (f s x)) (l : List β) (s : State) :
    SameLogCount s (l.foldl f s) :=
  foldl_keeps SameLogCount f (fun _ => rfl) (fun _ _ _ => .trans) hf l s

theorem State.faultPartGroups_logCount (s : State) (p : Nat) : SameLogCount s (s.faultPartGroups p) := by
  refine SameLogCount.foldl (fun s g => ?_) _ s
  obtain ⟨c, h⟩ := State.faultGroupOnly_cte s g 7
  split
  · simp only [h]
    split <;> rfl
  · rfl

theorem State.sendMessages_logCount (s : State) (named : MsgCfg → Bool) (code : Nat) : SameLogCount s (s.sendMessages named code) := by
  refine SameLogCount.foldl (fun s m => ?_) _ s
  dsimp only
  split <;> rfl

theorem State.enterPart_logCount (s : State) (p code : Nat) : SameLogCount s (s.enterPart p code) := by
  unfold State.enterPart
  split
  · rfl
  · have entered : SameLogCount s { s with safe := { s.safe with parts := maskSet s.safe.parts p } } := rfl
    exact entered.trans ((State.faultPartGroups_logCount _ p).trans (State.sendMessages_logCount _ _ code))

theorem State.enterPackage_logCount (s : State) (code : Nat) : SameLogCount s (s.enterPackage code) := by
  have entered : SameLogCount s { s with safe := { s.safe with package := true } } := rfl
  have sent := (SameLogCount.foldl State.faultPartGroups_logCount (List.range 8) { s with safe := { s.safe with package := true } }).trans
    (State.sendMessages_logCount _ (fun _ => true) code)
  have driven (v : State) : SameLogCount v v.drivePins := rfl
  exact entered.trans (sent.trans (driven _))

/-- Every safety event is counted once. -/
theorem State.raiseAt_logCount (s : State) (code part detail lvl : Nat) : (s.raiseAt code part detail lvl).safe.logCount = s.safe.logCount + 1 := by
  unfold State.raiseAt
  dsimp only
  generalize (if lvl = 1 ∧ part ≥ 8 then 0 else lvl) = k
  have logged := State.logEvent_logCount s code k (if k = 2 then 0xFF else part) detail
  generalize s.logEvent code k (if k = 2 then 0xFF else part) detail = u at logged
  rw [← logged]
  split
  · have latch : SameLogCount u (if eventReset code then { u with safe := { u.safe with latched := true } } else u) := by split <;> rfl
    generalize (if eventReset code then ({ u with safe := { u.safe with latched := true } } : State) else u) = v at latch
    rw [← latch]
    split
    · split
      · split <;> rfl
      · rfl
    · exact State.enterPackage_logCount _ code
  · split
    · split
      · split <;> rfl
      · exact SameLogCount.foldl (fun s p => s.enterPart_logCount p code) _ _
    · rfl

theorem State.faultUnit_logCount (s : State) (k : Nat) : (s.faultUnit k).safe.logCount = s.safe.logCount + 1 := State.raiseAt_logCount s _ _ _ _

/-! ### The faults -/

/-- The status of a piece of work once it has gathered one more. -/
theorem State.workStatus_addStatus (s : State) (id : WorkId) (st : Status) : (s.addStatus (some id) st).workStatus (some id) =
    if s.work id = none then stOk else mergeStatus (s.workStatus (some id)) st := by
  have found : (s.addStatus (some id) st).work id = (s.work id).map fun w => { w with status := mergeStatus w.status st } := by
    unfold State.work State.addStatus State.updWork
    generalize s.cmp.works = l
    induction l with
    | nil => rfl
    | cons w l ih => by_cases h : w.id = id <;> simp_all
  cases h : s.work id with
  | none => simp [State.workStatus, found, h]
  | some w => simp [State.workStatus, found, h]

/-- An uncorrectable error takes the place of a usable status. -/
theorem mergeStatus_ecc {st : Status} (usable : st.usable = true) : mergeStatus st stEcc = stEcc := by
  simp [mergeStatus, usable, show stEcc.usable = false from rfl]

theorem State.parityFaultStatus {s u : State} {id : WorkId} {w : Work} (works : u.cmp.works = (s.addStatus (some id) stEcc).cmp.works)
    (work : s.work id = some w) (usable : Status.usable w.status = true) : u.workStatus (some id) = stEcc := by
  have same : u.workStatus (some id) = (s.addStatus (some id) stEcc).workStatus (some id) := by
    simp only [State.workStatus, Option.bind_some, State.work, works]
  have status : s.workStatus (some id) = w.status := by simp [State.workStatus, work]
  rw [same, State.workStatus_addStatus, if_neg (by simp [work]), status, mergeStatus_ecc usable]

/-- Parity faults of stationary registers and of the code buffer. -/
theorem parityFaults : Claims.ParityFaults := by
  intro s k c id hc
  refine ⟨⟨_, rfl, ?_, fun i hi => ?_, ?_, fun w work usable => ?_, ?_⟩, ⟨_, rfl, ?_, ?_, ?_, fun w work usable => ?_⟩⟩
  · simp [State.parityFault, State.region, State.faultUnit_cmp, State.addStatus, State.updWork, State.setRegion, maskBit_maskSet, hc]
  · simp [State.parityFault, State.region, State.faultUnit_cmp, State.addStatus, State.updWork, State.setRegion, maskBit_maskSet, hi.symm]
  · exact State.faultUnit_logCount _ k
  · exact State.parityFaultStatus (by rw [State.parityFault, State.faultUnit_cmp]; rfl) work usable
  · exact (PassFrame.trans _ _ _ (PassFrame.trans _ _ _ (.of_cmp s _) (State.addStatus_pass _ _ _)) (State.faultUnit_pass _ k)).eq
  · simp [State.mvuParityFault, State.region, State.faultUnit_cmp, State.addStatus, State.updWork, State.setRegion]
  · simp [State.mvuParityFault, State.region, State.faultUnit_cmp, State.addStatus, State.updWork, State.setRegion]
  · exact State.faultUnit_logCount _ k
  · exact State.parityFaultStatus (by rw [State.mvuParityFault, State.faultUnit_cmp]; rfl) work usable

end Sys2Proof.Machine
end

section
/-! PROOFS. The end of a layer pass (R44, R57, R61 to R67, R71, R137): its counts, the trip decision, and the wide re-run. -/
namespace Sys2Proof.Machine

/-! ## The parts of a pass -/

theorem leadShare_mem {ends : List ShareEnd} {lead : ShareEnd} (h : leadShare ends = some lead) : lead ∈ ends := by
  have from_ : ∀ (l : List ShareEnd) (m : Option ShareEnd), l.foldl (fun m e => match m with
      | none => some e
      | some a => if e.p.sh.lreg < a.p.sh.lreg then some e else some a) m = some lead → m = some lead ∨ lead ∈ l := by
    intro l
    induction l with
    | nil => exact fun m h => .inl h
    | cons e l ih =>
      intro m h
      rcases ih _ h with taken | later
      · cases m with
        | none => simp_all
        | some a => dsimp only at taken; split at taken <;> simp_all
      · simp [later]
  simpa using from_ ends none h

theorem State.key_of_mem_shareEnds {s : State} {key : PassKey} {e : ShareEnd} (h : e ∈ s.shareEnds key) : e.p.key = key := by
  simp only [State.shareEnds, List.mem_map, List.mem_filter, beq_iff_eq] at h
  obtain ⟨x, ⟨_, hx⟩, rfl⟩ := h
  exact hx

theorem leadShare_key {s : State} {key : PassKey} {lead : ShareEnd} (led : leadShare (s.shareEnds key) = some lead) : lead.p.key = key :=
  State.key_of_mem_shareEnds (leadShare_mem led)

theorem State.shareEnds_advance (s : State) (t : Nat) (key : PassKey) : (s.advance t).shareEnds key = s.shareEnds key := rfl

/-! ## The counts (R44, R52, R53, R71) -/

/-- A region with the counts of a pass's part added. -/
def Region.counted (x : Region) (e : ShareEnd) : Region :=
  let n := runCounts e.cols.flatten
  { x with ovfCnt := satAdd x.ovfCnt n.1, lossCnt := satAdd x.lossCnt n.2.1, nonfinite := satAdd x.nonfinite n.2.2,
           mvuBusy := satAdd x.mvuBusy (if e.p.cfg.onMvu && !e.p.isAttn then e.p.mvuReads else 0) }

theorem State.addEnd_eq (s : State) (e : ShareEnd) : s.addEnd e = s.setRegion e.k ((s.region e.k).counted e) := rfl

/-- A region but for the counts that a pass adds to. -/
def Region.uncounted (x : Region) : Region := { x with ovfCnt := 0, lossCnt := 0, nonfinite := 0, mvuBusy := 0 }

/-- Counts added change nothing else of any region, and nothing but the regions. -/
structure AddsCounts (s u : State) : Prop where
  uncounted : ∀ k, (u.region k).uncounted = (s.region k).uncounted
  eq : u = { s with cmp := { s.cmp with regions := u.cmp.regions } }

theorem State.addEnds_adds (s : State) (ends : List ShareEnd) : AddsCounts s (ends.foldl State.addEnd s) := by
  refine foldl_keeps AddsCounts _ (fun s => ⟨fun _ => rfl, rfl⟩) (fun a b c ab bc => ⟨fun k => (bc.uncounted k).trans (ab.uncounted k), ?_⟩)
    (fun s e => ⟨fun k => ?_, rfl⟩) ends s
  · rw [bc.eq, ab.eq]
  · rw [State.addEnd_eq, State.region_setRegion]
    split
    · next h => rw [h]; rfl
    · rfl

theorem State.region_addEnds_ne (s : State) {ends : List ShareEnd} {k : Nat} (h : k ∉ ends.map ShareEnd.k) :
    (ends.foldl State.addEnd s).region k = s.region k := by
  induction ends generalizing s with
  | nil => rfl
  | cons e ends ih =>
    simp only [List.map_cons, List.mem_cons, not_or] at h
    rw [List.foldl_cons, ih _ h.2, State.addEnd_eq, State.region_setRegion, if_neg h.1]

/-- Each region of a pass adds the counts of its own part. -/
theorem State.region_addEnds (s : State) {ends : List ShareEnd} (once : (ends.map ShareEnd.k).Nodup) {e : ShareEnd} (h : e ∈ ends) :
    (ends.foldl State.addEnd s).region e.k = (s.region e.k).counted e := by
  induction ends generalizing s with
  | nil => simp at h
  | cons a ends ih =>
    obtain ⟨fresh, once⟩ := List.nodup_cons.1 once
    rw [List.foldl_cons]
    rcases List.mem_cons.1 h with rfl | later
    · rw [State.region_addEnds_ne _ fresh, State.addEnd_eq, State.region_setRegion, if_pos rfl]
    · have ne : e.k ≠ a.k := fun same => fresh (same ▸ List.mem_map_of_mem later)
      rw [ih _ once later, State.addEnd_eq, State.region_setRegion, if_neg ne]

/-! ## The trip decision (R61, R64, R137) -/

/-- Whether a position's place is usable depends on the works alone. -/
theorem State.placeUsable_congr {s u : State} (h : u.cmp.works = s.cmp.works) (p : RunPass) : u.placeUsable p = s.placeUsable p := by
  funext pos
  simp only [State.placeUsable, State.workStatus, State.posStatus, Option.bind_some, State.work, h]

/-- A recorded trip changes one region's trip register and, of class 0, what a safety event changes. -/
theorem State.recordTrip_cmp (s : State) (k layer : Nat) (c0 : Bool) (trip : Bool × Bool) (again : Bool) :
    (s.recordTrip k layer c0 trip again).cmp =
      (s.setRegion k { s.region k with trip := tripWord (s.region k).trip layer c0 again trip.2 trip.1 }).cmp := by
  unfold State.recordTrip
  dsimp only
  split
  · rw [(State.raise_frame _ _ _ _).eq]
    rfl
  · rfl

theorem State.region_recordTrip (s : State) (k layer : Nat) (c0 : Bool) (trip : Bool × Bool) (again : Bool) (j : Nat) :
    (s.recordTrip k layer c0 trip again).region j =
      if j = k then { s.region k with trip := tripWord (s.region k).trip layer c0 again trip.2 trip.1 } else s.region j := by
  rw [← State.region_setRegion]
  simp only [State.region, State.recordTrip_cmp]

theorem State.recordTrip_works (s : State) (k layer : Nat) (c0 : Bool) (trip : Bool × Bool) (again : Bool) :
    (s.recordTrip k layer c0 trip again).cmp.works = s.cmp.works := by
  rw [State.recordTrip_cmp]
  rfl

theorem State.placeUsable_recordTrip (s : State) (k layer : Nat) (c0 : Bool) (trip : Bool × Bool) (again : Bool) (p : RunPass) :
    (s.recordTrip k layer c0 trip again).placeUsable p = s.placeUsable p :=
  State.placeUsable_congr (State.recordTrip_works s k layer c0 trip again) p

/-- What the decision leaves alone. -/
structure Decides (k : Nat) (s u : State) : Prop where
  region : ∀ j, j ≠ k → u.region j = s.region j
  sp : u.cmp.sp = s.cmp.sp
  works : u.cmp.works = s.cmp.works

theorem State.decideTrips_decides (s : State) (lead : ShareEnd) (gs : List (List Nat × List ColOut)) :
    Decides lead.k s (s.decideTrips lead gs).1 := by
  induction gs generalizing s with
  | nil => exact ⟨fun _ _ => rfl, rfl, rfl⟩
  | cons g gs ih =>
    rw [State.decideTrips]
    split
    · have later := ih (s.recordTrip lead.k lead.p.desc.layerId (lead.p.cls == 0) (tripOf lead.p.desc g.2) (lead.p.marked && g.1.all (s.placeUsable lead.p)))
      refine ⟨fun j hj => ?_, ?_, ?_⟩
      · rw [later.region j hj, State.region_recordTrip, if_neg hj]
      · rw [later.sp, State.recordTrip_cmp]
        rfl
      · rw [later.works, State.recordTrip_works]
    · exact ih s

/-- Whether a group's results trip (R61). -/
def tripped (d : LayerDesc) (cols : List ColOut) : Prop := (runCounts cols).1 > 0 ∨ (runCounts cols).2.1 > d.lossLimit

theorem tripOf_iff (d : LayerDesc) (cols : List ColOut) : ((tripOf d cols).1 || (tripOf d cols).2) = true ↔ tripped d cols := by
  simp [tripOf, tripped]

/-- Where nothing trips, nothing is decided. -/
theorem State.decideTrips_untripped (s : State) (lead : ShareEnd) {gs : List (List Nat × List ColOut)}
    (h : ∀ g ∈ gs, ¬ tripped lead.p.desc g.2) : s.decideTrips lead gs = (s, []) := by
  induction gs with
  | nil => rfl
  | cons g gs ih =>
    rw [State.decideTrips]
    split
    · next trip => exact absurd ((tripOf_iff _ _).1 trip) (h g (by simp))
    · exact ih fun x hx => h x (by simp [hx])

/-- The places that are discarded: those of the tripped groups of a marked pass whose status is usable. -/
theorem State.mem_decideTrips (s : State) (lead : ShareEnd) (gs : List (List Nat × List ColOut)) (pos : Nat) :
    pos ∈ (s.decideTrips lead gs).2 ↔
      ∃ g ∈ gs, pos ∈ g.1 ∧ tripped lead.p.desc g.2 ∧ (lead.p.marked && g.1.all (s.placeUsable lead.p)) = true := by
  induction gs generalizing s with
  | nil => simp [State.decideTrips]
  | cons g gs ih =>
    rw [State.decideTrips]
    simp only [List.mem_cons, exists_eq_or_imp]
    split
    · next trip =>
      have hit := (tripOf_iff _ _).1 trip
      dsimp only
      split
      · next again => simp only [List.mem_append, ih, State.placeUsable_recordTrip, hit, again, and_true]
      · next kept => simp only [ih, State.placeUsable_recordTrip, kept, and_false, false_or, Bool.false_eq_true]
    · next calm =>
      have miss : ¬ tripped lead.p.desc g.2 := fun h => calm ((tripOf_iff _ _).2 h)
      simp only [ih, miss, false_and, and_false, false_or]

/-! ## The rows -/

/-- A re-run counted by the lead region, and the status that its results carry (R65, R67). -/
def State.rerunEnded (c : State) (lead : ShareEnd) : State :=
  (c.setRegion lead.k { c.region lead.k with rerunCnt := satInc (c.region lead.k).rerunCnt }).rerunStatus lead.p

theorem RunPass.isAttn_of_product {p : RunPass} (h : p.cfg.use = .product) : p.isAttn = false := by
  simp [RunPass.isAttn, h]

theorem State.parityFaults_none (s : State) (id : WorkId) : s.parityFaults id {} = s := rfl

/-- Products are written at the places whose status is usable. -/
theorem State.useResults_product {lead : ShareEnd} (h : lead.p.cfg.use = .product) (s : State) (ends : List ShareEnd) (o : PassOuts)
    (places : List Nat) : s.useResults ends lead o places =
      ends.foldl (fun v e => v.writeResults e (places.filter (s.placeUsable lead.p))) s := by
  simp [State.useResults, h]

/-- A pass of products that is over leaves its regions, and what waits for it goes on. -/
theorem State.endPass_product {p : RunPass} (h : p.cfg.use = .product) (s : State) : s.endPass p = (s.removePass p.key).settle := by
  simp [State.endPass, h]

section
variable {s : State} {work : WorkId} {idx : Nat} {ends : List ShareEnd} {lead : ShareEnd} (hp : s.powered = true)
  (parts : s.shareEnds ⟨work, idx⟩ = ends) (led : leadShare ends = some lead) (product : lead.p.cfg.use = .product)
include hp parts led product

/-- LAYER_PASS_END of a pass of products whose parts are at their end. -/
theorem exec_layerPassEnd_product (t : Nat) (done : ∀ e ∈ ends, (s.advance t).shareDone e.k e.p = true ∧ e.p.wide = none) :
    let r := (ends.foldl State.addEnd (s.advance t)).decideTrips lead (tripGroups lead ends)
    let w := ends.foldl (fun v e => v.writeResults e ((lead.places.filter fun pos => !r.2.contains pos).filter (r.1.placeUsable lead.p))) r.1
    exec (.layerPassEnd t ⟨work, idx, {}⟩) s = .next (if r.2 = [] then (w.removePass ⟨work, idx⟩).settle else w.rerunPass ends r.2) := by
  have key : lead.p.key = ⟨work, idx⟩ := leadShare_key (parts.symm ▸ led)
  have all : ends.all (fun e => (s.advance t).shareDone e.k e.p && e.p.wide.isNone) = true := by simpa using done
  have go : (!(s.advance t).powered || !ends.all fun e => (s.advance t).shareDone e.k e.p && e.p.wide.isNone) = false := by
    rw [all, State.advance_powered, hp]
    rfl
  simp only [exec, execLayerPassEnd, State.shareEnds_advance, parts, led, go, State.parityFaults_none, RunPass.isAttn_of_product product,
    State.useResults_product product, State.endPass_product product, key, List.foldl_nil, Bool.false_eq_true, if_false]

/-- WIDE_RERUN_COMPLETE of a pass of products whose parts are at their end. -/
theorem exec_wideRerunComplete_product (t : Nat) (done : ∀ e ∈ ends, (s.advance t).shareDone e.k e.p = true ∧ e.p.wide.isSome = true) :
    let v := (ends.foldl State.addEnd (s.advance t)).rerunEnded lead
    exec (.wideRerunComplete t ⟨work, idx, {}⟩) s =
      .next ((ends.foldl (fun u e => u.writeResults e (lead.places.filter (v.placeUsable lead.p))) v).removePass ⟨work, idx⟩).settle := by
  have key : lead.p.key = ⟨work, idx⟩ := leadShare_key (parts.symm ▸ led)
  have all : ends.all (fun e => (s.advance t).shareDone e.k e.p && e.p.wide.isSome) = true := by simpa using done
  have go : (!(s.advance t).powered || !ends.all fun e => (s.advance t).shareDone e.k e.p && e.p.wide.isSome) = false := by
    rw [all, State.advance_powered, hp]
    rfl
  simp only [exec, execWideRerunComplete, State.shareEnds_advance, parts, led, go, State.parityFaults_none, State.rerunEnded,
    State.useResults_product product, State.endPass_product product, key, List.foldl_nil, Bool.false_eq_true, if_false]

end

/-! ## Template steps (R137) -/

/-- The weights of each 128-column group of a pass's part (R60). -/
def RunPass.columnGroups (p : RunPass) (x : PassIn) : List (List FVal) :=
  (List.range ((p.sh.count + 127) / 128)).map fun g => (List.range (min 128 (p.sh.count - 128 * g))).flatMap fun i => p.weights x (128 * g + i)

/-- The anchors of one position of a template step: those of the table, or those that its own activations give. -/
theorem RunPass.anchorRows_getD {p : RunPass} (x : PassIn) {pos : Nat} (template : p.template = true) (hpos : pos < p.vecs.length) :
    (p.anchorRows x).getD pos [] =
      if p.dynamic then (p.columnGroups x).map fun ws => dynAnchor (p.acts x pos) ws else p.desc.anchors.map Prod.fst := by
  unfold RunPass.anchorRows RunPass.columnGroups
  cases p.dynamic <;> simp [template, hpos]

/-- In a template step the anchors of a position are those of the pass that it alone would be. -/
theorem RunPass.anchorRows_template (p : RunPass) (x : PassIn) {pos : Nat} (template : p.template = true) (hpos : pos < p.vecs.length) :
    (p.anchorRows x).getD pos [] = (({ p with vecs := [p.vecs.getD pos 0] } : RunPass).anchorRows x).getD 0 [] := by
  rw [RunPass.anchorRows_getD x template hpos,
    RunPass.anchorRows_getD (p := { p with vecs := [p.vecs.getD pos 0] }) x template Nat.zero_lt_one]
  rfl

theorem State.mem_decideTrips_template (s : State) {lead : ShareEnd} (ends : List ShareEnd) (template : lead.p.template = true) (pos : Nat) :
    pos ∈ (s.decideTrips lead (tripGroups lead ends)).2 ↔ pos < lead.p.vecs.length ∧ tripped lead.p.desc (colsAt ends pos) ∧
      lead.p.marked = true ∧ s.placeUsable lead.p pos = true := by
  rw [State.mem_decideTrips]
  simp [tripGroups, template, ShareEnd.places]

/-- A pass of a template step. -/
theorem templatePass : Claims.TemplatePass := by
  refine ⟨fun p x pos => RunPass.anchorRows_template p x, fun s lead ends template => ?_, fun s t idx work lead hp => ?_⟩
  · have decides := s.decideTrips_decides lead (tripGroups lead ends)
    refine ⟨s.mem_decideTrips_template ends template, fun calm => ?_, decides.region, decides.sp, decides.works⟩
    rw [State.decideTrips_untripped]
    simpa [tripGroups, template, ShareEnd.places, tripped] using calm
  · exact fun led done product _ _ => exec_layerPassEnd_product hp rfl led product t done

end Sys2Proof.Machine
end

section
/-! PROOFS. The end of a wide re-run (R65, R67). -/
namespace Sys2Proof.Machine

theorem Status.usable_mergeStatus_rerun {st : Status} (h : st.usable = true) : (mergeStatus st stWideRerun).usable = true := by
  unfold mergeStatus
  rw [if_pos h]
  split
  · exact h
  · rfl

/-- Every place of a pass that is no template step is usable while its work is. -/
theorem State.places_usable {v : State} {lead : ShareEnd} (template : lead.p.template = false)
    (usable : (v.workStatus (some lead.p.key.work)).usable = true) : lead.places.filter (v.placeUsable lead.p) = lead.places :=
  List.filter_eq_self.2 fun pos _ => by simp [State.placeUsable, template, usable]

section
variable (c : State) {lead : ShareEnd} (template : lead.p.template = false)
include template

/-- A pass that is no template step gives its work the status of a re-run. -/
theorem State.rerunEnded_eq : c.rerunEnded lead =
    (c.setRegion lead.k { c.region lead.k with rerunCnt := satInc (c.region lead.k).rerunCnt }).addStatus (some lead.p.key.work) stWideRerun := by
  simp [State.rerunEnded, State.rerunStatus, template]

theorem State.region_rerunEnded (k : Nat) : (c.rerunEnded lead).region k =
    if k = lead.k then { c.region lead.k with rerunCnt := satInc (c.region lead.k).rerunCnt } else c.region k := by
  rw [State.rerunEnded_eq c template]
  exact State.region_setRegion c lead.k k _

theorem State.counts_rerunEnded (k : Nat) : ((c.rerunEnded lead).region k).ovfCnt = (c.region k).ovfCnt ∧
    ((c.rerunEnded lead).region k).lossCnt = (c.region k).lossCnt ∧ ((c.rerunEnded lead).region k).nonfinite = (c.region k).nonfinite := by
  rw [State.region_rerunEnded c template]
  split
  · next h => subst h; exact ⟨rfl, rfl, rfl⟩
  · exact ⟨rfl, rfl, rfl⟩

theorem State.workStatus_rerunEnded : (c.rerunEnded lead).workStatus (some lead.p.key.work) =
    if c.work lead.p.key.work = none then stOk else mergeStatus (c.workStatus (some lead.p.key.work)) stWideRerun := by
  rw [State.rerunEnded_eq c template]
  exact State.workStatus_addStatus _ _ _

theorem State.rerunEnded_frame : c.rerunEnded lead = { c with cmp := { c.cmp with
    regions := (c.rerunEnded lead).cmp.regions, works := (c.rerunEnded lead).cmp.works } } := by
  rw [State.rerunEnded_eq c template]
  rfl

end

/-- The end of a wide re-run. -/
theorem wideRerun : Claims.WideRerun := by
  intro s t idx work lead hp ends led once done product template usable
  have key : lead.p.key = ⟨work, idx⟩ := leadShare_key led
  have run := exec_wideRerunComplete_product hp rfl led product t done
  have counts := (s.advance t).addEnds_adds ends
  have part {e} (h : e ∈ ends) := (s.advance t).region_addEnds once h
  generalize hc : ends.foldl State.addEnd (s.advance t) = c at run counts part
  have works : c.cmp.works = s.cmp.works := by rw [counts.eq]; rfl
  have gathered := State.workStatus_rerunEnded c template
  have status : (c.workStatus (some work)) = s.workStatus (some work) := by simp only [State.workStatus, Option.bind_some, State.work, works]
  have found : c.work work = s.work work := by simp only [State.work, works]
  rw [key] at gathered
  dsimp only at gathered
  rw [status, found] at gathered
  have still : ((c.rerunEnded lead).workStatus (some lead.p.key.work)).usable = true := by
    rw [key]
    dsimp only
    rw [gathered]
    split
    · rfl
    · exact Status.usable_mergeStatus_rerun usable
  dsimp only at run
  rw [State.places_usable template still] at run
  refine ⟨c.rerunEnded lead, _, run, fun e he => ?_, fun k => ?_, gathered, ?_, rfl⟩
  · obtain ⟨ovf, loss, nonfinite⟩ := State.counts_rerunEnded c template e.k
    rw [ovf, loss, nonfinite, part he]
    exact ⟨rfl, rfl, rfl⟩
  · have kept : (c.region k).rerunCnt = (s.region k).rerunCnt ∧ (c.region k).trip = (s.region k).trip :=
      have same := counts.uncounted k
      have rerunCnt := congrArg Region.rerunCnt same
      have trip := congrArg Region.trip same
      ⟨rerunCnt, trip⟩
    rw [State.region_rerunEnded c template, ← kept.1, ← kept.2]
    split
    · next h => subst h; exact ⟨rfl, rfl⟩
    · exact ⟨rfl, rfl⟩
  · refine (State.rerunEnded_frame c template).trans ?_
    rw [counts.eq]
    rfl

end Sys2Proof.Machine
end

section
/-! PROOFS. Layer passes: the state in which a discarded pass is not re-run (R64, R65). -/
namespace Sys2Proof.Machine

/-- The passes under way once a command or event is over. -/
def passesAfter : Out → List (Nat × RunPass)
  | .next u => u.passes
  | _ => []

/-- A part whose region table lists region 0 twice: the entry that every read of the region finds holds no pass, and the one behind it holds a
marked pass that trips. -/
def twiceListed : State :=
  let s := passing (onePass 1 2 true false)
  { s with cmp := { s.cmp with regions := (0, {}) :: s.cmp.regions } }

/-- The pass of `twiceListed` with its result, which counts one overflow. -/
def hiddenEnd : ShareEnd := ⟨0, onePass 1 2 true false, [[⟨0, 1, 0⟩]]⟩

/-- The table of `twiceListed` is not in canonical form. -/
theorem twiceListed_not_canonical : tblWf {} twiceListed.cmp.regions = false := by decide

theorem twiceListed_ends : twiceListed.shareEnds ⟨.cmd 1 7, 0⟩ = [hiddenEnd] := by decide

/-- The end of the hidden pass writes region 0 anew, and leaves no pass to be re-run. -/
theorem twiceListed_passesAfter : passesAfter (exec (.layerPassEnd 0 ⟨.cmd 1 7, 0, {}⟩) twiceListed) = [] := by decide

/-- A discarded pass is not re-run in a region whose entry it does not stand in. -/
theorem not_layerPass : ¬ Claims.LayerPass := by
  intro h
  have claim := h twiceListed 0 0 (.cmd 1 7) hiddenEnd rfl
  simp only [twiceListed_ends] at claim
  obtain ⟨u, run, _, _, _, rerun, _⟩ := claim rfl (by decide) (by decide) rfl rfl (by decide)
  obtain ⟨q, present, _⟩ := (rerun (by decide) (by decide)).1 hiddenEnd (by decide)
  have gone : u.passes = [] := (congrArg passesAfter run).symm.trans twiceListed_passesAfter
  simp [gone] at present

/-- Refutes O12: the wide re-run of a discarded pass is put under way in the region that a read of the region table finds. Where the table lists the
region twice and the pass stands in the entry that no read finds, the pass is counted and discarded, and no part of it is re-run. The statement
ranges over such tables too; it has no hypothesis that the table is in canonical form. The statement's other parts hold: `registerWords`,
`passesSettle`, `passRefused`, `wideRerun`, `templatePass` and `parityFaults`. -/
theorem not_layerPasses : ¬ Obligations.LayerPasses := by
  intro ⟨_, _, _, layerPass, _⟩
  exact not_layerPass layerPass

end Sys2Proof.Machine
end

section
/-! PROOFS. Memory commands (R308): what they write, read and refuse. -/
namespace Sys2Proof.Machine

/-! ## What the start of a command leaves of its context -/

theorem State.begin_part (s : State) (c : Nat) (p : Packet) (cls : Nat) : ((s.begin_ c p cls).1.ctx c).part = (s.ctx c).part := by
  obtain ⟨f, i, h⟩ := State.begin_ctx s c p cls
  rw [h]

theorem State.begin_func (s : State) (c : Nat) (p : Packet) (cls : Nat) : ((s.begin_ c p cls).1.ctx c).func = (s.ctx c).func := by
  obtain ⟨f, i, h⟩ := State.begin_ctx s c p cls
  rw [h]

/-! ## Reads and writes by address -/

/-- A scratchpad write does not depend on the command processor. -/
theorem State.spWrite_cmd (s : State) (m : Cmd) (a : Nat) (bs : List Byte) :
    ({ s with cmd := m } : State).spWrite a bs = { s.spWrite a bs with cmd := m } := by
  induction bs generalizing s a with
  | nil => rfl
  | cons b bs ih =>
    have key : ({ s with cmd := m } : State).spaKey a = s.spaKey a := rfl
    simp only [State.spWrite, key]
    cases s.spaKey a with
    | none => exact ih s (a + 1)
    | some k => exact ih { s with cmp := { s.cmp with sp := memSet s.cmp.sp k b } } (a + 1)

/-- What a scratchpad write leaves of tables, at the start of a command. -/
theorem State.begin_tablesBad (s : State) (c : Nat) (p : Packet) (cls a n : Nat) (bs : List Byte) :
    ((s.begin_ c p cls).1.spWrite a bs).tablesBad a n = (s.spWrite a bs).tablesBad a n := by
  rw [State.begin_eq, State.spWrite_cmd]
  rfl

theorem State.begin_memTake (s : State) (c : Nat) (p : Packet) (cls part : Nat) : (s.begin_ c p cls).1.memTake part p = s.memTake part p := by
  rw [State.begin_eq]
  rfl

theorem State.spRead_eq_map (s : State) (a n : Nat) : s.spRead a n = (List.range n).map fun i => s.spByte (a + i) := by
  induction n generalizing a with
  | zero => rfl
  | succ n ih => simp [State.spRead, ih, List.range_succ_eq_map, Nat.add_assoc, Nat.add_comm 1]

theorem memRead_eq_map (m : Mem) (a n : Nat) : memRead m a n = (List.range n).map fun i => memGet m (a + i) := by
  induction n generalizing a with
  | zero => rfl
  | succ n ih => simp [memRead, ih, List.range_succ_eq_map, Nat.add_assoc, Nat.add_comm 1]

/-- Without poisoned lines no range is poisoned. -/
theorem State.spPoisoned_of_clean {s : State} (clean : s.cmp.spPoison = []) (a n : Nat) : s.spPoisoned a n = false := by
  simp only [State.spPoisoned, clean, List.any_eq_false]
  intro l _
  split <;> simp

theorem State.lpPoisoned_of_clean {s : State} (clean : s.cmp.lpPoison = []) (a n : Nat) : s.lpPoisoned a n = false := by
  simp [State.lpPoisoned, clean]

theorem takeWhile_true {α : Type} (l : List α) : l.takeWhile (fun _ => true) = l := List.takeWhile_eq_self_iff.2 fun _ _ => rfl

/-- A read of clean scratchpad lines gives the whole range. -/
theorem State.memTake_sp {s : State} {p : Packet} (space : u8 p 16 = 0) (clean : s.cmp.spPoison = []) (part : Nat) :
    s.memTake part p = s.spRead (u64 p 24) (u32 p 20) := by
  simp [State.memTake, space, State.spPoisoned_of_clean clean, State.spRead_eq_map, takeWhile_true]

/-- A read of clean LPDDR words gives the whole range. -/
theorem State.memTake_lp {s : State} {p : Packet} (space : u8 p 16 = 1) (clean : s.cmp.lpPoison = []) (part : Nat) :
    s.memTake part p = memRead s.cmp.lp ((s.partCfg part).lpBase + u64 p 24) (u32 p 20) := by
  simp [State.memTake, space, State.lpPoisoned_of_clean clean, memRead_eq_map, takeWhile_true]

theorem State.memPut_sp {p : Packet} (space : u8 p 16 = 0) (s : State) (part : Nat) (bs : List Byte) :
    s.memPut part p bs = s.spWrite (u64 p 24) bs := if_pos space

/-- Bytes put into LPDDR at the start of a command change LPDDR alone. -/
theorem State.begin_memPut_lp {p : Packet} (space : u8 p 16 = 1) (s : State) (c cls part : Nat) (bs : List Byte) :
    (s.begin_ c p cls).1.memPut part p bs = { (s.begin_ c p cls).1 with
      cmp := { s.cmp with lp := memWrite s.cmp.lp ((s.partCfg part).lpBase + u64 p 24) bs } } := by
  rw [State.memPut, if_neg (by omega), State.begin_eq]
  rfl

/-- A byte of the run that is written reads back. -/
theorem memGet_memWrite_inside (m : Mem) (a j : Nat) (bs : List Byte) (h : j < bs.length) : memGet (memWrite m a bs) (a + j) = bs.getD j 0 := by
  rw [memGet_memWrite, if_pos (by omega), Nat.add_sub_cancel_left]

/-! ## The commands -/

section
variable {s : State} {c : Nat} {p : Packet} (checked : chkMem s c p = none)
include checked

/-- MEM_WRITE of data that the tables take. -/
theorem exec_memWrite_accepted (starts : s.Starts c p 0x0401) {d : List Byte} (full : u32 p 20 ≤ d.length)
    (tables : u8 p 16 = 0 → (s.spWrite (u64 p 24) (d.take (u32 p 20))).tablesBad (u64 p 24) (u32 p 20) = false) :
    let b := s.begin_ c p (s.ctx c).cls
    exec (.memWrite c p (.data d)) s = .next ((b.1.memPut (s.ctx c).part p (d.take (u32 p 20))).complete b.2 stOk []) := by
  have taken : ¬ (u8 p 16 = 0 ∧ (((s.begin_ c p (s.ctx c).cls).1.memPut (s.ctx c).part p (d.take (u32 p 20))).tablesBad (u64 p 24) (u32 p 20)
      = true)) := by
    rintro ⟨space, bad⟩
    rw [State.memPut_sp space, State.begin_tablesBad, tables space] at bad
    exact Bool.false_ne_true bad
  simp only [exec, execMemWrite, checked, State.command_starts starts, State.begin_part, Nat.min_eq_right full, if_neg taken,
    if_neg (Nat.not_lt.2 full), State.replyNow]

/-- MEM_WRITE of data that would leave a codebook or scales refused (R47, R49). -/
theorem exec_memWrite_refused (starts : s.Starts c p 0x0401) {d : List Byte} (full : u32 p 20 ≤ d.length) (space : u8 p 16 = 0)
    (tables : (s.spWrite (u64 p 24) (d.take (u32 p 20))).tablesBad (u64 p 24) (u32 p 20) = true) :
    let b := s.begin_ c p (s.ctx c).cls
    exec (.memWrite c p (.data d)) s = .next (b.1.complete b.2 stBadParam []) := by
  simp only [exec, execMemWrite, checked, State.command_starts starts, Nat.min_eq_right full, State.memPut_sp space, State.begin_tablesBad,
    tables, space, and_self, if_true]

/-- MEM_WRITE whose data cannot be read from host memory (R453). -/
theorem exec_memWrite_failed (starts : s.Starts c p 0x0401) :
    let b := s.begin_ c p (s.ctx c).cls
    exec (.memWrite c p .failed) s = .next (b.1.complete b.2 stEcc []) := by
  simp only [exec, execMemWrite, checked, State.command_starts starts]

theorem exec_memFill (starts : s.Starts c p 0x0403) :
    let b := s.begin_ c p (s.ctx c).cls
    exec (.memFill c p) s = .next ((b.1.memPut (s.ctx c).part p (List.replicate (u32 p 20) 0)).complete b.2 stOk []) := by
  simp only [exec, execMemFill, checked, State.command_starts starts, State.begin_part, State.replyNow]

/-- MEM_READ of a range without poisoned data. -/
theorem exec_memRead_whole (starts : s.Starts c p 0x0402) {bs : List Byte} (taken : s.memTake (s.ctx c).part p = bs) (whole : bs.length = u32 p 20) :
    let b := s.begin_ c p (s.ctx c).cls
    exec (.memRead c p) s = .next ((b.1.writeFunc (s.ctx c).func (u64 p 32) bs).complete b.2 stOk []) := by
  simp only [exec, execMemRead, checked, State.command_starts starts, State.begin_part, State.begin_func, State.begin_memTake, taken,
    if_neg (Nat.not_lt.2 whole.ge), State.replyNow]

/-- MEM_READ of a range in which poisoned data lies (R457). -/
theorem exec_memRead_poisoned (starts : s.Starts c p 0x0402) (short : (s.memTake (s.ctx c).part p).length < u32 p 20) :
    let b := s.begin_ c p (s.ctx c).cls
    let bs := s.memTake (s.ctx c).part p
    exec (.memRead c p) s =
      .next (((b.1.writeFunc (s.ctx c).func (u64 p 32) bs).memFault (s.ctx c).part p bs.length).complete b.2 stEcc []) := by
  have part : ∀ a bs, (((s.begin_ c p (s.ctx c).cls).1.writeFunc (s.ctx c).func a bs).ctx c).part = (s.ctx c).part := fun a bs => by
    rw [State.writeFunc_frame]
    exact State.begin_part s c p _
  simp only [exec, execMemRead, checked, State.command_starts starts, State.begin_part, State.begin_func, State.begin_memTake, part, if_pos short]

end

/-- MEM_WRITE, MEM_FILL and MEM_READ. -/
theorem memoryCommands : Claims.MemoryCommands := by
  intro s c p b n at_ checked
  refine ⟨fun d starts full tables => ⟨_, exec_memWrite_accepted checked starts full tables, fun space => State.memPut_sp space _ _ _, fun space => ?_⟩,
    fun d starts full space tables => exec_memWrite_refused checked starts full space tables, exec_memWrite_failed checked,
    fun starts => ⟨_, exec_memFill checked starts, fun space => State.memPut_sp space _ _ _, fun space => ?_⟩,
    fun starts space clean => ⟨_, exec_memRead_whole checked starts (State.memTake_sp space clean _) ?_, rfl⟩,
    fun starts space clean => ⟨_, exec_memRead_whole checked starts (State.memTake_lp space clean _) ?_, rfl⟩,
    exec_memRead_poisoned checked⟩
  · have length : (d.take n).length = n := List.length_take_of_le full
    rw [State.begin_memPut_lp space]
    refine ⟨rfl, fun j hj => ?_, fun a outside => memGet_memWrite_outside _ _ _ _ (length.symm ▸ outside)⟩
    rw [memGet_memWrite_inside _ _ _ _ (length.symm ▸ hj)]
    have inside : j < u32 p 20 := hj
    simp [inside, show j < d.length by omega]
  · have length : (List.replicate n (0 : Byte)).length = n := List.length_replicate
    rw [State.begin_memPut_lp space]
    refine ⟨fun j hj => ?_, fun a outside => memGet_memWrite_outside _ _ _ _ (length.symm ▸ outside)⟩
    rw [memGet_memWrite_inside _ _ _ _ (length.symm ▸ hj)]
    simp
  · simp [State.spRead_eq_map]
  · simp [memRead_eq_map]

end Sys2Proof.Machine
end

section
/-! PROOFS. Tasks (R272, R306, R374): how a task starts, and what its end leaves. -/
namespace Sys2Proof.Machine

/-! ## The end of work -/

/-- The end of work changes the regions and memories, the camera buffers, and what a safety event changes. -/
theorem State.dropWork_frame (s : State) (id : WorkId) : s.dropWork id = { s with
    cmp := (s.dropWork id).cmp, cap := (s.dropWork id).cap, safe := (s.dropWork id).safe, cte := (s.dropWork id).cte,
    eths := (s.dropWork id).eths, records := (s.dropWork id).records } := by
  have settled := ((s.dropPasses id).endWork id).settle_pass.eq
  unfold State.dropWork State.unlockBufs
  rw [settled]
  rfl

/-- Work is over once no entry of the table of works bears its identifier. -/
theorem State.work_eq_none {s : State} {id : WorkId} (h : id ∉ s.cmp.works.map Work.id) : s.work id = none := by
  simpa [State.work] using h

theorem State.work_dropWork (s : State) (id : WorkId) : (s.dropWork id).work id = none := by
  have kept : (s.dropWork id).cmp.works.map Work.id = _ := ((s.dropPasses id).endWork id).settle_settles.ids
  refine State.work_eq_none ?_
  rw [kept]
  simp [State.endWork, State.freeWins]

/-- A task that signals nothing and measures nothing does nothing more as it ends. -/
theorem State.finishTask_plain {w : Work} {k : TaskCfg} (task : w.task = some k) (signals : k.signals = []) (kind : ∀ slot, k.kind ≠ .meas slot)
    (s : State) (st : Status) (words : List Word) : s.finishTask w st words = (s, st) := by
  unfold State.finishTask
  simp only [task, signals, List.foldl_nil]
  split
  · rfl
  · cases h : k.kind with
    | meas slot => exact absurd h (kind slot)
    | _ => rfl

/-- A start whose watchdog watches it no more is taken off, and its record written. -/
theorem State.completeEntry_unarmed {x : Started} (unarmed : x.armed = false) (s : State) (st : Status) : s.completeEntry x st =
    ({ s with sched := { s.sched with started := s.sched.started.erase x } } : State).record x.pool x.entry.part x.entry.cls st := by
  simp [State.completeEntry, unarmed]

/-! ## EXEC_TASK (R306) -/

/-- EXEC_TASK starts the task that it names. -/
theorem exec_execTask {s : State} {c : Nat} {p : Packet} (starts : s.Starts c p 0x0301) (checked : chkExecTask s c p = none) : ∃ k,
    let b := s.begin_ c p (s.ctx c).cls
    s.taskCfg (u16 p 16) = some k ∧ exec (.execTask c p) s =
      .next (State.startTask { b.1 with cmd := { b.1.cmd with running := b.1.cmd.running ++ [{ cmd := b.2, packet := p, part := k.part }] } }
        (.cmd c b.2.tag) k k.cls (u64 p 32)) := by
  have cfg : (s.begin_ c p (s.ctx c).cls).1.taskCfg (u16 p 16) = s.taskCfg (u16 p 16) := by rw [State.begin_eq]; rfl
  cases named : s.taskCfg (u16 p 16) with
  | none => simp [chkExecTask, named] at checked
  | some k =>
    refine ⟨k, rfl, ?_⟩
    simp only [exec, execExecTask, checked, State.command_starts starts, cfg, named]

/-! ## TASK_COMPLETE -/

section
variable {s : State} {st : Status} (hp : s.powered = true) (known : Status.known st = true)

/-- While a pass or a transfer of the work goes on, and with a status that is none of the table's, nothing happens. -/
theorem exec_taskComplete_early (s : State) (t : Nat) (work : WorkId) (st : Status) (words : List Word)
    (early : Status.known st = false ∨ s.workQuiet work = false) : exec (.taskComplete t work st words) s = .next (s.advance t) := by
  have quiet : (s.advance t).workQuiet work = s.workQuiet work := rfl
  simp only [exec, execTaskComplete, quiet]
  rcases early with h | h <;> simp [h]

include hp known

/-- The task of an EXEC_TASK ends: its work is over, and its command is replied to. -/
theorem exec_taskComplete_cmd {c : Nat} {tag : Word} {w : Work} {r : Running} (t : Nat) (words : List Word)
    (quiet : s.workQuiet (.cmd c tag) = true) (running : s.work (.cmd c tag) = some w) (task : w.task ≠ none) :
    let f := (s.advance t).finishTask w (mergeStatus w.status st) words
    let v := f.1.dropWork (.cmd c tag)
    v.cmd.running.find? (fun r => r.cmd.ctx == c && r.cmd.tag == tag) = some r →
    exec (.taskComplete t (.cmd c tag) st words) s =
      .next (State.complete { v with cmd := { v.cmd with running := v.cmd.running.erase r } } r.cmd f.2 (words.take 5)) := by
  intro f v found
  have quiet' : (s.advance t).workQuiet (.cmd c tag) = true := quiet
  have running' : (s.advance t).work (.cmd c tag) = some w := running
  have isTask : w.task.isNone = false := Option.isNone_eq_false_iff.2 (Option.isSome_iff_ne_none.2 task)
  simp [exec, execTaskComplete, hp, known, quiet', running', isTask, f, v, found]

/-- A plain task of an EXEC_TASK replies with the status that its work has gathered and the one it ends with. -/
theorem exec_taskComplete_plainCmd {c : Nat} {tag : Word} {w : Work} {r : Running} {k : TaskCfg} (t : Nat) (words : List Word)
    (quiet : s.workQuiet (.cmd c tag) = true) (running : s.work (.cmd c tag) = some w) (task : w.task = some k) (signals : k.signals = [])
    (kind : ∀ slot, k.kind ≠ .meas slot) (found : s.cmd.running.find? (fun r => r.cmd.ctx == c && r.cmd.tag == tag) = some r) :
    ∃ u : State, exec (.taskComplete t (.cmd c tag) st words) s = .next (u.complete r.cmd (mergeStatus w.status st) (words.take 5)) ∧
      u.work (.cmd c tag) = none ∧ u.cmd.running = s.cmd.running.erase r ∧ u.sync = s.sync := by
  have ends := exec_taskComplete_cmd (r := r) hp known t words quiet running (by simp [task])
  simp only [State.finishTask_plain task signals kind] at ends
  have frame := (s.advance t).dropWork_frame (.cmd c tag)
  have cmd : ((s.advance t).dropWork (.cmd c tag)).cmd = s.cmd := by rw [frame]; rfl
  have sync : ((s.advance t).dropWork (.cmd c tag)).sync = s.sync := by rw [frame]; rfl
  have gone := (s.advance t).work_dropWork (.cmd c tag)
  generalize (s.advance t).dropWork (.cmd c tag) = v at ends cmd sync gone
  exact ⟨{ v with cmd := { v.cmd with running := v.cmd.running.erase r } }, ends (by rw [cmd, found]), gone, by rw [cmd], sync⟩

/-- A plain task of a TASK entry writes the entry's record: its status, SAFE_STATE in its place where the partition is in safe state once the
work is over (R374), with the tick. -/
theorem exec_taskComplete_plainEntry {d e : Nat} {w : Work} {x : Started} {k : TaskCfg} (t : Nat) (words : List Word)
    (quiet : s.workQuiet (.entry d e) = true) (running : s.work (.entry d e) = some w) (task : w.task = some k) (signals : k.signals = [])
    (kind : ∀ slot, k.kind ≠ .meas slot) (found : s.sched.started.find? (fun x => x.d == d && x.index == e) = some x) (unarmed : x.armed = false) :
    ∃ u : State, exec (.taskComplete t (.entry d e) st words) s = .next u ∧ u.work (.entry d e) = none ∧
      u.sched.started = s.sched.started.erase x ∧
      tblGet (0, 0) u.sched.records x.pool = (u.recordStatus x.entry.part x.entry.cls (mergeStatus w.status st), BitVec.ofNat 64 (max s.time.cnt t)) := by
  have quiet' : (s.advance t).workQuiet (.entry d e) = true := quiet
  have running' : (s.advance t).work (.entry d e) = some w := running
  have frame := (s.advance t).dropWork_frame (.entry d e)
  have sched : ((s.advance t).dropWork (.entry d e)).sched = s.sched := by rw [frame]; rfl
  have cnt : ((s.advance t).dropWork (.entry d e)).time.cnt = max s.time.cnt t := by rw [frame]; rfl
  have gone := (s.advance t).work_dropWork (.entry d e)
  have ends : exec (.taskComplete t (.entry d e) st words) s =
      .next (((s.advance t).dropWork (.entry d e)).completeEntry x (mergeStatus w.status st)) := by
    simp only [exec, execTaskComplete, running', task, State.finishTask_plain task signals kind, sched, found]
    simp [hp, known, quiet']
  rw [State.completeEntry_unarmed unarmed] at ends
  generalize (s.advance t).dropWork (.entry d e) = v at ends sched cnt gone
  refine ⟨_, ends, gone, congrArg (fun y : Sched => y.started.erase x) sched, ?_⟩
  rw [← cnt]
  exact (tblGet_tblInsert_erased _ _ _ _ _ (tblErase_keys _ _)).trans (if_pos rfl)

/-- A FETCH entry that carries a watchdog completes at the end of its slot. -/
theorem exec_taskComplete_fetch {d e : Nat} {x : Started} (t : Nat) (words : List Word) (quiet : s.workQuiet (.entry d e) = true)
    (idle : s.work (.entry d e) = none) (started : s.startedOf d e = some x) (fetch : x.entry.action = 5) :
    exec (.taskComplete t (.entry d e) st words) s = .next ((s.advance t).completeEntry x stOk) := by
  have quiet' : (s.advance t).workQuiet (.entry d e) = true := quiet
  have idle' : (s.advance t).work (.entry d e) = none := idle
  have started' : (s.advance t).startedOf d e = some x := started
  simp [exec, execTaskComplete, hp, known, quiet', idle', started', fetch]

end

end Sys2Proof.Machine
end

section
/-! PROOFS. Tasks: the state in which an entry's record is not the one that the partition's state before the task's end gives (R374). -/
namespace Sys2Proof.Machine

/-- The status that an entry's record shows once a command or event is over. -/
def recordAfter (pool : Nat) : Out → Status
  | .next u => (tblGet (0, 0) u.sched.records pool).1
  | _ => stOk

/-- A product that region 0's matrix-vector unit may begin. -/
def waitingProduct : RunPass :=
  { key := ⟨.cmd 1 7, 0⟩, cfg := { onMvu := true, shares := [{}] }, share := 0, vecs := [0], ready := true, desc := { mode := 5, reduction := 1 } }

/-- A class 1 TASK entry whose task runs. -/
def class1Entry : Started :=
  { d := 0, pool := 4, index := 4, entry := { offset := 0xFFFF, action := 1, cls := 1 }, firedT := 0, armed := false }

/-- The part with that entry started, and the product waiting behind poisoned activations. -/
def poisonedWait : State := { working with
  cmp := { working.cmp with regions := [(0, { mvus := [waitingProduct] })], spPoison := [0] }, sched := { started := [class1Entry] } }

theorem poisonedWait_recordAfter : recordAfter 4 (exec (.taskComplete 0 (.entry 0 4) stOk []) poisonedWait) = stSafe := by decide

/-- The record of an entry is not the one that the state before the task's end gives. -/
theorem not_tasks : ¬ Claims.Tasks := by
  intro h
  obtain ⟨_, _, _, entry, _⟩ := h poisonedWait 0 0 {}
  obtain ⟨u, run, _, _, record⟩ := entry 0 4 stOk [] _ class1Entry task3 rfl rfl (by decide) rfl rfl rfl nofun rfl rfl
  have safe : (tblGet (0, 0) u.sched.records 4).1 = stSafe := (congrArg (recordAfter 4) run).symm.trans poisonedWait_recordAfter
  exact absurd ((congrArg Prod.fst record).symm.trans safe) (by decide)

/-- Refutes O31: the end of a task lets what waits in the regions begin before the entry's record is written. A product that begins so and finds
poisoned activations brings its partition into safe state (R122, R371), and the class 1 entry's record then carries SAFE_STATE (R374), where
the statement takes the partition's state before the end. `exec_taskComplete_plainEntry` gives the record that is written; the statement's other
clauses hold (`exec_execTask`, the other equations of TASK_COMPLETE, and `memoryCommands`). -/
theorem not_tasksAndMemory : ¬ Obligations.TasksAndMemory := by
  intro ⟨tasks, _⟩
  exact not_tasks tasks

end Sys2Proof.Machine
end

section
/-! PROOFS. Safety events: the record that an event puts into the log (R370, R390). -/
namespace Sys2Proof.Machine

/-- The safety log holds the same records in both states. -/
def SameLog (s u : State) : Prop := u.safe.log = s.safe.log

theorem SameLog.trans {s t u : State} (h : SameLog s t) (k : SameLog t u) : SameLog s u := Eq.trans k h

theorem SameLog.foldl {β : Type} {f : State → β → State} (hf : ∀ s x, SameLog s (f s x)) (l : List β) (s : State) : SameLog s (l.foldl f s) :=
  foldl_keeps SameLog f (fun _ => rfl) (fun _ _ _ => .trans) hf l s

theorem State.faultPartGroups_log (s : State) (p : Nat) : SameLog s (s.faultPartGroups p) := by
  refine SameLog.foldl (fun s g => ?_) _ s
  obtain ⟨c, faulted⟩ := State.faultGroupOnly_cte s g 7
  split
  · simp only [faulted]
    split <;> rfl
  · rfl

theorem State.sendMessages_log (s : State) (named : MsgCfg → Bool) (code : Nat) : SameLog s (s.sendMessages named code) := by
  refine SameLog.foldl (fun s m => ?_) _ s
  dsimp only
  split <;> rfl

theorem State.enterPart_log (s : State) (p code : Nat) : SameLog s (s.enterPart p code) := by
  unfold State.enterPart
  split
  · rfl
  · exact (State.faultPartGroups_log { s with safe := { s.safe with parts := maskSet s.safe.parts p } } p).trans (State.sendMessages_log _ _ code)

theorem State.enterPackage_log (s : State) (code : Nat) : SameLog s (s.enterPackage code) :=
  have entered : SameLog s { s with safe := { s.safe with package := true } } := rfl
  have sent := (SameLog.foldl State.faultPartGroups_log (List.range 8) { s with safe := { s.safe with package := true } }).trans
    (State.sendMessages_log _ (fun _ => true) code)
  have driven (v : State) : SameLog v v.drivePins := rfl
  entered.trans (sent.trans (driven _))

/-- What an event does beyond its record leaves the log as the record has made it. -/
theorem State.raiseAt_log (s : State) (code part detail lvl : Nat) :
    ∃ level charged, SameLog (s.logEvent code level charged detail) (s.raiseAt code part detail lvl) := by
  unfold State.raiseAt
  dsimp only
  generalize (if lvl = 1 ∧ part ≥ 8 then 0 else lvl) = level
  refine ⟨level, if level = 2 then 0xFF else part, ?_⟩
  generalize s.logEvent code level (if level = 2 then 0xFF else part) detail = u
  split
  · have latch : SameLog u (if eventReset code then { u with safe := { u.safe with latched := true } } else u) := by split <;> rfl
    refine latch.trans ?_
    generalize (if eventReset code then ({ u with safe := { u.safe with latched := true } } : State) else u) = v
    split
    · split
      · split <;> rfl
      · rfl
    · have held : SameLog v ((v.setCause code 2 part).holdEvent 8 ⟨code, detail, eventPlain code⟩) := rfl
      exact held.trans (State.enterPackage_log _ code)
  · split
    · split
      · split <;> rfl
      · have held : SameLog u ((u.setCause code 1 part).holdEvent part ⟨code, detail, eventPlain code⟩) := rfl
        have driven (v : State) : SameLog v v.drivePins := rfl
        exact held.trans ((SameLog.foldl (fun s p => s.enterPart_log p code) _ _).trans (driven _))
    · rfl

/-- A log with room keeps every record and takes the new one. -/
theorem State.mem_log_logEvent {s : State} (code level part detail : Nat) (room : s.safe.log.length < 256) :
    (⟨code, level, part, detail, s.time.cnt⟩ : LogRec) ∈ (s.logEvent code level part detail).safe.log := by
  have dropped : s.safe.log.length + 1 - 256 = 0 := by omega
  simp [State.logEvent, dropped, logInsert]

/-- A faulty unit of a region is on record with the region's key and the time. -/
theorem State.faultUnit_logs {s : State} (k : Nat) (room : s.safe.log.length < 256) :
    ∃ e, e ∈ (s.faultUnit k).safe.log ∧ e.code = 0x08 ∧ e.detail = k ∧ e.time = s.time.cnt := by
  obtain ⟨level, charged, same⟩ := State.raiseAt_log s 0x08 (s.partOfPhys k) k (s.reactLevel 0x08)
  refine ⟨⟨0x08, level, charged, k, s.time.cnt⟩, ?_, rfl, rfl, rfl⟩
  rw [State.faultUnit, State.raise, same]
  exact State.mem_log_logEvent 0x08 level charged k room

end Sys2Proof.Machine
end

section
/-! PROOFS. Poisoned data and faults reported while passes go on (R122): of the compute blocks they change the statuses of work alone. -/
namespace Sys2Proof.Machine

/-- The two states differ in the statuses of work, and in what a safety event changes, at most. -/
structure Reports (s u : State) : Prop where
  eq : u = { s with cmp := { s.cmp with works := u.cmp.works }, safe := u.safe, cte := u.cte, eths := u.eths, records := u.records }

namespace Reports
variable {s t u : State}

theorem refl (s : State) : Reports s s := ⟨rfl⟩

theorem trans (h : Reports s t) (k : Reports t u) : Reports s u := by
  constructor
  rw [k.eq, h.eq]

theorem foldl {β : Type} (f : State → β → State) (hf : ∀ s x, Reports s (f s x)) (l : List β) (s : State) : Reports s (l.foldl f s) :=
  foldl_keeps Reports f refl (fun _ _ _ => trans) hf l s

theorem cmp (h : Reports s u) : u.cmp = { s.cmp with works := u.cmp.works } := congrArg (fun v : State => v.cmp) h.eq

theorem region (h : Reports s u) (k : Nat) : u.region k = s.region k := by rw [State.region, h.cmp]; rfl

theorem port (h : Reports s u) (k : Nat) : u.port k = s.port k := by rw [State.port, h.cmp]; rfl

theorem sp (h : Reports s u) : u.cmp.sp = s.cmp.sp := by rw [h.cmp]

theorem cycleOf (h : Reports s u) (k : Nat) : u.cycleOf k = s.cycleOf k := by
  have time : u.time = s.time := by rw [h.eq]
  rw [State.cycleOf, h.port, time, State.cycleOf]

end Reports

theorem State.addStatus_reports (s : State) (id : Option WorkId) (st : Status) : Reports s (s.addStatus id st) := by
  obtain ⟨l, gathered⟩ := State.addStatus_frame s id st
  rw [gathered]
  exact ⟨rfl⟩

theorem State.faultUnit_reports (s : State) (k : Nat) : Reports s (s.faultUnit k) := by
  constructor
  rw [State.faultUnit, (State.raise_frame s 0x08 (s.partOfPhys k) k).eq]

theorem State.poisonedPass_reports (s : State) (k : Nat) (p : RunPass) (bad : Bool) : Reports s (s.poisonedPass k p bad) := by
  unfold State.poisonedPass
  split
  · exact (s.addStatus_reports _ _).trans (State.faultUnit_reports _ k)
  · exact .refl s

theorem State.poisonedActs_reports (s : State) (k : Nat) (p : RunPass) (poss : List Nat) : Reports s (s.poisonedActs k p poss) := by
  unfold State.poisonedActs
  dsimp only
  split
  · have marked := Reports.foldl (fun (s : State) pos => s.addPos p.key.work (p.vecs.getD pos 0) stEcc) (fun _ _ => ⟨rfl⟩)
      (poss.filter fun pos => s.winPoisoned p (p.actRange pos)) s
    split
    · exact marked
    · exact marked.trans (State.faultUnit_reports _ k)
  · exact s.poisonedPass_reports k p _

end Sys2Proof.Machine
end

section
/-! PROOFS. Swap requests and strobes (R76, R79 to R83). -/
namespace Sys2Proof.Machine

/-! ## The shadow feed and the requests -/

/-- The feed of a free cluster: the next set of the earliest pass that has one. -/
theorem State.loadShadow_loads {s : State} {k c : Nat} {p : RunPass} (free : ((s.region k).cluster c).shadow = none)
    (next : (s.region k).nextLoad c = some p) :
    (((s.loadShadow k c).region k).cluster c).shadow = some (p.set (s.passIn p) c (tblGet 0 p.loaded c)) ∧
      (((s.loadShadow k c).region k).cluster c).loadCyc = s.cycleOf k + 1 ∧
      (((s.loadShadow k c).region k).cluster c).active = ((s.region k).cluster c).active ∧
      ∀ q ≠ k, (s.loadShadow k c).region q = s.region q := by
  unfold State.loadShadow
  simp only [free, next, Option.isSome_none, Bool.false_eq_true, if_false, (State.poisonedPass_reports _ _ _ _).region, State.region_setRegion]
  refine ⟨?_, ?_, ?_, fun q other => if_neg other⟩ <;>
    simp [Region.mapPasses, Region.cluster, Region.setCluster]

/-- A request of a unit that holds back the strobe is held, once. -/
theorem exec_swapRequest {s : State} {d r c : Nat} {who : SwapUnit} (hp : s.powered = true) (known : s.available (rkey d r) = true)
    (gate : who ∈ (s.region (rkey d r)).gateUnits c) (fresh : who ∉ ((s.region (rkey d r)).cluster c).requests) :
    exec (.swapRequest d r c who) s = .next (s.setRegion (rkey d r) ((s.region (rkey d r)).setCluster c
      { (s.region (rkey d r)).cluster c with requests := ((s.region (rkey d r)).cluster c).requests ++ [who] })) := by
  simp [exec, execSwapRequest, hp, known, gate, fresh]

/-! ## The strobe of one cluster -/

theorem RunPass.takeColumn_key (x : PassIn) (c : Nat) (z : StatSet) (p : RunPass) (pos j : Nat) : (p.takeColumn x c z pos j).key = p.key := by
  refine foldl_keeps (fun a b : RunPass => b.key = a.key) _ (fun _ => rfl) (fun _ _ _ ab bc => bc.trans ab) (fun p e => ?_) _ p
  split <;> rfl

theorem RunPass.serve_key (x : PassIn) (c : Nat) (z : StatSet) (p : RunPass) : (p.serve x c z).key = p.key :=
  foldl_keeps (fun a b : RunPass => b.key = a.key) _ (fun _ => rfl) (fun _ _ _ ab bc => bc.trans ab)
    (fun p pos => foldl_keeps (fun a b : RunPass => b.key = a.key) _ (fun _ => rfl) (fun _ _ _ ab bc => bc.trans ab)
      (fun p j => p.takeColumn_key x c z pos j) _ p) _ p

/-- A cluster at a strobe in cycle `now`: what it held in its shadow registers is active, and no request is left. -/
structure Cluster.Strobed (now : Nat) (old new : Cluster) : Prop where
  active : new.active = old.shadow
  shadow : new.shadow = none
  requests : new.requests = []
  lastStrobe : new.lastStrobe = some now

/-- A pass whose set `z` a cluster has taken: its vectors have entered, and the strobe is counted. -/
structure RunPass.Taken (y : PassIn) (c : Nat) (z : StatSet) (p q : RunPass) : Prop where
  key : q.key = p.key
  store : q.store = (p.serve y c z).store
  strobed : tblGet 0 q.strobed c = tblGet 0 p.strobed c + 1

/-- A cluster of a region holds a set whose pass is under way. -/
def Region.HoldsSet (x : Region) (c : Nat) : Prop := ∃ z, (x.cluster c).shadow = some z ∧ z.key ∈ x.passes.map RunPass.key

/-- What strobes of the clusters `cs` of region `k` leave: each of them is strobed, and of the rest passes alone have changed, not in their keys. -/
structure Strobes (k : Nat) (cs : List Nat) (s u : State) : Prop where
  taken : ∀ i ∈ cs, ((s.region k).cluster i).Strobed (s.cycleOf k) ((u.region k).cluster i)
  left : ∀ i ∉ cs, (u.region k).cluster i = (s.region k).cluster i
  others : ∀ q ≠ k, u.region q = s.region q
  keys : (u.region k).passes.map RunPass.key = (s.region k).passes.map RunPass.key
  shape : (u.region k).shape = (s.region k).shape
  swapCnt : (u.region k).swapCnt = (s.region k).swapCnt
  sp : u.cmp.sp = s.cmp.sp
  cycle : u.cycleOf k = s.cycleOf k

/-- The passes of a region, one of them replaced by another of its key. -/
theorem map_key_replace {p q : RunPass} (same : q.key = p.key) (l : List RunPass) :
    (l.map fun o => if o.key = p.key then q else o).map RunPass.key = l.map RunPass.key := by
  rw [List.map_map]
  refine List.map_congr_left fun o _ => ?_
  by_cases h : o.key = p.key <;> simp [h, same]

/-- One cluster's strobe: the cluster, and the pass whose set it takes. -/
theorem State.strobeCluster_of_found {s : State} {k c : Nat} {z : StatSet} {p : RunPass} (shadow : ((s.region k).cluster c).shadow = some z)
    (found : (s.region k).passes.find? (fun q => q.key == z.key) = some p) :
    Strobes k [c] s (s.strobeCluster k c) ∧
      ∃ q, RunPass.Taken (s.passIn p) c z p q ∧
        ((s.strobeCluster k c).region k).passes = (s.region k).passes.map fun o => if o.key = p.key then q else o := by
  unfold State.strobeCluster
  extract_lets x cl now others
  split
  · next none => exact absurd (shadow.symm.trans none) nofun
  · next z' shadow' =>
    obtain rfl : z' = z := Option.some.inj (shadow'.symm.trans shadow)
    split
    · next none => exact absurd (found.symm.trans none) nofun
    · next p' found' =>
      obtain rfl : p' = p := Option.some.inj (found'.symm.trans found)
      extract_lets y m fresh served q switched entered
      have key : q.key = p'.key := p'.serve_key y c z'
      have store : q.store = (p'.serve y c z').store := rfl
      have strobed : tblGet 0 q.strobed c = tblGet 0 p'.strobed c + 1 := by simp [q]
      have cluster (i : Nat) : entered.cluster i = if i = c then
          { cl with active := some z', shadow := none, lastStrobe := some now, vectors := m, every := p'.cfg.interval, requests := [] }
        else x.cluster i :=
        (show entered.cluster i = switched.cluster i from rfl).trans (Region.cluster_setCluster x c i _)
      have passes : entered.passes = x.passes.map fun o => if o.key = p'.key then q else o := rfl
      have shape : entered.shape = x.shape := rfl
      have swapCnt : entered.swapCnt = x.swapCnt := rfl
      clear_value entered q
      have report := State.poisonedActs_reports (s.setRegion k entered) k p' (p'.positions c z'.wave)
      generalize (s.setRegion k entered).poisonedActs k p' (p'.positions c z'.wave) = u at report ⊢
      have region (j : Nat) : u.region j = if j = k then entered else s.region j := (report.region j).trans (State.region_setRegion s k j entered)
      have here : u.region k = entered := (region k).trans (if_pos rfl)
      refine ⟨⟨fun i hi => ?_, fun i hi => ?_, fun j other => ?_, ?_, ?_, ?_, report.sp, report.cycleOf k⟩, q, ⟨key, store, strobed⟩, ?_⟩
      · obtain rfl : i = c := by simpa using hi
        rw [here, cluster, if_pos rfl]
        exact ⟨shadow.symm, rfl, rfl, rfl⟩
      · rw [here, cluster, if_neg (by simpa using hi)]
      · rw [region, if_neg other]
      · rw [here, passes]
        exact map_key_replace key x.passes
      · rw [here, shape]
      · rw [here, swapCnt]
      · rw [here, passes]

/-! ## The strobe of several clusters -/

theorem Strobes.nil (k : Nat) (s : State) : Strobes k [] s s := ⟨nofun, fun _ _ => rfl, fun _ _ => rfl, rfl, rfl, rfl, rfl, rfl⟩

/-- A cluster's strobe and those of other clusters after it. -/
theorem Strobes.cons {k c : Nat} {cs : List Nat} {s t u : State} (one : Strobes k [c] s t) (rest : Strobes k cs t u) (fresh : c ∉ cs) :
    Strobes k (c :: cs) s u where
  taken i hi := by
    rcases List.mem_cons.1 hi with rfl | later
    · rw [rest.left _ fresh]
      exact one.taken _ (by simp)
    · have ne : i ∉ [c] := by rintro h; simp_all
      rw [← one.left i ne, ← one.cycle]
      exact rest.taken i later
  left i hi := by
    simp only [List.mem_cons, not_or] at hi
    rw [rest.left i hi.2, one.left i (by simpa using hi.1)]
  others q ne := (rest.others q ne).trans (one.others q ne)
  keys := rest.keys.trans one.keys
  shape := rest.shape.trans one.shape
  swapCnt := rest.swapCnt.trans one.swapCnt
  sp := rest.sp.trans one.sp
  cycle := rest.cycle.trans one.cycle

theorem State.strobeCluster_strobes {s : State} {k c : Nat} (holds : (s.region k).HoldsSet c) : Strobes k [c] s (s.strobeCluster k c) := by
  obtain ⟨z, shadow, under⟩ := holds
  obtain ⟨p, hp, key⟩ := List.mem_map.1 under
  obtain ⟨q, found⟩ := Option.isSome_iff_exists.1 (List.find?_isSome (p := fun q : RunPass => q.key == z.key) |>.2 ⟨p, hp, beq_iff_eq.2 key⟩)
  exact (State.strobeCluster_of_found shadow found).1

/-- Clusters that hold sets, strobed one after the other in the same cycle. -/
theorem State.strobeClusters_strobes {k : Nat} {cs : List Nat} (once : cs.Nodup) {s : State} (holds : ∀ c ∈ cs, (s.region k).HoldsSet c) :
    Strobes k cs s (cs.foldl (fun s c => s.strobeCluster k c) s) := by
  induction cs generalizing s with
  | nil => exact .nil k s
  | cons c cs ih =>
    obtain ⟨fresh, once⟩ := List.nodup_cons.1 once
    have one := State.strobeCluster_strobes (holds c (by simp))
    refine one.cons (ih once fun i hi => ?_) fresh
    obtain ⟨z, shadow, under⟩ := holds i (by simp [hi])
    have ne : i ∉ [c] := by rintro h; simp_all
    exact ⟨z, by rw [one.left i ne]; exact shadow, by rw [one.keys]; exact under⟩

/-! ## SWAP_STROBE -/

/-- A strobe counted in its region: once for the ganged clusters of the REGION shape, otherwise for each of `n` clusters. -/
def State.countStrobe (s : State) (k n : Nat) : State :=
  s.setRegion k { s.region k with swapCnt := satAdd (s.region k).swapCnt (if (s.region k).shape = 3 then 1 else n) }

/-- A strobe that may be raised, with good parity. -/
theorem exec_swapStrobe {s : State} {t d r : Nat} {cs : List Nat} (hp : s.powered = true) (known : s.available (rkey d r) = true)
    (may : (s.advance t).mayStrobe (rkey d r) cs = true) :
    exec (.swapStrobe t d r cs []) s = .next ((((List.range 4).filter cs.contains).foldl (fun s c => s.strobeCluster (rkey d r) c)
      (s.advance t)).countStrobe (rkey d r) ((List.range 4).filter cs.contains).length).settle := by
  have known' : (s.advance t).available (rkey d r) = true := known
  have none (l : List Nat) : l.filter ([] : List Nat).contains = [] := List.filter_eq_nil_iff.2 (by simp)
  simp only [exec, execSwapStrobe, State.advance_powered, hp, known', may, Bool.not_true, Bool.or_self, Bool.false_eq_true, if_false, none]
  rfl

/-- A strobe that may not be raised changes nothing. -/
theorem exec_swapStrobe_waits {s : State} (t d r : Nat) {cs : List Nat} (bad : List Nat) (waits : (s.advance t).mayStrobe (rkey d r) cs = false) :
    exec (.swapStrobe t d r cs bad) s = .next (s.advance t) := by
  simp [exec, execSwapStrobe, waits]

/-- Each cluster of a strobe that may be raised is one of the four and due. -/
theorem State.of_mayStrobe {s : State} {k : Nat} {cs : List Nat} (may : s.mayStrobe k cs = true) {c : Nat} (hc : c ∈ cs) :
    c < 4 ∧ s.strobeDue k c = true := by
  simp only [State.mayStrobe, Bool.and_eq_true, List.all_eq_true, decide_eq_true_eq] at may
  obtain ⟨⟨⟨⟨_, four⟩, _⟩, due⟩, _⟩ := may
  exact ⟨four c hc, due c hc⟩

/-- A cluster that is due holds a complete set of a pass under way, has served its set period, and holds its requests. -/
theorem State.of_strobeDue {s : State} {k c : Nat} (due : s.strobeDue k c = true) :
    (s.region k).HoldsSet c ∧ ((s.region k).cluster c).loadCyc + 32 ≤ s.cycleOf k ∧ (s.region k).gateReady c = true ∧
      ∀ p, ((s.region k).cluster c).lastStrobe = some p → p + 33 ≤ s.cycleOf k := by
  simp only [State.strobeDue, Bool.and_eq_true, decide_eq_true_eq] at due
  obtain ⟨⟨⟨⟨full, gate⟩, _⟩, period⟩, ready⟩ := due
  refine ⟨?_, full, gate, fun p last => ?_⟩
  · split at ready
    · exact absurd ready nofun
    · next p held =>
      obtain ⟨z, shadow, found⟩ := Option.bind_eq_some_iff.1 held
      have key : p.key = z.key := beq_iff_eq.1 (List.find?_some found :)
      exact ⟨z, shadow, List.mem_map.2 ⟨p, List.mem_of_find?_eq_some found, key⟩⟩
  · simp only [last, decide_eq_true_eq] at period
    omega

theorem mem_range4_filter {cs : List Nat} (four : ∀ c ∈ cs, c < 4) (i : Nat) : i ∈ (List.range 4).filter cs.contains ↔ i ∈ cs := by
  simp only [List.mem_filter, List.mem_range, List.contains_iff_mem]
  exact ⟨fun h => h.2, fun h => ⟨four i h, h⟩⟩

/-- What a strobe that may be raised leaves before the region goes on. -/
theorem State.mayStrobe_strobes {s : State} {k : Nat} {cs : List Nat} (may : s.mayStrobe k cs = true) :
    Strobes k ((List.range 4).filter cs.contains) s (((List.range 4).filter cs.contains).foldl (fun s c => s.strobeCluster k c) s) := by
  refine State.strobeClusters_strobes (List.nodup_range.filter _) fun c hc => ?_
  exact (State.of_strobeDue (State.of_mayStrobe may (List.contains_iff_mem.1 (List.mem_filter.1 hc).2)).2).1

/-- A strobe is raised only once every cluster's set is complete, its set period is over, and its requests are held. -/
theorem State.mayStrobe_eq_false {s : State} {k c : Nat} {cs : List Nat} (hc : c ∈ cs)
    (early : s.cycleOf k < ((s.region k).cluster c).loadCyc + 32 ∨
      (∃ p, ((s.region k).cluster c).lastStrobe = some p ∧ s.cycleOf k < p + 33) ∨ (s.region k).gateReady c = false) :
    s.mayStrobe k cs = false := by
  refine Bool.eq_false_iff.2 fun may => ?_
  obtain ⟨_, full, gate, period⟩ := State.of_strobeDue (State.of_mayStrobe may hc).2
  rcases early with loading | ⟨p, last, soon⟩ | ungated
  · omega
  · have := period p last
    omega
  · exact absurd (gate.symm.trans ungated) nofun

/-- A count of strobes changes that of its region alone. -/
theorem State.region_countStrobe (s : State) (k n j : Nat) : (s.countStrobe k n).region j = if j = k then
    { s.region k with swapCnt := satAdd (s.region k).swapCnt (if (s.region k).shape = 3 then 1 else n) } else s.region j :=
  State.region_setRegion s k j _

theorem range4_filter_singleton : ∀ c < 4, (List.range 4).filter [c].contains = [c] := by decide

/-- The shadow feed, requests and strobes of a region. -/
theorem swapStrobes : Claims.SwapStrobes := by
  intro s t d r c hp known hc k x now
  refine ⟨fun p free next => State.loadShadow_loads free next, fun who gate fresh => ⟨_, exec_swapRequest hp known gate fresh, ?_, ?_, ?_⟩,
    fun cs _ may => ⟨_, exec_swapStrobe hp known may, ?_⟩, fun z p may shadow found => ⟨_, exec_swapStrobe hp known may, ?_⟩,
    fun cs bad hc early => exec_swapStrobe_waits t d r bad (State.mayStrobe_eq_false hc early)⟩
  · simp [Region.cluster_setCluster, x, k]
  · intro i ne
    simp [Region.cluster_setCluster, ne, x, k]
  · simp [k]
  · have strobes := State.mayStrobe_strobes may
    have four := mem_range4_filter fun i hi => (State.of_mayStrobe may hi).1
    generalize (List.range 4).filter cs.contains = strobed at strobes four ⊢
    generalize strobed.foldl (fun s c => s.strobeCluster k c) (s.advance t) = u at strobes ⊢
    have here := (u.region_countStrobe k strobed.length k).trans (if_pos rfl)
    refine ⟨?_, fun i hi => ?_, fun i hi => ?_, fun q ne => ?_, strobes.sp⟩
    · rw [here]
      simp only [strobes.swapCnt, strobes.shape]
      rfl
    · rw [here]
      obtain ⟨active, shadow, requests, last⟩ := strobes.taken i ((four i).2 hi)
      exact ⟨active, shadow, requests, last⟩
    · rw [here]
      exact strobes.left i fun h => hi ((four i).1 h)
    · rw [u.region_countStrobe, if_neg ne]
      exact strobes.others q ne
  · obtain ⟨_, q, ⟨key, store, strobed⟩, passes⟩ := State.strobeCluster_of_found (s := s.advance t) shadow found
    rw [range4_filter_singleton c hc]
    refine ⟨q, ?_, key, store, strobed⟩
    rw [State.region_countStrobe, if_pos rfl]
    show q ∈ (((s.advance t).strobeCluster k c).region k).passes
    rw [passes]
    exact List.mem_map.2 ⟨p, List.mem_of_find?_eq_some found, if_pos rfl⟩

end Sys2Proof.Machine
end

section
/-! PROOFS. Shape, direction and port mode of a region (R75, R86, R108, R109). -/
namespace Sys2Proof.Machine

/-! ## Shape and direction -/

/-- Whether a cluster's feet have delivered, in the present cycle, what the region's shape and direction bring to them. -/
def State.deliveredNow (s : State) (k c : Nat) : Bool :=
  ((s.region k).cluster c).delivered (latency (s.region k).shape (s.region k).dirBack) (s.cycleOf k)

/-- The latest vector of every cluster has entered at least the latency ago. -/
def State.Quiet (s : State) (k : Nat) : Prop := ∀ c, c < 4 → ∀ p, ((s.region k).cluster c).lastStrobe = some p →
  p + (((s.region k).cluster c).vectors - 1) * ((s.region k).cluster c).every + latency (s.region k).shape (s.region k).dirBack ≤ s.cycleOf k

section
variable {s : State} {t d r : Nat} (hp : s.powered = true) (known : s.available (rkey d r) = true)
include hp known

/-- A change of shape once the array is empty and its feet have delivered. -/
theorem exec_shapeChange {shape : Nat} (hs : shape < 4) (whole : (s.region (rkey d r)).passes.any RunPass.midway = false)
    (settled : (s.region (rkey d r)).shapeEnd ≤ (s.advance t).cycleOf (rkey d r))
    (empty : ∀ c, c < 4 → (s.advance t).deliveredNow (rkey d r) c = true) :
    exec (.shapeChange d r ⟨t, shape⟩) s = .next ((s.advance t).setRegion (rkey d r)
      { s.region (rkey d r) with shape := shape, shapeEnd := (s.advance t).cycleOf (rkey d r) + 8 }) := by
  have known' : (s.advance t).available (rkey d r) = true := known
  have whole' : ((s.advance t).region (rkey d r)).passes.any RunPass.midway = false := whole
  have all : (List.range 4).all ((s.advance t).deliveredNow (rkey d r)) = true := List.all_eq_true.2 fun c hc => empty c (List.mem_range.1 hc)
  show execShapeChange d r ⟨t, shape⟩ s = _
  unfold execShapeChange
  refine congrArg _ (if_pos ?_)
  simp only [State.advance_powered, hp, known', whole', hs, Bool.and_eq_true, decide_true, Bool.not_false, decide_eq_true_eq, true_and]
  exact ⟨settled, all⟩

/-- A change of direction once no vector has been in the array for its latency. -/
theorem exec_directionChange {back : Bool} (whole : back = true → (s.region (rkey d r)).shape = 3) (quiet : (s.advance t).Quiet (rkey d r)) :
    exec (.directionChange d r ⟨t, back⟩) s = .next ((s.advance t).setRegion (rkey d r) { s.region (rkey d r) with dirBack := back }) := by
  have known' : (s.advance t).available (rkey d r) = true := known
  have turns : back = false ∨ (s.region (rkey d r)).shape = 3 := by
    cases back
    · exact .inl rfl
    · exact .inr (whole rfl)
  show execDirectionChange d r ⟨t, back⟩ s = _
  unfold execDirectionChange
  refine congrArg _ (if_pos ?_)
  simp only [State.advance_powered, hp, known', Bool.and_eq_true, Bool.or_eq_true, true_and]
  refine ⟨by simpa using turns, .inr (List.all_eq_true.2 fun c hc => ?_)⟩
  split
  · rfl
  · next p last => exact decide_eq_true (quiet c (List.mem_range.1 hc) p last)

end

/-- No change of shape while a foot has results to deliver. -/
theorem exec_shapeChange_waits {s : State} {t d r c : Nat} (shape : Nat) (hc : c < 4) (busy : (s.advance t).deliveredNow (rkey d r) c = false) :
    exec (.shapeChange d r ⟨t, shape⟩) s = .next (s.advance t) := by
  show execShapeChange d r ⟨t, shape⟩ s = _
  unfold execShapeChange
  refine congrArg _ (if_neg fun change => ?_)
  simp only [Bool.and_eq_true, List.all_eq_true, List.mem_range] at change
  exact absurd (busy.symm.trans (change.2 c hc)) nofun

/-- No backward direction outside the REGION shape. -/
theorem exec_directionChange_refused {s : State} {d r : Nat} (t : Nat) (part : (s.region (rkey d r)).shape ≠ 3) :
    exec (.directionChange d r ⟨t, true⟩) s = .next (s.advance t) := by
  simp [exec, execDirectionChange, part]

/-- Changes of shape and direction. -/
theorem shapeAndDirection : Claims.ShapeAndDirection := fun _ _ _ _ hp known =>
  ⟨fun _ hs whole settled empty => exec_shapeChange hp known hs whole settled empty, fun shape _ hc busy => exec_shapeChange_waits shape hc busy,
    fun quiet => ⟨exec_directionChange hp known nofun quiet, fun region => exec_directionChange hp known (fun _ => region) quiet⟩,
    exec_directionChange_refused _⟩

/-! ## The port mode -/

/-- A pending port mode at phase 0, with the mode in force free, and otherwise. -/
theorem exec_portModeApply {s : State} {d r : Nat} (t : Nat) (hp : s.powered = true) (known : s.available (rkey d r) = true)
    (pending : (s.port (rkey d r)).portPending = true) : exec (.portModeApply t d r) s =
      .next (if (s.advance t).cycleOf (rkey d r) % 16 = 0 ∧ (s.advance t).modeInUse (rkey d r) = false then
        ((s.advance t).setPort (rkey d r) { s.port (rkey d r) with portMode := (s.port (rkey d r)).portNext, portPending := false, portNext := 0 }).settle
      else s.advance t) := by
  have known' : (s.advance t).available (rkey d r) = true := known
  have same : (s.advance t).port (rkey d r) = s.port (rkey d r) := rfl
  simp [exec, execPortModeApply, hp, known', same, pending]

/-- Port modes applied. -/
theorem portModes : Claims.PortModes := by
  intro s t d r hp known pending k
  refine ⟨fun phase free => ?_, fun waits => ?_⟩
  · rw [exec_portModeApply t hp known pending, if_pos ⟨phase, free⟩]
  · have waits' : ¬((s.advance t).cycleOf k % 16 = 0 ∧ (s.advance t).modeInUse k = false) := by
      rintro ⟨phase, free⟩
      rcases waits with other | busy
      · exact other phase
      · exact absurd (busy.symm.trans free) nofun
    rw [exec_portModeApply t hp known pending, if_neg waits']

/-! ## The port-slot pattern (R108) -/

/-- The modes of the pattern are 0 to 4. -/
theorem slotOwner_undefined {mode : Nat} (h : 4 < mode) (lane phase : Nat) : slotOwner mode lane phase = none := by
  obtain ⟨n, rfl⟩ := Nat.exists_eq_add_of_le' (show 5 ≤ mode from h)
  rfl

/-- Every slot of a defined mode has an owner. -/
theorem slotOwner_defined : ∀ mode lane phase, mode ≤ 4 → lane < 4 → phase < 16 → (slotOwner mode lane phase).isSome = true := by
  have all : ∀ mode < 5, ∀ lane < 4, ∀ phase < 16, (slotOwner mode lane phase).isSome = true := by decide
  exact fun mode lane phase hm hl hp => all mode (by omega) lane hl phase hp

/-- In phase 15 lane 3 is the narrow client's in every mode. -/
theorem slotOwner_narrow : ∀ mode, mode ≤ 4 → slotOwner mode 3 15 = some .narrow := by decide

/-- The lane and the phase at which the transfer engine's share of a mode begins. -/
def dxSlot (mode : Nat) : Nat × Nat := match mode with
  | 0 => (2, 8)
  | 1 => (3, 6)
  | 2 => (3, 4)
  | _ => (3, 0)

theorem slotOwner_dxSlot : ∀ mode, mode ≤ 4 → (dxSlot mode).1 < 4 ∧ (dxSlot mode).2 < 16 ∧ slotOwner mode (dxSlot mode).1 (dxSlot mode).2 = some .dx := by
  decide

/-- The owners of the slots. -/
theorem portPattern : Claims.PortPattern :=
  ⟨fun mode lane phase hm hl hp => Option.isSome_iff_exists.1 (slotOwner_defined mode lane phase hm hl hp), fun _ lane phase h => slotOwner_undefined h lane phase,
    fun mode hm => ⟨3, 15, by decide, by decide, slotOwner_narrow mode hm⟩, fun mode hm => ⟨_, _, slotOwner_dxSlot mode hm⟩⟩

end Sys2Proof.Machine
end

section
/-! PROOFS. Halts of tile cores (R76, R83, R95). -/
namespace Sys2Proof.Machine

/-! ## What a halt does -/

/-- A region with a tile core halted and faulty, and the requests of its units gone. -/
def Region.halt (x : Region) (tile : Nat) : Region :=
  { x.setCluster (tile / 16) { x.cluster (tile / 16) with
      requests := (x.cluster (tile / 16)).requests.filter fun u => !(swapUnits 0 tile ++ swapUnits 1 tile).contains u } with
    tcoreFault := maskSet x.tcoreFault tile, halted := maskSet x.halted tile }

/-- The work that a tile core runs: the pass of its sequence, or the task in its window. -/
def State.coreWork (s : State) (k tile : Nat) : Option WorkId := match (s.region k).coreMaybe tile with
  | some p => some p.key.work
  | none => (s.winOf k tile).work

theorem State.haltCore_eq (s : State) (k tile : Nat) (cause : HaltCause) : s.haltCore k tile cause =
    (((s.setRegion k ((s.region k).halt tile)).stopWin k tile).addStatus (s.coreWork k tile) (haltStatus cause)).faultUnit k := rfl

/-- A task stopped in its window changes its region's port alone. -/
theorem State.stopWin_frame (s : State) (k slot : Nat) : ∃ l, s.stopWin k slot = { s with cmp := { s.cmp with ports := l } } ∧
    ∀ j ≠ k, tblGet {} l j = s.port j := by
  unfold State.stopWin
  dsimp only
  split
  · exact ⟨_, rfl, fun j ne => (State.port_setPort s k j _).trans (if_neg ne)⟩
  · exact ⟨s.cmp.ports, rfl, fun _ _ => rfl⟩

/-- The regions, the other ports, the scratchpad and the statuses after a halt. -/
theorem State.haltCore_cmp (s : State) (k tile : Nat) (cause : HaltCause) :
    (∀ j, (s.haltCore k tile cause).region j = if j = k then (s.region k).halt tile else s.region j) ∧
      (∀ j ≠ k, (s.haltCore k tile cause).port j = s.port j) ∧ (s.haltCore k tile cause).cmp.sp = s.cmp.sp ∧
      (s.haltCore k tile cause).cmp.works = (s.addStatus (s.coreWork k tile) (haltStatus cause)).cmp.works := by
  obtain ⟨l, stopped, others⟩ := (s.setRegion k ((s.region k).halt tile)).stopWin_frame k tile
  rw [State.haltCore_eq, stopped]
  have report := State.faultUnit_reports
    (State.addStatus { s.setRegion k ((s.region k).halt tile) with cmp := { (s.setRegion k ((s.region k).halt tile)).cmp with ports := l } }
      (s.coreWork k tile) (haltStatus cause)) k
  have gathered := State.addStatus_reports { s.setRegion k ((s.region k).halt tile) with
    cmp := { (s.setRegion k ((s.region k).halt tile)).cmp with ports := l } } (s.coreWork k tile) (haltStatus cause)
  refine ⟨fun j => ?_, fun j ne => ?_, report.sp.trans gathered.sp, ?_⟩
  · rw [report.region, gathered.region]
    exact State.region_setRegion s k j _
  · rw [report.port, gathered.port]
    exact others j ne
  · rw [State.faultUnit_cmp]
    cases s.coreWork k tile <;> rfl

/-- A halt changes the compute blocks and what a safety event changes. -/
theorem State.haltCore_pass (s : State) (k tile : Nat) (cause : HaltCause) : PassFrame s (s.haltCore k tile cause) := by
  rw [State.haltCore_eq]
  exact .trans _ _ _ (.trans _ _ _ (.trans _ _ _ (.of_cmp s _) (State.stopWin_pass _ k tile)) (State.addStatus_pass _ _ _)) (State.faultUnit_pass _ k)

/-- A halt is a safety event: it is counted, and while the log has room it is on record with the region and the time. -/
theorem State.haltCore_logs (s : State) (k tile : Nat) (cause : HaltCause) :
    (s.haltCore k tile cause).safe.logCount = s.safe.logCount + 1 ∧
      (s.safe.log.length < 256 → ∃ e, e ∈ (s.haltCore k tile cause).safe.log ∧ e.code = 0x08 ∧ e.detail = k ∧ e.time = s.time.cnt) := by
  rw [State.haltCore_eq]
  obtain ⟨l, stopped, _⟩ := (s.setRegion k ((s.region k).halt tile)).stopWin_frame k tile
  obtain ⟨m, gathered⟩ := ((s.setRegion k ((s.region k).halt tile)).stopWin k tile).addStatus_frame (s.coreWork k tile) (haltStatus cause)
  rw [gathered, stopped]
  exact ⟨State.faultUnit_logCount _ k, fun room => State.faultUnit_logs k room⟩

/-! ## The swap gate -/

/-- A halted tile core holds no strobe back that no core held back before. -/
theorem Region.mem_gateUnits_of_halt {x : Region} {tile c : Nat} {who : SwapUnit} (h : who ∈ (x.halt tile).gateUnits c) : who ∈ x.gateUnits c := by
  have shadow : ((x.halt tile).cluster c).shadow = (x.cluster c).shadow := by
    refine (congrArg Cluster.shadow (Region.cluster_setCluster x (tile / 16) c _)).trans ?_
    split
    · next same => rw [same]
    · rfl
  have passes : (x.halt tile).passes = x.passes := rfl
  have runs (i : Nat) : !maskBit (x.halt tile).halted i → !maskBit x.halted i := by
    intro on
    rw [Region.halt, maskBit_maskSet] at on
    simp_all
  unfold Region.gateUnits at h ⊢
  rw [shadow, passes] at h
  split at h
  · exact absurd h nofun
  · split at h
    · exact absurd h nofun
    · split at h
      · exact absurd h nofun
      · next coarse =>
        rw [if_neg coarse]
        simp only [List.mem_filter, List.mem_flatMap] at h ⊢
        obtain ⟨⟨i, ⟨hi, on⟩, unit⟩, held⟩ := h
        exact ⟨⟨i, ⟨hi, runs _ on⟩, unit⟩, held⟩

/-! ## The status of the work -/

/-- The status of a halt takes the place of a usable one. -/
theorem mergeStatus_halt {st : Status} (usable : st.usable = true) (cause : HaltCause) : mergeStatus st (haltStatus cause) = haltStatus cause := by
  have failed : (haltStatus cause).usable = false := by cases cause <;> rfl
  simp [mergeStatus, usable, failed]

/-- The work of the sequence that a halted core ran. -/
theorem State.haltCore_workStatus {s : State} {k tile : Nat} {p : RunPass} (cause : HaltCause) (runs : (s.region k).coreMaybe tile = some p)
    (usable : (s.workStatus (some p.key.work)).usable = true) (started : s.work p.key.work ≠ none) :
    (s.haltCore k tile cause).workStatus (some p.key.work) = haltStatus cause := by
  have work : s.coreWork k tile = some p.key.work := by rw [State.coreWork, runs]
  obtain ⟨_, _, _, works⟩ := s.haltCore_cmp k tile cause
  rw [work] at works
  have same : (s.haltCore k tile cause).workStatus (some p.key.work) = (s.addStatus (some p.key.work) (haltStatus cause)).workStatus (some p.key.work) := by
    simp only [State.workStatus, Option.bind_some, State.work, works]
  rw [same, State.workStatus_addStatus, if_neg started, mergeStatus_halt usable]

/-! ## TILE_CORE_HALT -/

/-- A tile core that has not halted halts. -/
theorem exec_tileCoreHalt {s : State} {d r tile : Nat} (t : Nat) (cause : HaltCause) (hp : s.powered = true) (known : s.available (rkey d r) = true)
    (ht : tile < 64) (runs : maskBit (s.region (rkey d r)).halted tile = false) :
    exec (.tileCoreHalt t d r tile cause) s = .next ((s.advance t).haltCore (rkey d r) tile cause) := by
  have known' : (s.advance t).available (rkey d r) = true := known
  simp [exec, execTileCoreHalt, hp, known', ht, runs]

/-- Halts of tile cores. -/
theorem tileCoreHalts : Claims.TileCoreHalts := by
  intro s t d r tile cause hp known ht runs k
  obtain ⟨regions, ports, sp, _⟩ := (s.advance t).haltCore_cmp k tile cause
  obtain ⟨counted, logged⟩ := (s.advance t).haltCore_logs k tile cause
  have here : ((s.advance t).haltCore k tile cause).region k = (s.region k).halt tile := (regions k).trans (if_pos rfl)
  have halted (i : Nat) : maskBit ((s.region k).halt tile).halted i = (maskBit (s.region k).halted i || decide (i < 64 ∧ tile = i)) := maskBit_maskSet _ _ _
  have faulty (i : Nat) : maskBit ((s.region k).halt tile).tcoreFault i = (maskBit (s.region k).tcoreFault i || decide (i < 64 ∧ tile = i)) :=
    maskBit_maskSet _ _ _
  refine ⟨_, exec_tileCoreHalt t cause hp known ht runs, ?_, ?_, ?_, fun i ne => ?_, fun c who h => ?_, fun q ne => ⟨(regions q).trans (if_neg ne), ports q ne⟩,
    sp, fun p => State.haltCore_workStatus (s := s.advance t) cause, counted, logged, ((s.advance t).haltCore_pass k tile cause).eq⟩
  · rw [here, faulty]
    simp [ht]
  · rw [here, halted]
    simp [ht]
  · unfold State.coreRuns
    dsimp only
    rw [here, halted]
    simp [ht]
  · rw [here, halted, faulty]
    simp [ne.symm]
  · rw [here] at h
    exact Region.mem_gateUnits_of_halt h

/-! ## The sequencers of a region -/

/-- Settles O13: its clauses are `swapStrobes`, where a strobe of several clusters is that of each in turn (`State.strobeClusters_strobes`),
`shapeAndDirection`, `tileCoreHalts`, `portModes` and `portPattern`. -/
theorem regionSequencers : Obligations.RegionSequencers := ⟨swapStrobes, shapeAndDirection, tileCoreHalts, portModes, portPattern⟩

end Sys2Proof.Machine
end

section
/-! PROOFS. The key-value pool and the layout of its regions (R132, R140). -/
namespace Sys2Proof.Machine

/-! ## First fit (R132) -/

theorem align4K_mod (n : Nat) : align4K n % 4096 = 0 := Nat.mul_mod_left _ _

theorem le_align4K (n : Nat) : n ≤ align4K n := by
  unfold align4K
  omega

theorem align4K_le {n b : Nat} (aligned : b % 4096 = 0) (h : n ≤ b) : align4K n ≤ b := by
  unfold align4K
  omega

theorem State.kvFree_iff (s : State) (part b n : Nat) : s.kvFree part b n = true ↔
    ((s.partCfg part).kvBase ≤ b ∧ b + n ≤ (s.partCfg part).kvBase + (s.partCfg part).kvLen) ∧
      ∀ r ∈ s.kvRegions part, b + n ≤ r.1 ∨ r.1 + r.2 ≤ b := by
  simp [State.kvFree]

theorem State.mem_kvStarts (s : State) (part b : Nat) : b ∈ s.kvStarts part ↔
    b = align4K (s.partCfg part).kvBase ∨ ∃ r ∈ s.kvRegions part, align4K (r.1 + r.2) = b := by
  simp [State.kvStarts]

/-- A fold that keeps the lower of the candidates that pass a test gives the least of them. -/
theorem foldl_eq_min? {f : Option Nat → Nat → Option Nat} {ok : Nat → Bool}
    (hf : ∀ best b, f best b = if ok b then some (best.elim b (min · b)) else best) (bs : List Nat) (best : Option Nat) :
    bs.foldl f best = (best.toList ++ bs.filter ok).min? := by
  induction bs generalizing best with
  | nil => cases best <;> simp
  | cons b bs ih =>
    rw [List.foldl_cons, ih, hf]
    by_cases h : ok b = true
    · rw [if_pos h, List.filter_cons_of_pos h]
      cases best with
      | none => rfl
      | some a => exact (List.min?_cons' ..).trans (List.min?_cons' ..).symm
    · rw [if_neg h, List.filter_cons_of_neg h]

/-- First fit takes the lowest free place at which it can begin. -/
theorem State.kvFit_eq (s : State) (part n : Nat) : s.kvFit part n = ((s.kvStarts part).filter fun b => s.kvFree part b n).min? := by
  unfold State.kvFit
  exact foldl_eq_min? (ok := fun b => s.kvFree part b n) (fun best b => by cases best <;> rfl) _ none

/-- Below a free place that is aligned the highest place at which a first fit can begin is free too. -/
theorem State.exists_kvStart_le {s : State} {part b n : Nat} (aligned : b % 4096 = 0) (free : s.kvFree part b n = true) :
    ∃ c ∈ s.kvStarts part, c ≤ b ∧ s.kvFree part c n = true := by
  obtain ⟨⟨low, high⟩, apart⟩ := (s.kvFree_iff part b n).1 free
  have first : align4K (s.partCfg part).kvBase ∈ (s.kvStarts part).filter (· ≤ b) :=
    List.mem_filter.2 ⟨(s.mem_kvStarts part _).2 (.inl rfl), decide_eq_true (align4K_le aligned low)⟩
  obtain ⟨c, top⟩ := Option.isSome_iff_exists.1 (List.isSome_max?_of_mem first)
  obtain ⟨mem, highest⟩ := List.max?_eq_some_iff.1 top
  obtain ⟨start, below⟩ := List.mem_filter.1 mem
  have below : c ≤ b := of_decide_eq_true below
  refine ⟨c, start, below, (s.kvFree_iff part c n).2 ⟨⟨(le_align4K _).trans (highest _ first), by omega⟩, fun r hr => ?_⟩⟩
  rcases apart r hr with before | after
  · exact .inl (by omega)
  · have behind : align4K (r.1 + r.2) ∈ (s.kvStarts part).filter (· ≤ b) :=
      List.mem_filter.2 ⟨(s.mem_kvStarts part _).2 (.inr ⟨r, hr, rfl⟩), decide_eq_true (align4K_le aligned after)⟩
    exact .inr ((le_align4K _).trans (highest _ behind))

/-- Settles O19: the place found is the least free one of those at which a first fit can begin (`State.kvFit_eq`), and a free aligned place
never lies below all of them (`State.exists_kvStart_le`). -/
theorem firstFit : Obligations.FirstFit := by
  intro s part n b found
  obtain ⟨mem, least⟩ := List.min?_eq_some_iff.1 ((s.kvFit_eq part n).symm.trans found)
  obtain ⟨start, free⟩ := List.mem_filter.1 mem
  refine ⟨free, ?_, fun b' aligned free' => ?_⟩
  · rcases (s.mem_kvStarts part b).1 start with rfl | ⟨r, _, rfl⟩ <;> exact align4K_mod _
  · obtain ⟨c, start', below, free'⟩ := State.exists_kvStart_le aligned free'
    exact (least c (List.mem_filter.2 ⟨start', free'⟩)).trans below

/-! ## The layout of a region (R140) -/

/-- The number of a place of the layout, in the order in which the places lie. -/
def kvIndex (m : ModelCfg) (p l k h j : Nat) : Nat := ((l * 2 + k) * m.heads + h) * p + j

theorem kvOffset_eq (m : ModelCfg) (p l k h j : Nat) : kvOffset m p l k h j = kvIndex m p l k h j * kvRow m := rfl

/-- A digit and what stands above it are read back from a number in mixed radix. -/
theorem digit_inj {n a b i j : Nat} (hi : i < n) (hj : j < n) (h : a * n + i = b * n + j) : a = b ∧ i = j := by
  have pos : 0 < n := by omega
  have low : i = j := by
    have := congrArg (· % n) h
    simpa [Nat.mul_add_mod_self_right, Nat.mod_eq_of_lt hi, Nat.mod_eq_of_lt hj] using this
  subst low
  exact ⟨Nat.eq_of_mul_eq_mul_right pos (by omega), rfl⟩

theorem digit_lt {n a b i : Nat} (hi : i < n) (ha : a < b) : a * n + i < b * n :=
  calc a * n + i < (a + 1) * n := by rw [Nat.add_one_mul]; omega
    _ ≤ b * n := Nat.mul_le_mul_right n ha

theorem kvIndex_inj {m : ModelCfg} {p l k h j l' k' h' j' : Nat} (hk : k < 2) (hh : h < m.heads) (hj : j < p) (hk' : k' < 2)
    (hh' : h' < m.heads) (hj' : j' < p) (same : kvIndex m p l k h j = kvIndex m p l' k' h' j') : (l, k, h, j) = (l', k', h', j') := by
  obtain ⟨heads, rfl⟩ := digit_inj hj hj' same
  obtain ⟨kinds, rfl⟩ := digit_inj hh hh' heads
  obtain ⟨rfl, rfl⟩ := digit_inj hk hk' kinds
  rfl

theorem kvIndex_lt {m : ModelCfg} {p l k h j : Nat} (hl : l < m.layers) (hk : k < 2) (hh : h < m.heads) (hj : j < p) :
    kvIndex m p l k h j < m.layers * 2 * m.heads * p := digit_lt hj (digit_lt hh (digit_lt hk hl))

/-- Rows of different numbers have no byte in common. -/
theorem rows_apart {a b n : Nat} (h : a ≠ b) : a * n + n ≤ b * n ∨ b * n + n ≤ a * n := by
  rw [← Nat.add_one_mul, ← Nat.add_one_mul]
  rcases Nat.lt_or_gt_of_ne h with less | more
  · exact .inl (Nat.mul_le_mul_right n less)
  · exact .inr (Nat.mul_le_mul_right n more)

/-- Settles O20: places are rows of one length numbered in mixed radix, in which different places have different numbers (`kvIndex_inj`). -/
theorem keyValueLayout : Obligations.KeyValueLayout := by
  intro m maxLen l k h j l' k' h' j' hl hk hh hj hl' hk' hh' hj' p
  have size : kvSize m maxLen = m.layers * 2 * m.heads * p * kvRow m := by rw [kvSize, Nat.mul_comm 2]
  refine ⟨by simp only [p, kvPositions]; omega, by simp only [p, kvPositions]; omega, Nat.mul_mod_right _ _, ?_, fun d _ => ?_, fun n i _ => ?_,
    fun s x hx => ?_, ?_, fun other => rows_apart fun same => other (kvIndex_inj hk hh hj hk' hh' hj' same)⟩
  · simp [kvSize, kvRow, p, Nat.mul_assoc]
  · simp only [kvOffset, kvRow]
    ring
  · simp only [kvOffset, kvRow]
    ring
  · rw [State.kvAddr, hx]
  · rw [size, kvOffset_eq, ← Nat.add_one_mul]
    exact Nat.mul_le_mul_right _ (kvIndex_lt hl hk hh hj)

end Sys2Proof.Machine
end

section
/-! PROOFS. The commands of sequence serving (R128 to R132, R159). -/
namespace Sys2Proof.Machine

theorem State.begin_seq (s : State) (c : Nat) (p : Packet) (cls i : Nat) : (s.begin_ c p cls).1.seq i = s.seq i := by
  rw [State.begin_eq]
  rfl

theorem State.begin_srv (s : State) (c : Nat) (p : Packet) (cls : Nat) : (s.begin_ c p cls).1.srv = s.srv := by
  rw [State.begin_eq]

theorem State.begin_builder (s : State) (c : Nat) (p : Packet) (cls part : Nat) : (s.begin_ c p cls).1.builder part = s.builder part := by
  rw [State.begin_eq]
  rfl

theorem State.begin_model (s : State) (c : Nat) (p : Packet) (cls i : Nat) : (s.begin_ c p cls).1.model i = s.model i := by
  rw [State.begin_eq]
  rfl

theorem State.begin_kvFit (s : State) (c : Nat) (p : Packet) (cls part n : Nat) : (s.begin_ c p cls).1.kvFit part n = s.kvFit part n := by
  rw [State.begin_eq]
  rfl

section
variable {s : State} {c : Nat} {p : Packet}

/-- SEQ_ADMIT passes its checks only for a model of the image whose region fits in the pool. -/
theorem fits_of_chkSeqAdmit (checked : chkSeqAdmit s c p = none) :
    ∃ m base, s.model (u8 p 17) = some m ∧ s.kvFit (s.ctx c).part (kvSize m (u32 p 24)) = some base := by
  unfold chkSeqAdmit at checked
  cases named : s.model (u8 p 17) with
  | none => simp [named] at checked
  | some m =>
    cases fit : s.kvFit (s.ctx c).part (kvSize m (u32 p 24)) with
    | none =>
      simp only [named, fit, Option.isNone_none, true_or, or_true, if_true] at checked
      split at checked
      · cases checked
      · split at checked
        · cases checked
        · split at checked <;> cases checked
    | some base => exact ⟨m, base, rfl, fit⟩

/-- The entry that SEQ_ADMIT makes, with its region of the model at `base`. -/
def admittedSeq (s : State) (c : Nat) (p : Packet) (m : ModelCfg) (base : Nat) : SeqEntry := {
  state := .waitSlot, cls := u8 p 16, ctx := c, part := (s.ctx c).part, keep := bitOf (u8 p 20) 0, model := u8 p 17, chunk := admitChunk p,
  sparse := u8 p 19, maxLen := u32 p 24, posStart := w32 (u32 p 56), promptLeft := u32 p 28, kvBase := base, kvLen := kvSize m (u32 p 24),
  promptAddr := u64 p 40, newLeft := u32 p 32, seed := w32 (u32 p 36), ring := u64 p 48 / 4096 * 4096, ringLog2 := admitLog2 p,
  tag := p.tag }

theorem exec_seqAdmit (h : HostRead) (starts : s.Starts c p 0x0310) (checked : chkSeqAdmit s c p = none) {m : ModelCfg} {base : Nat}
    (named : s.model (u8 p 17) = some m) (fit : s.kvFit (s.ctx c).part (kvSize m (u32 p 24)) = some base) :
    let b := s.begin_ c p (openClass s c p)
    let i := lowestUnlisted 0 s.srv.ents
    exec (.seqAdmit c p h) s =
      .next ((b.1.setSeq i (admittedSeq s c p m base)).complete b.2 stOk [w32 i, w32 base, w32 (base / 2 ^ 32)]) := by
  simp only [exec, execSeqAdmit, checked, State.command_starts starts, State.begin_part, State.begin_model, State.begin_kvFit, State.begin_srv,
    named, fit, Option.getD_some, State.replyNow, admittedSeq]

theorem exec_seqAppend (h : HostRead) (starts : s.Starts c p 0x0311) (checked : chkSeqAppend s c p = none) :
    let b := s.begin_ c p (seqClass s c p)
    exec (.seqAppend c p h) s = .next ((b.1.setSeq (seqArg p) { s.seq (seqArg p) with
      state := .waitSlot, promptLeft := u32 p 28, newLeft := u32 p 32, promptAddr := u64 p 40, ended := false }).complete b.2 stOk []) := by
  simp only [exec, execSeqAppend, checked, State.command_starts starts, State.begin_seq, State.replyNow]

/-- A command may name only an entry that is not FREE. -/
theorem live_of_chkSeqNamed (checked : chkSeqNamed s c p = none) : (s.seq (seqArg p)).state ≠ .free := by
  intro free
  simp [chkSeqNamed, free] at checked

/-- SEQ_STOP of an entry that its partition runs, that is already RETIRING, or that is at a boundary. -/
theorem exec_seqStop (starts : s.Starts c p 0x0312) (checked : chkSeqNamed s c p = none) :
    let b := s.begin_ c p (seqClass s c p)
    let x := s.seq (seqArg p)
    let stopped : SeqEntry := if (s.builder x.part).running then { x with stopReq := true } else
      { x with state := .retiring, stopReq := true, status := stOk }
    exec (.seqStop c p) s = .next ((if x.state = .retiring then b.1 else b.1.setSeq (seqArg p) stopped).complete b.2 stOk []) := by
  have live := live_of_chkSeqNamed checked
  simp only [exec, execSeqStop, checked, State.command_starts starts, State.stopSeq, State.begin_seq, State.begin_builder, State.replyNow,
    live, or_false]
  split
  · rfl
  · split <;> rfl

theorem exec_seqQuery (starts : s.Starts c p 0x0313) (checked : chkSeqNamed s c p = none) :
    let b := s.begin_ c p (seqClass s c p)
    let x := tblGet {} s.srv.shown (seqArg p)
    exec (.seqQuery c p) s = .next (b.1.complete b.2 stOk (if x.state = .free then List.replicate 5 0 else x.words) x.status) := by
  simp only [exec, execSeqQuery, checked, State.command_starts starts, State.begin_srv]

end

/-- SEQ_ADMIT, SEQ_APPEND, SEQ_STOP and SEQ_QUERY. -/
theorem sequenceCommands : Claims.SequenceCommands := by
  intro s c p h
  refine ⟨fun starts checked => ?_, exec_seqAppend h, exec_seqStop, fun starts checked =>
    ⟨fun shown => by rw [exec_seqQuery starts checked, if_neg shown], fun free => by rw [exec_seqQuery starts checked, if_pos free]; rfl⟩⟩
  obtain ⟨m, base, named, fit⟩ := fits_of_chkSeqAdmit checked
  have entry : ∀ b : State, (b.setSeq (lowestUnlisted 0 s.srv.ents) (admittedSeq s c p m base)).seq (lowestUnlisted 0 s.srv.ents) =
      admittedSeq s c p m base := fun b => by simp
  refine ⟨_, m, _, base, exec_seqAdmit h starts checked named fit, named, rfl, fit, ?_⟩
  rw [entry]
  exact ⟨rfl, rfl, rfl, rfl, rfl, rfl, rfl, rfl, rfl, rfl⟩

end Sys2Proof.Machine
end

section
/-! PROOFS. What the operations on one sequence can change (R129, R137, R139, R146, R155 to R161). -/
namespace Sys2Proof.Machine

/-! ## Frames -/

/-- A step builder but for its list, the model and the template of that, and the model stepped last. -/
def Builder.core (b : Builder) : Builder := { b with list := [], model := 0, tpl := 0, lastMdl := 0 }

/-- The two states differ at most in the command interface, the memories, the sequence table, what a builder lists and what a safety event
changes. -/
structure ServeFrame (s u : State) : Prop where
  eq : u = { s with cmd := u.cmd, cmp := u.cmp, srv := u.srv, safe := u.safe, cte := u.cte, eths := u.eths, records := u.records,
                    hostMem := u.hostMem, hubMem := u.hubMem }
  works : u.cmp.works = s.cmp.works
  steps : u.srv.steps = s.srv.steps
  builders : ∀ q, (u.builder q).core = (s.builder q).core

theorem ServeFrame.refl (s : State) : ServeFrame s s := ⟨rfl, rfl, rfl, fun _ => rfl⟩

theorem ServeFrame.trans (s t u : State) (h : ServeFrame s t) (k : ServeFrame t u) : ServeFrame s u where
  eq := by rw [k.eq, h.eq]
  works := k.works.trans h.works
  steps := k.steps.trans h.steps
  builders q := (k.builders q).trans (h.builders q)

theorem ServeFrame.foldl {β : Type} (f : State → β → State) (hf : ∀ s x, ServeFrame s (f s x)) (l : List β) (s : State) : ServeFrame s (l.foldl f s) :=
  foldl_keeps ServeFrame f ServeFrame.refl ServeFrame.trans hf l s

/-- Such a change that leaves every entry of the sequence table but one alone. -/
structure SeqFrame (i : Nat) (s u : State) : Prop extends ServeFrame s u where
  others : ∀ k, k ≠ i → u.seq k = s.seq k

namespace SeqFrame
variable {i : Nat} {s t u : State}

theorem refl (i : Nat) (s : State) : SeqFrame i s s := ⟨.refl s, fun _ _ => rfl⟩

theorem trans (h : SeqFrame i s t) (k : SeqFrame i t u) : SeqFrame i s u :=
  ⟨.trans s t u h.toServeFrame k.toServeFrame, fun j hj => (k.others j hj).trans (h.others j hj)⟩

theorem foldl {β : Type} (f : State → β → State) (hf : ∀ s x, SeqFrame i s (f s x)) (l : List β) (s : State) : SeqFrame i s (l.foldl f s) :=
  foldl_keeps (SeqFrame i) f (refl i) (fun _ _ _ => trans) hf l s

theorem of_safe (h : SafeFrame s u) : SeqFrame i s u where
  eq := by rw [h.eq]
  works := by rw [h.eq]
  steps := by rw [h.eq]
  builders q := by rw [h.eq]; rfl
  others k _ := by rw [h.eq]; rfl

theorem of_cmd {m : Cmd} (h : u = { s with cmd := m }) : SeqFrame i s u := by
  subst h
  exact ⟨⟨rfl, rfl, rfl, fun _ => rfl⟩, fun _ _ => rfl⟩

theorem of_sp {m : Mem} (h : u = { s with cmp := { s.cmp with sp := m } }) : SeqFrame i s u := by
  subst h
  exact ⟨⟨rfl, rfl, rfl, fun _ => rfl⟩, fun _ _ => rfl⟩

end SeqFrame

theorem State.setSeq_frame (s : State) (i : Nat) (x : SeqEntry) : SeqFrame i s (s.setSeq i x) :=
  ⟨⟨rfl, rfl, rfl, fun _ => rfl⟩, fun k hk => by simp [hk]⟩

theorem State.lpWrite_seqFrame (s : State) (i a : Nat) (bs : List Byte) : SeqFrame i s (s.lpWrite a bs) := ⟨⟨rfl, rfl, rfl, fun _ => rfl⟩, fun _ _ => rfl⟩

theorem State.writeFunc_seqFrame (s : State) (i f a : Nat) (bs : List Byte) : SeqFrame i s (s.writeFunc f a bs) := by
  have h := s.writeFunc_frame f a bs
  exact ⟨⟨by rw [h], by rw [h], by rw [h], fun _ => by rw [h]; rfl⟩, fun _ _ => by rw [h]; rfl⟩

/-! ## Slots: parks and grants (R137, R146, R157) -/

theorem State.copyFault_safe (s : State) (m : ModelCfg) : SafeFrame s (s.copyFault m) := by
  unfold State.copyFault
  split
  · exact State.raise_frame s _ _ _
  · exact .refl s

/-- A fault of a copy that is reported only in some cases. -/
theorem State.copyFault_if_safe (s : State) (m : ModelCfg) (c : Prop) [Decidable c] : SafeFrame s (if c then s.copyFault m else s) := by
  split
  · exact s.copyFault_safe m
  · exact .refl s

theorem State.stageToRegion_frame (s : State) (i : Nat) (x : SeqEntry) (m : ModelCfg) (page : Nat) : SeqFrame i s (s.stageToRegion x m page) :=
  SeqFrame.foldl _ (fun s _ => s.lpWrite_seqFrame i _ _) _ s

theorem State.stageWrite_frame (s : State) (x : SeqEntry) (m : ModelCfg) (l k h j : Nat) (bs : List Byte) :
    ∃ p, s.stageWrite x m l k h j bs = { s with cmp := { s.cmp with sp := p } } := by
  unfold State.stageWrite
  split
  · exact State.spWrite_frame s _ _
  · exact ⟨s.cmp.sp, rfl⟩

theorem State.regionToStage_frame (s : State) (i : Nat) (x : SeqEntry) (m : ModelCfg) (page : Nat) : SeqFrame i s (s.regionToStage x m page) :=
  SeqFrame.foldl _ (fun s _ => .of_sp (s.stageWrite_frame _ _ _ _ _ _ _).choose_spec) _ s

/-- A park whose page is lost: the entry is corrupt and RETIRING with the status of the loss. -/
def State.lostSeq (s : State) (i : Nat) (m : ModelCfg) (e : Status) : State :=
  (if e = stEcc then s.copyFault m else s).setSeq i { s.seq i with state := .retiring, corrupt := true, status := e }

/-- An entry that leaves its slot for a state; `parked` tells whether its partial page has been written. -/
def SeqEntry.leave (x : SeqEntry) (st : SeqState) (parked : Bool) : SeqEntry :=
  { x with state := st, slot := none, pageParked := x.pageParked || parked }

/-- What parking an entry can do: its page is lost, or it leaves its slot, its partial page in the region. -/
theorem State.parkSeq_cases (s : State) (lost : BoundaryLoss) (i : Nat) (st : SeqState) :
    (∃ m e, s.model (s.seq i).model = some m ∧ (s.seq i).length % 64 ≠ 0 ∧ (if s.stagePoisoned (s.seq i) m then some stEcc else lostPark lost i) = some e ∧
      s.parkSeq lost i st = s.lostSeq i m e) ∨
    ((∀ m, s.model (s.seq i).model = some m → (s.seq i).length % 64 ≠ 0 → s.stagePoisoned (s.seq i) m = false ∧ lostPark lost i = none) ∧
      ∃ v parked, SeqFrame i s v ∧ s.parkSeq lost i st = v.setSeq i ((s.seq i).leave st parked)) := by
  unfold State.parkSeq
  cases named : s.model (s.seq i).model with
  | none => exact .inr ⟨nofun, s, false, .refl i s, by simp [named, SeqEntry.leave]⟩
  | some m =>
    by_cases whole : (s.seq i).length % 64 = 0
    · exact .inr ⟨fun _ _ h => absurd whole h, s, false, .refl i s, by simp [named, whole, SeqEntry.leave]⟩
    · have part : ((s.seq i).length % 64 != 0) = true := by simpa using whole
      cases bad : (if s.stagePoisoned (s.seq i) m then some stEcc else lostPark lost i) with
      | some e => exact .inl ⟨m, e, rfl, whole, bad, by simp [named, part, bad, State.lostSeq]⟩
      | none =>
        refine .inr ⟨?_, s.stageToRegion (s.seq i) m ((s.seq i).length / 64), true, s.stageToRegion_frame i _ _ _, by simp [named, part, bad, SeqEntry.leave]⟩
        rintro _ ⟨⟩ -
        split at bad
        · cases bad
        · rename_i clean
          exact ⟨by simpa using clean, bad⟩

theorem State.lostSeq_frame (s : State) (i : Nat) (m : ModelCfg) (e : Status) : SeqFrame i s (s.lostSeq i m e) :=
  .trans (.of_safe (s.copyFault_if_safe m _)) (State.setSeq_frame _ i _)

theorem State.parkSeq_frame (s : State) (lost : BoundaryLoss) (i : Nat) (st : SeqState) : SeqFrame i s (s.parkSeq lost i st) := by
  rcases s.parkSeq_cases lost i st with ⟨m, e, _, _, _, h⟩ | ⟨_, v, parked, frame, h⟩ <;> rw [h]
  · exact s.lostSeq_frame i m e
  · exact frame.trans (State.setSeq_frame _ i _)

theorem State.giveSlot_frame (s : State) (i slot : Nat) : SeqFrame i s (s.giveSlot i slot) := by
  unfold State.giveSlot
  dsimp only
  split
  · split
    · exact .trans (.of_safe (s.copyFault_safe _)) (State.setSeq_frame _ i _)
    · exact .trans (s.regionToStage_frame i _ _ _) (State.setSeq_frame _ i _)
  · exact s.setSeq_frame i _

theorem State.mirrorSeq_frame (s : State) (i : Nat) (x : SeqEntry) (granted : Bool) : SeqFrame i s (s.mirrorSeq i x granted) := by
  unfold State.mirrorSeq
  extract_lets old v mine y
  have parked : SeqFrame i s v := by
    unfold v
    split
    · exact s.parkSeq_frame _ i _
    · exact .refl i s
  refine parked.trans ?_
  split
  · split
    · exact .trans (State.setSeq_frame _ i _) (State.giveSlot_frame _ i _)
    · exact State.setSeq_frame _ i _
  · exact State.setSeq_frame _ i _

/-! ## Records (R155, R302) -/

/-- No record is written of a mirror or of a sequence whose owner is gone. -/
theorem State.outRecord_unowned {s : State} {i : Nat} (h : (s.seq i).gone = true ∨ s.mirrored (s.seq i) = true) (lost : BoundaryLoss) (token : Word)
    (pos : Nat) (st : Status) : s.outRecord lost i token pos st = s := by
  rcases h with gone | mirror
  · simp [State.outRecord, gone]
  · simp [State.outRecord, mirror]

section
variable {s : State} {lost : BoundaryLoss} {i : Nat} (owned : (s.seq i).gone = false) (lead : s.mirrored (s.seq i) = false) (token : Word) (pos : Nat) (st : Status)
include owned lead

/-- A record that cannot be written puts its context into ERROR. -/
theorem State.outRecord_lost (h : s.ctxDead (s.seq i).ctx = true ∨ (s.seq i).ctx ∈ lost.writes) :
    s.outRecord lost i token pos st = s.ctxError (s.seq i).ctx 3 := by
  rcases h with dead | failed
  · simp [State.outRecord, owned, lead, dead]
  · simp [State.outRecord, owned, lead, failed]

/-- A record that is written moves the producer index on. -/
theorem State.outRecord_written (alive : s.ctxDead (s.seq i).ctx = false) (ok : (s.seq i).ctx ∉ lost.writes) :
    s.outRecord lost i token pos st = (s.writeFunc (s.ctx (s.seq i).ctx).func ((s.seq i).ring + 64 + 16 * ((s.seq i).outPi.toNat % 2 ^ (s.seq i).ringLog2))
      (leBytes token.toNat 4 ++ leBytes pos 4 ++ leBytes st.toNat 2 ++ leBytes i 2 ++ leBytes (s.builder (s.seq i).part).steps.toNat 4)).setSeq i
      { s.seq i with outPi := (s.seq i).outPi + 1 } := by
  simp [State.outRecord, owned, lead, alive, ok]

end

/-- A record changes nothing of the sequence table but a producer index. -/
theorem State.outRecord_moves (s : State) (lost : BoundaryLoss) (i : Nat) (token : Word) (pos : Nat) (st : Status) :
    SeqFrame i s (s.outRecord lost i token pos st) ∧ ∃ pi, (s.outRecord lost i token pos st).seq i = { s.seq i with outPi := pi } := by
  by_cases unowned : (s.seq i).gone = true ∨ s.mirrored (s.seq i) = true
  · rw [State.outRecord_unowned unowned]
    exact ⟨.refl i s, _, rfl⟩
  · simp only [not_or, Bool.not_eq_true] at unowned
    obtain ⟨owned, lead⟩ := unowned
    by_cases bad : s.ctxDead (s.seq i).ctx = true ∨ (s.seq i).ctx ∈ lost.writes
    · obtain ⟨m, eq⟩ := s.ctxError_frame (s.seq i).ctx 3
      rw [State.outRecord_lost owned lead _ _ _ bad]
      exact ⟨.of_cmd eq, (s.seq i).outPi, by rw [eq]; rfl⟩
    · simp only [not_or, Bool.not_eq_true] at bad
      rw [State.outRecord_written owned lead _ _ _ bad.1 bad.2]
      exact ⟨.trans (s.writeFunc_seqFrame i _ _ _) (State.setSeq_frame _ i _), _, by rw [State.seq_setSeq, if_pos rfl]⟩

theorem State.outRecord_frame (s : State) (lost : BoundaryLoss) (i : Nat) (token : Word) (pos : Nat) (st : Status) :
    SeqFrame i s (s.outRecord lost i token pos st) := (s.outRecord_moves lost i token pos st).1

/-- An index that has not moved is not written. -/
theorem State.outIndex_same {s : State} {i : Nat} {old : BitVec 16} (h : (s.seq i).outPi = old) : s.outIndex i old = s := if_pos h

theorem State.outIndex_moved {s : State} {i : Nat} {old : BitVec 16} (h : (s.seq i).outPi ≠ old) :
    s.outIndex i old = s.writeFunc (s.ctx (s.seq i).ctx).func (s.seq i).ring (leBytes (s.seq i).outPi.toNat 4) := if_neg h

theorem State.outIndex_frame (s : State) (i : Nat) (old : BitVec 16) : SeqFrame i s (s.outIndex i old) := by
  unfold State.outIndex
  dsimp only
  split
  · exact .refl i s
  · exact s.writeFunc_seqFrame i _ _ _

theorem State.seq_outIndex (s : State) (i : Nat) (old : BitVec 16) (k : Nat) : (s.outIndex i old).seq k = s.seq k := by
  unfold State.outIndex
  dsimp only
  split
  · rfl
  · rw [State.writeFunc_frame]
    rfl

/-! ### One record and the index behind it -/

theorem State.record_unowned {s : State} {i : Nat} (h : (s.seq i).gone = true ∨ s.mirrored (s.seq i) = true) (lost : BoundaryLoss) (token : Word)
    (pos : Nat) (st : Status) : (s.outRecord lost i token pos st).outIndex i (s.seq i).outPi = s := by
  rw [State.outRecord_unowned h, State.outIndex_same rfl]

section
variable {s : State} {lost : BoundaryLoss} {i : Nat} (owned : (s.seq i).gone = false) (lead : s.mirrored (s.seq i) = false) (token : Word) (pos : Nat) (st : Status)
include owned lead

theorem State.record_lost (h : s.ctxDead (s.seq i).ctx = true ∨ (s.seq i).ctx ∈ lost.writes) :
    (s.outRecord lost i token pos st).outIndex i (s.seq i).outPi = s.ctxError (s.seq i).ctx 3 := by
  rw [State.outRecord_lost owned lead token pos st h, State.outIndex_same]
  obtain ⟨m, eq⟩ := s.ctxError_frame (s.seq i).ctx 3
  rw [eq]
  rfl

theorem State.record_written (alive : s.ctxDead (s.seq i).ctx = false) (ok : (s.seq i).ctx ∉ lost.writes) :
    (s.outRecord lost i token pos st).outIndex i (s.seq i).outPi =
      ((s.writeFunc (s.ctx (s.seq i).ctx).func ((s.seq i).ring + 64 + 16 * ((s.seq i).outPi.toNat % 2 ^ (s.seq i).ringLog2))
        (leBytes token.toNat 4 ++ leBytes pos 4 ++ leBytes st.toNat 2 ++ leBytes i 2 ++ leBytes (s.builder (s.seq i).part).steps.toNat 4)).setSeq i
        { s.seq i with outPi := (s.seq i).outPi + 1 }).writeFunc (s.ctx (s.seq i).ctx).func (s.seq i).ring (leBytes ((s.seq i).outPi + 1).toNat 4) := by
  have ctx : ∀ f a bs c, (s.writeFunc f a bs).ctx c = s.ctx c := fun f a bs c => by
    rw [State.writeFunc_frame]
    rfl
  rw [State.outRecord_written owned lead token pos st alive ok, State.outIndex_moved]
  · simp [ctx]
  · simp

end

/-! ### The records of a step -/

/-- The state after the token record of a step, if there is one. -/
def State.tokenRecord (s : State) (lost : BoundaryLoss) (i : Nat) : Option Word → State
  | some w => s.outRecord lost i w (s.seq i).length (s.seq i).status
  | none => s

/-- The state after the end record of a sequence. -/
def State.endRecord (s : State) (lost : BoundaryLoss) (i : Nat) (pos : Nat) (st : Status) : State :=
  let u := s.outRecord lost i 0xFFFFFFFF pos st
  u.setSeq i { u.seq i with ended := true }

theorem State.seqRecords_eq (s : State) (lost : BoundaryLoss) (i : Nat) (tok : Option Word) (finished : Bool) : s.seqRecords lost i tok finished =
    (if finished then (s.tokenRecord lost i tok).endRecord lost i (s.seq i).length (s.seq i).status else s.tokenRecord lost i tok).outIndex i (s.seq i).outPi := by
  cases tok <;> rfl

theorem State.tokenRecord_moves (s : State) (lost : BoundaryLoss) (i : Nat) (tok : Option Word) :
    SeqFrame i s (s.tokenRecord lost i tok) ∧ ∃ pi, (s.tokenRecord lost i tok).seq i = { s.seq i with outPi := pi } := by
  cases tok with
  | none => exact ⟨.refl i s, _, rfl⟩
  | some w => exact s.outRecord_moves lost i w _ _

theorem State.endRecord_moves (s : State) (lost : BoundaryLoss) (i : Nat) (pos : Nat) (st : Status) :
    SeqFrame i s (s.endRecord lost i pos st) ∧ ∃ pi, (s.endRecord lost i pos st).seq i = { s.seq i with outPi := pi, ended := true } := by
  obtain ⟨frame, pi, moved⟩ := s.outRecord_moves lost i 0xFFFFFFFF pos st
  exact ⟨frame.trans (State.setSeq_frame _ i _), pi, by rw [State.endRecord, State.seq_setSeq, if_pos rfl, moved]⟩

/-- The records of a sequence in a step: the table changes in its producer index, and one that has finished has its end record. -/
theorem State.seqRecords_moves (s : State) (lost : BoundaryLoss) (i : Nat) (tok : Option Word) (finished : Bool) :
    SeqFrame i s (s.seqRecords lost i tok finished) ∧
      ∃ pi, (s.seqRecords lost i tok finished).seq i = { s.seq i with outPi := pi, ended := (s.seq i).ended || finished } := by
  obtain ⟨token, pi, moved⟩ := s.tokenRecord_moves lost i tok
  rw [State.seqRecords_eq, State.seq_outIndex]
  cases finished with
  | false => exact ⟨token.trans (State.outIndex_frame _ i _), pi, by simp [moved]⟩
  | true =>
    obtain ⟨ending, pi', ended⟩ := (s.tokenRecord lost i tok).endRecord_moves lost i (s.seq i).length (s.seq i).status
    exact ⟨token.trans (ending.trans (State.outIndex_frame _ i _)), pi', by simp [ended, moved]⟩

end Sys2Proof.Machine
end

section
/-! PROOFS. What a step does to each of its sequences (R138, R139, R155 to R157). -/
namespace Sys2Proof.Machine

/-! ## Fields of an entry after a step -/

/-- The prompt tokens that are left after `n` positions. -/
def SeqEntry.leftAfter (x : SeqEntry) (n : Nat) : Nat := if x.state = .prompt then x.promptLeft - n else 0

theorem SeqEntry.leftAfter_fold (x : SeqEntry) (n : Nat) : (if x.state = .prompt then x.promptLeft - n else 0) = x.leftAfter n := rfl

/-- An entry moved on by `n` positions, whose statuses stand from position `first` of the step on. -/
def State.movedSeq (s : State) (id : WorkId) (i n first : Nat) : SeqEntry :=
  let x := s.seq i
  { x with
    length := x.length + n, promptLeft := x.leftAfter n, promptAddr := (if x.state = .prompt then x.promptAddr + 4 * n else x.promptAddr),
    rerun := x.rerun || (List.range n).any (fun k => s.posStatus id (first + k) == stWideRerun), status := s.posStatus id (first + n - 1) }

/-- What the output stage gives at the last of the positions. -/
def State.stageToken (s : State) (tpl : Template) (i n first : Nat) : Option Word :=
  let x := s.seq i
  Config.outputStage ((s.image.map Image.ident).getD 0) x.model x.seed (x.posStart + w32 (x.length + n - 1)) (s.outInputs tpl (first + n - 1))

/-- An entry whose last position has been taken to the output stage. -/
def State.tokenedSeq (s : State) (id : WorkId) (tpl : Template) (i n first : Nat) : SeqEntry :=
  let y := s.movedSeq id i n first
  let tok := s.stageToken tpl i n first
  { y with state := .decode, newLeft := (if tok.isSome then y.newLeft - 1 else y.newLeft), last := tok.getD y.last }

/-- Whether a sequence ends at the positions: at the end marker, or at the last of its new tokens. -/
def State.endsSeq (s : State) (id : WorkId) (tpl : Template) (i n first : Nat) : Bool :=
  (s.stageToken tpl i n first).isNone || (s.tokenedSeq id tpl i n first).newLeft == 0

/-- The state with the entry taken to the output stage, and out of its slot where it has ended. -/
def State.takenSeq (s : State) (lost : BoundaryLoss) (id : WorkId) (tpl : Template) (i n first : Nat) : State :=
  let u := s.setSeq i (s.tokenedSeq id tpl i n first)
  if s.endsSeq id tpl i n first then u.finishSeq lost i else u

/-! ## The cases of a step -/

theorem State.finishSeq_frame (s : State) (lost : BoundaryLoss) (i : Nat) : SeqFrame i s (s.finishSeq lost i) := by
  unfold State.finishSeq
  dsimp only
  split
  · exact s.parkSeq_frame lost i _
  · exact s.setSeq_frame i _

theorem State.seqRecords_frame (s : State) (lost : BoundaryLoss) (i : Nat) (tok : Option Word) (finished : Bool) :
    SeqFrame i s (s.seqRecords lost i tok finished) := (s.seqRecords_moves lost i tok finished).1

/-- At the end marker and at the last of its new tokens a sequence ends. -/
theorem State.endsSeq_of_last {s : State} {tpl : Template} {i n first : Nat} (ends : s.stageToken tpl i n first = none ∨ (s.seq i).newLeft ≤ 1)
    (id : WorkId) : s.endsSeq id tpl i n first = true := by
  unfold State.endsSeq
  cases gives : s.stageToken tpl i n first with
  | none => rfl
  | some w =>
    have few : (s.seq i).newLeft ≤ 1 := ends.resolve_left (by simp [gives])
    have spent : (s.tokenedSeq id tpl i n first).newLeft = (s.seq i).newLeft - 1 := by
      simp only [State.tokenedSeq, gives]
      rfl
    rw [spent]
    simpa using Nat.sub_eq_zero_of_le few

section
variable {s : State} {id : WorkId} {tpl : Template} {i n first : Nat} (lost : BoundaryLoss) (m : ModelCfg)

/-- A fault leaves the entry's length and makes it corrupt and RETIRING. -/
theorem State.advanceSeq_faulted {st : Status} (fault : worstFault (s.seqFaults id tpl first n ((s.seq i).leftAfter n == 0)) = some st) :
    ∃ v, SafeFrame s v ∧ s.advanceSeq lost id m tpl (i, n) first =
      v.setSeq i { s.seq i with state := .retiring, corrupt := true, status := st } := by
  have safe := s.copyFault_if_safe m (((s.seq i).leftAfter n == 0 && s.outFault tpl (first + n - 1) == stEcc) = true)
  refine ⟨_, safe, ?_⟩
  simp only [State.advanceSeq, beq_iff_eq, SeqEntry.leftAfter_fold, fault, State.corruptSeq]
  rw [(SeqFrame.of_safe (i := i + 1) safe).others i (by omega)]

section
variable (clean : worstFault (s.seqFaults id tpl first n ((s.seq i).leftAfter n == 0)) = none)
include clean

/-- A chunk that does not end its prompt moves the entry on, without a record. -/
theorem State.advanceSeq_continues (more : 0 < (s.seq i).leftAfter n) :
    s.advanceSeq lost id m tpl (i, n) first = s.setSeq i (s.movedSeq id i n first) := by
  simp only [State.advanceSeq, beq_iff_eq, SeqEntry.leftAfter_fold, clean, gt_iff_lt, if_pos more, State.movedSeq]

/-- At the last position of its prompt, and at a token, the entry is taken to the output stage, and what it gives is recorded unless its page
has been lost. -/
theorem State.advanceSeq_gives (last : (s.seq i).leftAfter n = 0) :
    s.advanceSeq lost id m tpl (i, n) first = if ((s.takenSeq lost id tpl i n first).seq i).corrupt then s.takenSeq lost id tpl i n first
      else (s.takenSeq lost id tpl i n first).seqRecords lost i (s.stageToken tpl i n first) (s.endsSeq id tpl i n first) := by
  have none_left : ¬ 0 < (s.seq i).leftAfter n := by omega
  simp only [State.advanceSeq, beq_iff_eq, SeqEntry.leftAfter_fold, clean, gt_iff_lt, if_neg none_left, State.takenSeq, State.endsSeq, State.tokenedSeq,
    State.stageToken, State.movedSeq]
  rfl

/-- A token that does not finish its sequence is recorded. -/
theorem State.advanceSeq_token (sound : (s.seq i).corrupt = false) (last : (s.seq i).leftAfter n = 0) {w : Word}
    (gives : s.stageToken tpl i n first = some w) (more : 1 < (s.seq i).newLeft) :
    let y := s.movedSeq id i n first
    let z : SeqEntry := { y with state := .decode, newLeft := (s.seq i).newLeft - 1, last := w }
    s.advanceSeq lost id m tpl (i, n) first =
      ((s.setSeq i z).outRecord lost i w ((s.seq i).length + n) y.status).outIndex i (s.seq i).outPi := by
  have entry : s.tokenedSeq id tpl i n first =
      { s.movedSeq id i n first with state := .decode, newLeft := (s.seq i).newLeft - 1, last := w } := by
    simp only [State.tokenedSeq, gives]
    rfl
  have goes_on : s.endsSeq id tpl i n first = false := by
    simp [State.endsSeq, entry, gives]
    omega
  have taken : s.takenSeq lost id tpl i n first =
      s.setSeq i { s.movedSeq id i n first with state := .decode, newLeft := (s.seq i).newLeft - 1, last := w } := by
    simp only [State.takenSeq, goes_on, entry, Bool.false_eq_true, if_false]
  have sound' : (s.movedSeq id i n first).corrupt = false := sound
  rw [State.advanceSeq_gives lost m clean last, taken, gives, goes_on]
  simp only [State.seqRecords, State.seq_setSeq, if_true, sound', Bool.false_eq_true, if_false]
  rfl

section
variable (last : (s.seq i).leftAfter n = 0) (ends : s.stageToken tpl i n first = none ∨ (s.seq i).newLeft ≤ 1)
include last ends

variable {v : State} (left : (s.setSeq i (s.tokenedSeq id tpl i n first)).finishSeq lost i = v)
include left

/-- A sequence whose page is lost as it ends records nothing. -/
theorem State.advanceSeq_spoiled (corrupt : (v.seq i).corrupt = true) : s.advanceSeq lost id m tpl (i, n) first = v := by
  have taken : s.takenSeq lost id tpl i n first = v := (if_pos (State.endsSeq_of_last ends id)).trans left
  rw [State.advanceSeq_gives lost m clean last, taken, if_pos corrupt]

/-- A sequence that ends has its end record. -/
theorem State.seq_advanceSeq_ended (sound : (v.seq i).corrupt = false) :
    ∃ pi, (s.advanceSeq lost id m tpl (i, n) first).seq i = { v.seq i with outPi := pi, ended := true } := by
  have taken : s.takenSeq lost id tpl i n first = v := (if_pos (State.endsSeq_of_last ends id)).trans left
  obtain ⟨_, pi, entry⟩ := v.seqRecords_moves lost i (s.stageToken tpl i n first) true
  refine ⟨pi, ?_⟩
  rw [State.advanceSeq_gives lost m clean last, taken, if_neg (by simp [sound]), State.endsSeq_of_last ends id, entry, Bool.or_true]

end

end

/-- A sequence's part of a step leaves every other sequence alone. -/
theorem State.advanceSeq_frame (s : State) (lost : BoundaryLoss) (id : WorkId) (m : ModelCfg) (tpl : Template) (i n first : Nat) :
    SeqFrame i s (s.advanceSeq lost id m tpl (i, n) first) := by
  cases fault : worstFault (s.seqFaults id tpl first n ((s.seq i).leftAfter n == 0)) with
  | some st =>
    obtain ⟨v, safe, eq⟩ := State.advanceSeq_faulted lost m fault
    rw [eq]
    exact .trans (.of_safe safe) (v.setSeq_frame i _)
  | none =>
    rcases Nat.eq_zero_or_pos ((s.seq i).leftAfter n) with last | more
    · rw [State.advanceSeq_gives lost m fault last]
      have taken : SeqFrame i s (s.takenSeq lost id tpl i n first) := by
        unfold State.takenSeq
        dsimp only
        split
        · exact .trans (s.setSeq_frame i _) (State.finishSeq_frame _ lost i)
        · exact s.setSeq_frame i _
      split
      · exact taken
      · exact taken.trans (State.seqRecords_frame _ lost i _ _)
    · rw [State.advanceSeq_continues lost m fault more]
      exact s.setSeq_frame i _

/-- A finished sequence that is not kept is RETIRING. -/
theorem State.finishSeq_retires {x : SeqEntry} (h : ¬(x.keep = true ∧ x.cls = 2)) :
    (s.setSeq i x).finishSeq lost i = (s.setSeq i x).setSeq i { x with state := .retiring } := by
  simp only [State.finishSeq, State.seq_setSeq, if_true, if_neg h]

/-- A finished sequence that is kept is parked. -/
theorem State.finishSeq_parks {x : SeqEntry} (keep : x.keep = true) (cls : x.cls = 2) :
    (s.setSeq i x).finishSeq lost i = (s.setSeq i x).parkSeq lost i .idle := by
  simp only [State.finishSeq, State.seq_setSeq, if_true, if_pos (And.intro keep cls)]

end

/-- A park that does not lose a page leaves an entry in its new state, without a slot. -/
theorem State.parkSeq_kept {s : State} {lost : BoundaryLoss} {i : Nat} (clean : ∀ m, s.model (s.seq i).model = some m → s.stagePoisoned (s.seq i) m = false)
    (kept : lostPark lost i = none ∨ (s.seq i).length % 64 = 0 ∨ s.model (s.seq i).model = none) (st : SeqState) :
    ∃ (v : State) (parked : Bool), s.parkSeq lost i st = v.setSeq i ((s.seq i).leave st parked) := by
  rcases s.parkSeq_cases lost i st with ⟨m, e, named, part, bad, _⟩ | ⟨_, v, parked, _, eq⟩
  · rw [clean m named, if_neg Bool.false_ne_true] at bad
    rcases kept with none | whole | none
    · simp [none] at bad
    · exact absurd whole part
    · simp [none] at named
  · exact ⟨v, parked, eq⟩

/-- A park whose write fails makes the entry corrupt with the status of the failure. -/
theorem State.parkSeq_lost {s : State} {lost : BoundaryLoss} {i : Nat} (clean : ∀ m, s.model (s.seq i).model = some m → s.stagePoisoned (s.seq i) m = false)
    {e : Status} (fails : lostPark lost i = some e) (known : s.model (s.seq i).model ≠ none) (part : (s.seq i).length % 64 ≠ 0) (st : SeqState) :
    ∃ m, s.parkSeq lost i st = s.lostSeq i m e := by
  rcases s.parkSeq_cases lost i st with ⟨m, e', named, _, bad, eq⟩ | ⟨kept, _⟩
  · rw [clean m named, if_neg Bool.false_ne_true, fails] at bad
    obtain rfl : e = e' := Option.some.inj bad
    exact ⟨m, eq⟩
  · obtain ⟨m, named⟩ := Option.ne_none_iff_exists'.1 known
    exact absurd (kept m named part).2 (by simp [fails])

/-- What a step does to each of its sequences. -/
theorem sequenceAdvance : Claims.SequenceAdvance := by
  intro s lost id m tpl i n first x left u y tok
  have frame : SeqFrame i s u := s.advanceSeq_frame lost id m tpl i n first
  refine ⟨frame.others, fun st fault => ?_, fun clean sound => ⟨fun more => State.advanceSeq_continues lost m clean more,
    fun last w gives more => ?_, fun last ends => ?_⟩⟩
  · obtain ⟨v, safe, eq⟩ := State.advanceSeq_faulted lost m fault
    have eq : u = _ := eq
    rw [eq]
    exact ⟨by simp [x], by rw [safe.eq]; rfl, by rw [safe.eq]; rfl⟩
  · intro z
    have entry : (s.setSeq i z).seq i = z := by simp
    have eq : u = ((s.setSeq i z).outRecord lost i w (x.length + n) y.status).outIndex i ((s.setSeq i z).seq i).outPi := by
      rw [entry]
      exact State.advanceSeq_token lost m clean sound last gives more
    rw [eq]
    refine ⟨fun owned lead bad => ?_, fun owned lead alive ok => ?_, fun unowned => ?_⟩
    · rw [State.record_lost (by rw [entry]; exact owned) (by rw [entry]; exact lead) _ _ _ (by rw [entry]; exact bad), entry]
    · rw [State.record_written (by rw [entry]; exact owned) (by rw [entry]; exact lead) _ _ _ (by rw [entry]; exact alive) (by rw [entry]; exact ok), entry]
      rfl
    · rw [State.record_unowned (by rw [entry]; exact unowned)]
  · set z := s.tokenedSeq id tpl i n first
    have entry : (s.setSeq i z).seq i = z := by simp
    have sound' : z.corrupt = false := sound
    refine ⟨fun free => ?_, fun keep cls whole => ?_⟩
    · obtain ⟨pi, ended⟩ := State.seq_advanceSeq_ended lost m clean last ends (State.finishSeq_retires (x := z) lost free) (by simp [sound'])
      have ended : u.seq i = _ := ended
      rw [ended, State.seq_setSeq, if_pos rfl]
      exact ⟨rfl, rfl, rfl, rfl⟩
    · have clean' : ∀ mm, (s.setSeq i z).model ((s.setSeq i z).seq i).model = some mm → (s.setSeq i z).stagePoisoned ((s.setSeq i z).seq i) mm = false := by
        rw [entry]
        exact whole
      have parks := State.finishSeq_parks (s := s) (i := i) (x := z) lost keep cls
      refine ⟨fun kept => ?_, fun e fails known part => ?_⟩
      · obtain ⟨v, parked, left⟩ := State.parkSeq_kept clean' (by rw [entry]; exact kept) .idle
        rw [entry] at left
        obtain ⟨pi, ended⟩ := State.seq_advanceSeq_ended lost m clean last ends (parks.trans left) (by simpa [SeqEntry.leave] using sound')
        have ended : u.seq i = _ := ended
        rw [ended, State.seq_setSeq, if_pos rfl]
        exact ⟨rfl, rfl, rfl, rfl⟩
      · obtain ⟨m', left⟩ := State.parkSeq_lost clean' fails (by rw [entry]; exact known) (by rw [entry]; exact part) .idle
        have safe := (s.setSeq i z).copyFault_if_safe m' (e = stEcc)
        have spoiled : u = (s.setSeq i z).lostSeq i m' e := State.advanceSeq_spoiled lost m clean last ends (parks.trans left) (by simp [State.lostSeq])
        rw [spoiled]
        refine ⟨by simp [State.lostSeq], by simp [State.lostSeq], by simp [State.lostSeq], ?_, ?_⟩ <;>
          simp only [State.lostSeq, State.setSeq_hostMem, State.setSeq_hubMem] <;> rw [safe.eq] <;> rfl

end Sys2Proof.Machine
end

section
/-! PROOFS. Steps of the serving templates: their start, their end and the mirrors of a pooled model (R133, R153, R157 to R161). -/
namespace Sys2Proof.Machine

/-! ## Placing a token (R131, R153, R157) -/

theorem State.work_updWork (s : State) (id : WorkId) {f : Work → Work} (hf : ∀ w, (f w).id = w.id) : (s.updWork id f).work id = (s.work id).map f := by
  have same : ((fun w : Work => w.id == id) ∘ fun w => if w.id = id then f w else w) = fun w => w.id == id := by
    funext w
    by_cases h : w.id = id <;> simp [h, hf]
  have found : ∀ w, s.work id = some w → w.id = id := fun w h => by simpa using List.find?_some h
  simp only [State.work, State.updWork, List.find?_map, same]
  cases h : s.cmp.works.find? fun w => w.id == id with
  | none => rfl
  | some w => simp [found w h]

/-- The worse of two statuses is unusable where the new one is. -/
theorem Status.usable_worseStatus {old new : Status} (h : new.usable = false) : (worseStatus old new).usable = false := by
  unfold worseStatus
  split
  · rfl
  · split
    · rfl
    · cases usable : old.usable with
      | true => simp [mergeStatus, usable, h]
      | false => simp [mergeStatus, usable]

/-- A position that meets an unusable status has one. -/
theorem State.posStatus_addPos_unusable {s : State} {id : WorkId} {w : Work} (started : s.work id = some w) (i : Nat) {st : Status} (h : st.usable = false) :
    ((s.addPos id i st).posStatus id i).usable = false := by
  have found : (s.addPos id i st).work id = some { w with pos := tblUpd stOk w.pos i fun old => worseStatus old st } := by
    rw [State.addPos, State.work_updWork s id (f := fun w => { w with pos := tblUpd stOk w.pos i fun old => worseStatus old st }) fun _ => rfl, started]
    rfl
  rw [State.posStatus, found]
  simpa [tblUpd] using Status.usable_worseStatus h

theorem State.tokenFault_eq_ok (s : State) (m : ModelCfg) (p : StepPos) : s.tokenFault m p = stOk ↔
    (p.chunk = true → (s.seq p.seq).promptAddr + 4 * (p.off + 1) ≤ (s.partCfg (s.seq p.seq).part).lpLen ∧ s.lpPoisoned (s.tokenAddr p) 4 = false) ∧
      s.tokenOf p < m.vocab := by
  unfold State.tokenFault
  dsimp only
  split_ifs with outside poisoned unknown
  · exact iff_of_false (by decide) fun h => absurd (h.1 outside.1).1 (by omega)
  · exact iff_of_false (by decide) fun h => absurd (h.1 poisoned.1).2 (by simp [poisoned.2])
  · exact iff_of_false (by decide) fun h => absurd h.2 (by omega)
  · exact iff_of_true rfl ⟨fun chunk => ⟨by simpa [chunk] using outside, by simpa [chunk] using poisoned⟩, by omega⟩

theorem State.tokenFault_unusable {s : State} {m : ModelCfg} {p : StepPos} (fault : s.tokenFault m p ≠ stOk) : (s.tokenFault m p).usable = false := by
  unfold State.tokenFault at fault ⊢
  dsimp only at fault ⊢
  split_ifs at fault ⊢
  · rfl
  · rfl
  · rfl
  · exact absurd rfl fault

theorem State.spWrite_seq (s : State) (a : Nat) (bs : List Byte) (i : Nat) : (s.spWrite a bs).seq i = s.seq i := by
  obtain ⟨p, h⟩ := s.spWrite_frame a bs
  rw [h]
  rfl

theorem State.spWrite_works (s : State) (a : Nat) (bs : List Byte) : (s.spWrite a bs).cmp.works = s.cmp.works := by
  obtain ⟨p, h⟩ := s.spWrite_frame a bs
  rw [h]

section
variable {s : State} {id : WorkId} {m : ModelCfg} {tpl : Template} {p : StepPos} {i a b : Nat} (tokAt : tpl.tokAt = some a) (posAt : tpl.posAt = some b)
include tokAt posAt

theorem State.placePos_placed (ok : s.tokenFault m p = stOk) : s.placePos id m tpl p i =
    (s.spWrite (a + 4 * i) (leBytes (s.tokenOf p) 4)).spWrite (b + 4 * i) (leBytes ((s.seq p.seq).posStart + w32 p.at_).toNat 4) := by
  have usable : stOk.usable = true := rfl
  simp only [State.placePos, ok, tokAt, posAt, usable, Bool.true_or, if_true, State.spWrite_seq]

theorem State.placePos_faulted {w : Work} (fault : s.tokenFault m p ≠ stOk) (started : s.work id = some w) :
    ((s.placePos id m tpl p i).posStatus id i).usable = false := by
  have bad := State.tokenFault_unusable fault
  obtain ⟨v, same, eq⟩ : ∃ v : State, v.cmp.works = s.cmp.works ∧ s.placePos id m tpl p i =
      if s.tokenFault m p = stEcc then (v.addPos id i (s.tokenFault m p)).copyFault m else v.addPos id i (s.tokenFault m p) := by
    simp only [State.placePos, tokAt, posAt, bad, Bool.false_eq_true, if_false]
    refine ⟨_, ?_, rfl⟩
    rw [State.spWrite_works]
    split
    · exact State.spWrite_works _ _ _
    · rfl
  have started' : v.work id = some w := by rw [State.work, same]; exact started
  rw [eq, State.posStatus, State.work, ((v.addPos id i _).copyFault_if_safe m _).eq]
  exact State.posStatus_addPos_unusable started' i bad

end

/-! ## The start of a step (R133) -/

theorem exec_stepStart {s : State} {t part : Nat} (hp : s.powered = true) (idle : (s.builder part).running = false)
    (opened : (s.advance t).sliceOpen part = true) (works : s.noWork part = false) (loaded : s.image ≠ none) (waits : (s.builder part).list ≠ [])
    (live : ∀ x ∈ (s.builder part).list, (s.seq x.1).state = .prompt ∨ (s.seq x.1).state = .decode) {m : ModelCfg} {tpl : Template}
    (named : s.model (s.builder part).model = some m) (template : m.templates[(s.builder part).tpl]? = some tpl) :
    exec (.stepStart t part) s = .next (((s.advance t).setBuilder part { s.builder part with running := true }).beginStep part m tpl) := by
  have builder : (s.advance t).builder part = s.builder part := rfl
  have noWork : (s.advance t).noWork part = s.noWork part := rfl
  have kept : (s.builder part).list.filter (fun e => (s.seq e.1).state == .prompt || (s.seq e.1).state == .decode) = (s.builder part).list :=
    List.filter_eq_self.2 fun x hx => by simpa using live x hx
  have image : (s.advance t).image.isNone = false := Option.isNone_eq_false_iff.2 (Option.isSome_iff_ne_none.2 loaded)
  have model : ∀ b, ((s.advance t).setBuilder part b).model (s.builder part).model = s.model (s.builder part).model := fun _ => rfl
  have tpl' : ((s.advance t).setBuilder part { s.builder part with running := true }).stepTemplate part = some tpl := by
    rw [State.stepTemplate, State.builder_setBuilder, if_pos rfl, model, named]
    exact template
  simp only [exec, execStepStart, State.advance_powered, hp, builder, idle, opened, noWork, works, image, Bool.not_true, Bool.or_self, Bool.false_eq_true, if_false,
    if_neg waits, State.seq_advance_other, kept, model, named, tpl']

theorem exec_stepStart_waits {s : State} {t part : Nat} (closed : (s.advance t).sliceOpen part = false) :
    exec (.stepStart t part) s = .next (s.advance t) := by
  simp [exec, execStepStart, closed]

/-! ## What a boundary can change -/

theorem ServeFrame.of_srv {s u : State} {x : Serving} (h : u = { s with srv := x }) (steps : x.steps = s.srv.steps)
    (builders : ∀ q, (tblGet {} x.builders q).core = (s.builder q).core) : ServeFrame s u := by
  subst h
  exact ⟨rfl, rfl, steps, builders⟩

theorem State.retireSeq_frame (lost : BoundaryLoss) (s : State) (i : Nat) : ServeFrame s (State.retireSeq lost s i) := by
  unfold State.retireSeq
  extract_lets x v _ u
  split
  · exact .refl s
  · have record : ServeFrame s v := by
      unfold v
      split
      · exact .refl s
      · exact (SeqFrame.trans (s.outRecord_frame lost i _ _ _) (State.outIndex_frame _ i _)).toServeFrame
    have count : ServeFrame v u := by
      unfold u
      split
      · exact .refl v
      · exact .of_srv rfl rfl fun _ => rfl
    exact .trans _ _ _ record (.trans _ _ _ count (.of_srv rfl rfl fun _ => rfl))

theorem State.grantSlot_frame (s : State) (i : Nat) : ServeFrame s (s.grantSlot i) := by
  unfold State.grantSlot
  split
  · exact .refl s
  · exact (s.giveSlot_frame i _).toServeFrame

theorem State.slotsAtBoundary_frame (s : State) (lost : BoundaryLoss) (part : Nat) : ServeFrame s (s.slotsAtBoundary lost part) := by
  have parks := fun l => ServeFrame.foldl (fun (s : State) i => s.parkSeq lost i .parked) (fun s i => (s.parkSeq_frame lost i .parked).toServeFrame) l s
  unfold State.slotsAtBoundary
  dsimp only
  split
  · exact parks _
  · exact .trans _ _ _ (parks _) (.foldl _ State.grantSlot_frame _ _)

theorem State.formList_frame (s : State) (part mdl : Nat) (m : ModelCfg) (a : ListAcc) : ServeFrame s (s.formList part mdl m a) := by
  unfold State.formList
  extract_lets dec tok chk b s1 s2 s3
  have formed : ServeFrame s s1 := by
    refine ⟨rfl, rfl, rfl, fun q => ?_⟩
    unfold s1
    rw [State.builder_setBuilder]
    split
    · subst q
      rfl
    · rfl
  have listed : ServeFrame s1 s2 := .foldl _ (fun (u : State) (e : Nat × Nat) => (u.setSeq_frame e.1 _).toServeFrame) _ s1
  have held : ServeFrame s2 s3 := .foldl _ (fun (u : State) i => (u.setSeq_frame i _).toServeFrame) _ s2
  exact .trans _ _ _ formed (.trans _ _ _ listed (.trans _ _ _ held (.of_srv rfl rfl fun _ => rfl)))

theorem State.buildList_frame (s : State) (part : Nat) : ServeFrame s (s.buildList part) := by
  unfold State.buildList
  dsimp only
  split
  · exact .refl s
  · exact s.formList_frame part _ _ _

theorem State.seqBoundary_frame (s : State) (lost : BoundaryLoss) (part : Nat) (leaving : List Nat) : ServeFrame s (s.seqBoundary lost part leaving) := by
  unfold State.seqBoundary
  extract_lets s1 s2 s3 s4 kept shown
  have retired : ServeFrame s s1 := .foldl _ (State.retireSeq_frame lost) _ s
  have stopped : ServeFrame s1 s2 := by
    refine .foldl _ (fun u i => ?_) _ s1
    dsimp only
    split
    · exact (u.setSeq_frame i _).toServeFrame
    · exact .refl u
  have moved : ServeFrame s2 s3 := s2.slotsAtBoundary_frame lost part
  have listed : ServeFrame s3 s4 := by
    unfold s4
    split
    · exact .refl s3
    · exact s3.buildList_frame part
  exact .trans _ _ _ retired (.trans _ _ _ stopped (.trans _ _ _ moved (.trans _ _ _ listed (.of_srv rfl rfl fun _ => rfl))))

theorem State.advanceAll_frame (s : State) (lost : BoundaryLoss) (id : WorkId) (m : ModelCfg) (tpl : Template) (list : List (Nat × Nat)) (first : Nat) :
    ServeFrame s (s.advanceAll lost id m tpl list first) := by
  induction list generalizing s first with
  | nil => exact .refl s
  | cons e rest ih => exact .trans _ _ _ (s.advanceSeq_frame lost id m tpl e.1 e.2 first).toServeFrame (ih _ _)

/-! ## Replies to detaches and resets (R303) -/

theorem State.complete_leaving (s : State) (r : CmdRef) (st : Status) (res : List Word) (aux : Status) :
    (s.complete r st res aux).cmd.leaving = s.cmd.leaving := by
  unfold State.complete State.pushReply
  split
  · dsimp only
    split
    · rfl
    · split <;> rfl
  · rfl

/-- The replies to what waits for a partition's boundary change the command interface alone, and leave nothing waiting for it. -/
theorem State.leavingReplies_frame (s : State) (part : Nat) : ∃ m, s.leavingReplies part = { s with cmd := m } ∧ ∀ e ∈ m.leaving, e.1 ≠ part := by
  obtain ⟨m, eq, same⟩ := foldl_keeps (fun a b : State => ∃ m, b = { a with cmd := m } ∧ m.leaving = a.cmd.leaving)
    (fun (s : State) (e : Nat × CmdRef) => s.complete e.2 stOk) (fun a => ⟨a.cmd, rfl, rfl⟩)
    (fun a b c ⟨m, h, same⟩ ⟨m', h', same'⟩ => ⟨m', by rw [h', h], by rw [same', h, same]⟩)
    (fun a e => by
      obtain ⟨m, h⟩ := a.complete_frame e.2 stOk [] 0
      exact ⟨m, h, by rw [← a.complete_leaving e.2 stOk [] 0, h]⟩)
    (s.cmd.leaving.filter fun e => e.1 == part) { s with cmd := { s.cmd with leaving := s.cmd.leaving.filter fun e => e.1 != part } }
  refine ⟨m, eq, fun e he => ?_⟩
  rw [same] at he
  simpa using (List.mem_filter.1 he).2

/-! ## The end of a step (R133, R134) -/

/-- A step of a partition counted and charged. -/
def State.countStep (s : State) (part : Nat) (m : ModelCfg) : State :=
  let b := s.builder part
  let s := s.setBuilder part { b with steps := b.steps + 1, credit3 := s.newCredit part m b }
  { s with srv := { s.srv with steps := satInc s.srv.steps } }

/-- A partition that no longer runs its step, whose work is over. -/
def State.stopStep (s : State) (part : Nat) : State :=
  (s.setBuilder part { s.builder part with running := false, list := [], boundT := some s.time.cnt }).endWork (.step part)

theorem exec_stepBoundary {s : State} (t : Nat) {part : Nat} (parks : List (Nat × BitVec 16)) (writes : List Nat) (hp : s.powered = true)
    (running : (s.builder part).running = true) (quiet : s.workQuiet (.step part) = true) {m : ModelCfg} {tpl : Template}
    (named : s.model (s.builder part).model = some m) (template : m.templates[(s.builder part).tpl]? = some tpl) :
    exec (.stepBoundary t part parks writes) s =
      .next ((((((s.advance t).countStep part m).advanceAll ⟨parks, writes⟩ (.step part) m tpl (s.builder part).list 0).stopStep part).settle.seqBoundary
        ⟨parks, writes⟩ part ((s.advance t).retiring part)).leavingReplies part) := by
  have go : ¬(!(s.advance t).powered || !((s.advance t).builder part).running || !(s.advance t).workQuiet (.step part)) = true := by
    have running' : ((s.advance t).builder part).running = true := running
    have quiet' : (s.advance t).workQuiet (.step part) = true := quiet
    simp [hp, running', quiet']
  have named' : (s.advance t).model ((s.advance t).builder part).model = some m := named
  have tpl' : (s.advance t).stepTemplate part = some tpl := by
    rw [State.stepTemplate, named']
    exact template
  simp only [exec, execStepBoundary, if_neg go, named', tpl']
  rfl

/-- A step that does not run, or whose passes and transfers are not over, does not end. -/
theorem exec_stepBoundary_waits {s : State} (t : Nat) {part : Nat} (parks : List (Nat × BitVec 16)) (writes : List Nat)
    (busy : (s.builder part).running = false ∨ s.workQuiet (.step part) = false) :
    exec (.stepBoundary t part parks writes) s = .next (s.advance t) := by
  have builder : (s.advance t).builder part = s.builder part := rfl
  have quiet : (s.advance t).workQuiet (.step part) = s.workQuiet (.step part) := rfl
  rcases busy with h | h <;> simp [exec, execStepBoundary, builder, quiet, h]

/-- A step builder whose step is counted, charged and over at a tick. -/
def Builder.ended (b : Builder) (credit : Int) (t : Nat) : Builder := { b with running := false, steps := b.steps + 1, credit3 := credit, boundT := some t }

/-- What the end of a step leaves: the partition stands at a boundary, its step counted and charged. -/
theorem State.stepEnded {s : State} {part : Nat} (m : ModelCfg) (tpl : Template) (lost : BoundaryLoss) (leaving : List Nat) :
    let u := ((((s.countStep part m).advanceAll lost (.step part) m tpl (s.builder part).list 0).stopStep part).settle.seqBoundary lost part leaving).leavingReplies part
    (u.builder part).core = ((s.builder part).ended (s.newCredit part m (s.builder part)) s.time.cnt).core ∧
    u.srv.steps = satInc s.srv.steps ∧ u.work (.step part) = none ∧ (∀ e ∈ u.cmd.leaving, e.1 ≠ part) ∧ u.time = s.time ∧ u.image = s.image := by
  intro u
  set v := (s.countStep part m).advanceAll lost (.step part) m tpl (s.builder part).list 0
  have advanced : ServeFrame (s.countStep part m) v := State.advanceAll_frame _ _ _ _ _ _ _
  have settled := (v.stopStep part).settle_pass.eq
  have bounded : ServeFrame (v.stopStep part).settle _ := State.seqBoundary_frame _ lost part leaving
  obtain ⟨c, replied, left⟩ := State.leavingReplies_frame ((v.stopStep part).settle.seqBoundary lost part leaving) part
  have replied : u = _ := replied
  have time : v.time = s.time := by rw [advanced.eq]; rfl
  have core : (v.builder part).core = { (s.builder part).core with steps := (s.builder part).steps + 1, credit3 := s.newCredit part m (s.builder part) } := by
    have counted : (s.countStep part m).builder part =
        { s.builder part with steps := (s.builder part).steps + 1, credit3 := s.newCredit part m (s.builder part) } := by
      simp [State.countStep, State.builder, State.setBuilder]
    rw [advanced.builders, counted]
    rfl
  have stopped : (v.stopStep part).builder part = { v.builder part with running := false, list := [], boundT := some v.time.cnt } := by
    simp [State.stopStep, State.endWork, State.freeWins, State.builder, State.setBuilder]
  refine ⟨?_, ?_, ?_, by rw [replied]; exact left, ?_, ?_⟩
  · have last : u.builder part = ((v.stopStep part).settle.seqBoundary lost part leaving).builder part := by rw [replied]; rfl
    have kept : (v.stopStep part).settle.builder part = (v.stopStep part).builder part := by rw [settled]; rfl
    rw [last, bounded.builders, kept, stopped, ← time]
    exact congrArg (fun b : Builder => ({ b with running := false, boundT := some v.time.cnt } : Builder)) core
  · rw [replied]
    exact bounded.steps.trans (by rw [settled]; exact advanced.steps)
  · have ids := (v.stopStep part).settle_settles.ids
    refine State.work_eq_none ?_
    rw [replied]
    show _ ∉ List.map _ ((v.stopStep part).settle.seqBoundary lost part leaving).cmp.works
    rw [bounded.works, ids]
    simp [State.stopStep, State.endWork, State.freeWins]
  · rw [replied, ← time, bounded.eq, settled]
    rfl
  · rw [replied, bounded.eq, settled]
    show v.image = _
    rw [advanced.eq]
    rfl

/-! ## Mirrors (R161) -/

/-- The entries of a table that the lead no longer lists leave it. -/
def State.dropMirrors (s : State) (gone : List Nat) : State :=
  gone.foldl (fun s i => { s with srv := { s.srv with ents := tblErase s.srv.ents i } }) s

theorem State.dropMirrors_frame (s : State) (gone : List Nat) : ServeFrame s (s.dropMirrors gone) :=
  .foldl (fun (s : State) i => { s with srv := { s.srv with ents := tblErase s.srv.ents i } }) (fun _ _ => .of_srv rfl rfl fun _ => rfl) gone s

theorem State.seq_dropMirrors (s : State) (gone : List Nat) (k : Nat) : (s.dropMirrors gone).seq k = if k ∈ gone then {} else s.seq k := by
  induction gone generalizing s with
  | nil => rfl
  | cons i rest ih =>
    refine (ih _).trans ?_
    by_cases hk : k ∈ rest
    · simp [hk]
    · by_cases hi : k = i <;> simp [hk, hi, State.seq, tblGet_tblErase]

/-- The entries of a model brought to what the lead sends. -/
def State.mirrorSeqs (s : State) (m : ModelCfg) (granted : List Nat) (listed : List (Nat × List Byte)) : State :=
  listed.foldl (fun s e => s.mirrorSeq e.1 (seqFromBytes m e.2) (granted.contains e.1)) s

theorem State.mirrorSeqs_frame (s : State) (m : ModelCfg) (granted : List Nat) (listed : List (Nat × List Byte)) :
    ServeFrame s (s.mirrorSeqs m granted listed) :=
  .foldl (fun (s : State) (e : Nat × List Byte) => s.mirrorSeq e.1 (seqFromBytes m e.2) (granted.contains e.1))
    (fun s e => (s.mirrorSeq_frame e.1 _ _).toServeFrame) listed s

theorem State.seq_mirrorSeqs_other {m : ModelCfg} {granted : List Nat} {listed : List (Nat × List Byte)} {k : Nat} (other : ∀ e ∈ listed, e.1 ≠ k) (s : State) :
    (s.mirrorSeqs m granted listed).seq k = s.seq k := by
  induction listed generalizing s with
  | nil => rfl
  | cons e rest ih =>
    exact (ih (fun e he => other e (.tail _ he)) _).trans ((s.mirrorSeq_frame e.1 _ _).others k (other e (.head _)).symm)

/-- A mirror without a slot whose lead's entry has none takes what the lead sends, but for what is the package's own. -/
theorem State.mirrorSeq_unslotted {s : State} {i : Nat} {x : SeqEntry} (old : (s.seq i).slot = none) (new : x.slot = none) (granted : Bool) :
    s.mirrorSeq i x granted = s.setSeq i { x with last := (s.seq i).last, pageParked := (s.seq i).pageParked } := by
  simp [State.mirrorSeq, old, new]

theorem State.seq_mirrorSeqs {m : ModelCfg} {granted : List Nat} {listed : List (Nat × List Byte)} (once : (listed.map Prod.fst).Nodup) {i : Nat} {bs : List Byte}
    (mem : (i, bs) ∈ listed) {s : State} (old : (s.seq i).slot = none) (new : (seqFromBytes m bs).slot = none) :
    (s.mirrorSeqs m granted listed).seq i = { seqFromBytes m bs with last := (s.seq i).last, pageParked := (s.seq i).pageParked } := by
  obtain ⟨l, r, rfl⟩ := List.append_of_mem mem
  rw [List.map_append, List.map_cons, List.nodup_middle] at once
  have others := (List.nodup_cons.1 once).1
  have before : ∀ e ∈ l, e.1 ≠ i := fun e he same => others (List.mem_append_left _ (List.mem_map.2 ⟨e, he, same⟩))
  have after : ∀ e ∈ r, e.1 ≠ i := fun e he same => others (List.mem_append_right _ (List.mem_map.2 ⟨e, he, same⟩))
  have same := State.seq_mirrorSeqs_other (m := m) (granted := granted) before s
  have split : s.mirrorSeqs m granted (l ++ (i, bs) :: r) =
      ((s.mirrorSeqs m granted l).mirrorSeq i (seqFromBytes m bs) (granted.contains i)).mirrorSeqs m granted r := by
    simp only [State.mirrorSeqs, List.foldl_append, List.foldl_cons]
  rw [split, State.seq_mirrorSeqs_other after, State.mirrorSeq_unslotted (by rw [same]; exact old) new, same]
  simp

/-- What the package takes over from the lead. -/
theorem exec_poolWorkListReceive {s : State} (t : Nat) {mdl : Nat} (tpl : Nat) {m : ModelCfg} (work : List (Nat × Nat)) (entries : List (Nat × List Byte))
    (granted : List Nat) (hp : s.powered = true) (named : s.model mdl = some m) (pooled : m.pooled = true) (follows : s.glob.pkgId ≠ 0)
    (idle : (s.builder m.part).running = false) :
    let listed := entries.filter fun e => decide (e.1 < 4096)
    let v := ((s.advance t).dropMirrors ((s.seqsOf m.part).filter fun i => (s.seq i).model == mdl && !listed.any fun e => e.1 == i)).mirrorSeqs m granted listed
    exec (.poolWorkListReceive t mdl ⟨tpl, work⟩ ⟨entries, granted⟩) s = .next (v.setBuilder m.part { v.builder m.part with
      list := work.filter (fun w => entries.any fun e => e.1 == w.1 && decide (e.1 < 4096)), model := mdl, tpl := tpl }) := by
  have named' : (s.advance t).model mdl = some m := named
  have builder : (s.advance t).builder m.part = s.builder m.part := rfl
  have follows' : (s.glob.pkgId == 0) = false := by simpa using follows
  simp only [exec, execPoolWorkListReceive, named', State.advance_powered, hp, pooled, State.advance_glob, follows', builder, idle, Bool.not_true, Bool.or_self,
    Bool.false_eq_true, if_false, List.any_filter, Bool.and_comm (decide _)]
  rfl

/-- Starts and ends of steps, mirrors, and the tokens placed. -/
theorem servingSteps : Claims.Steps := by
  refine ⟨fun s t part hp => ⟨fun e l m tpl idle opened works loaded list live named template => ?_, exec_stepStart_waits,
    fun m tpl parks writes running quiet named template => ?_, fun busy parks writes => exec_stepBoundary_waits t parks writes busy,
    fun mdl tpl m work entries grants named pooled follows idle => ?_⟩,
    fun s id m tpl p i a b tokAt posAt => ⟨State.placePos_placed tokAt posAt, fun fault w => State.placePos_faulted tokAt posAt fault, s.tokenFault_eq_ok m p⟩⟩
  · exact exec_stepStart hp idle opened works loaded (by simp [list]) live named template
  · obtain ⟨core, counted, ended, left, time, image⟩ := State.stepEnded (s := s.advance t) (part := part) m tpl ⟨parks, writes⟩ ((s.advance t).retiring part)
    exact ⟨_, exec_stepBoundary t parks writes hp running quiet named template, congrArg Builder.running core, congrArg Builder.steps core, counted,
      congrArg Builder.credit3 core, congrArg Builder.boundT core, ended, left, time, image⟩
  · refine ⟨_, exec_poolWorkListReceive t tpl work entries grants hp named pooled follows idle, ?_⟩
    set listed := entries.filter fun e => decide (e.1 < 4096)
    set gone := (s.seqsOf m.part).filter fun i => (s.seq i).model == mdl && !listed.any fun e => e.1 == i
    set v := ((s.advance t).dropMirrors gone).mirrorSeqs m grants listed with hv
    have frame : ServeFrame (s.advance t) v := .trans _ _ _ (State.dropMirrors_frame _ _) (State.mirrorSeqs_frame _ _ _ _)
    have running : (v.builder m.part).running = false := (congrArg Builder.running (frame.builders m.part)).trans idle
    have kept : ∀ i, i ∉ gone → ((s.advance t).dropMirrors gone).seq i = s.seq i := fun i h => by rw [State.seq_dropMirrors, if_neg h]; rfl
    simp only [State.builder_setBuilder, if_true, State.seq_setBuilder, running, true_and]
    refine ⟨fun i unlisted => ?_, fun i bs mem small once old new => ?_⟩
    · rw [hv, State.seq_mirrorSeqs_other fun e he => unlisted e (List.mem_filter.1 he).1, State.seq_dropMirrors]
      split
      · rename_i mem
        have model := (List.mem_filter.1 mem).2
        simp only [Bool.and_eq_true, beq_iff_eq] at model
        exact .inr ⟨model.1, rfl⟩
      · exact .inl rfl
    · have mem' : (i, bs) ∈ listed := List.mem_filter.2 ⟨mem, decide_eq_true small⟩
      have stays : i ∉ gone := fun h => by
        have out := (List.mem_filter.1 h).2
        simp only [Bool.and_eq_true, Bool.not_eq_true', List.any_eq_false] at out
        exact out.2 (i, bs) mem' (beq_self_eq_true i)
      have once' : (listed.map Prod.fst).Nodup := once.sublist (List.filter_sublist.map _)
      rw [hv, State.seq_mirrorSeqs once' mem' (by rw [kept i stays]; exact old) new, kept i stays]

end Sys2Proof.Machine
end

section
/-! PROOFS. Attention in a step (R140 to R152): what a result reads, in which order, and where it is written. -/
namespace Sys2Proof.Machine

/-! ## The keys that a query admits (R149, R151) -/

theorem admitsKey_iff (desc : Option SparseDesc) (p j : Nat) :
    admitsKey desc p j = true ↔ j ≤ p ∧ ∀ d, desc = some d → p - j < d.window ∨ j ∈ d.globals := by
  cases desc <;> simp [admitsKey]

/-! ## Masked keys and values (R62, R137, R149) -/

/-- Groups of 128 positions in order are the positions in order. -/
theorem flatMap_groups (n groups : Nat) :
    ((List.range groups).flatMap fun g => (List.range (min 128 (n - 128 * g))).map (128 * g + ·)) = List.range (min n (128 * groups)) := by
  induction groups with
  | zero => simp
  | succ g ih =>
    rw [List.range_succ, List.flatMap_append, ih, List.flatMap_singleton]
    rcases Nat.le_total (128 * g) n with within | beyond
    · rw [Nat.min_eq_right within, ← List.range_add]
      congr 1
      omega
    · have longer : n ≤ 128 * (g + 1) := by omega
      simp [Nat.sub_eq_zero_of_le beyond, Nat.min_eq_left beyond, Nat.min_eq_left longer]

/-- A span has a score for each of its admitted keys, and for no other. -/
theorem AttnIn.scores_isSome (x : AttnIn) (a n : Nat) : (x.scores a n).map Option.isSome = (List.range n).map fun i => x.admits (a + i) := by
  have whole : List.range n = List.range (min n (128 * ((n + 127) / 128))) := by congr 1; omega
  rw [whole, ← flatMap_groups]
  simp only [AttnIn.scores, List.map_flatMap, List.map_map]
  refine congrArg (List.flatMap · _) (funext fun g => List.map_congr_left fun i _ => ?_)
  by_cases h : x.admits (a + 128 * g + i) = true <;> simp [h, ← Nat.add_assoc]

theorem AttnIn.admits_of_score {x : AttnIn} {a n i : Nat} (h : ((x.scores a n).getD i none).isSome = true) : x.admits (a + i) = true := by
  have score : ((x.scores a n).map Option.isSome).getD i false = true := by
    rw [List.getD_eq_getElem?_getD] at h ⊢
    rw [List.getElem?_map]
    cases at_ : (x.scores a n)[i]? <;> simp_all
  rw [AttnIn.scores_isSome, List.getD_eq_getElem?_getD, List.getElem?_map] at score
  cases at_ : (List.range n)[i]? with
  | none => simp [at_] at score
  | some j =>
    obtain ⟨_, rfl⟩ := List.getElem?_eq_some_iff.1 at_
    simpa [at_] using score

section
variable {x : AttnIn} {k v : Nat → List (BitVec 16)}

/-- The scores read the admitted keys alone. -/
theorem AttnIn.scores_masked (keys : ∀ j, x.admits j = true → x.key j = k j) (a n : Nat) :
    ({ x with key := k, val := v } : AttnIn).scores a n = x.scores a n := by
  have read : (fun j => if x.admits j then some ((k j).map (elemVal x.kv16)) else none) =
      fun j => if x.admits j then some ((x.key j).map (elemVal x.kv16)) else none := by
    funext j
    split
    · rw [keys j ‹_›]
    · rfl
  unfold AttnIn.scores
  dsimp only
  rw [read]

/-- The second product reads the values of the scored keys alone. -/
theorem AttnIn.weigh_masked {a : Nat} {scores : List (Option Word)} (vals : ∀ i, (scores.getD i none).isSome = true → x.val (a + i) = v (a + i)) (top : Word) :
    ({ x with key := k, val := v } : AttnIn).weigh a scores top = x.weigh a scores top := by
  have read : (fun i => if (scores.getD i none).isSome then some ((v (a + i)).map (elemVal x.kv16) ++ [.fin false 1 0]) else none) =
      fun i => if (scores.getD i none).isSome then some ((x.val (a + i)).map (elemVal x.kv16) ++ [.fin false 1 0]) else none := by
    funext i
    split
    · rw [vals i ‹_›]
    · rfl
  unfold AttnIn.weigh
  dsimp only
  rw [read]

variable (same : ∀ j, x.admits j = true → x.key j = k j ∧ x.val j = v j)
include same

theorem AttnIn.pieces_masked (early : Bool) (ps : List (Nat × Nat)) (acc : AttnAcc) :
    ({ x with key := k, val := v } : AttnIn).pieces early ps acc = x.pieces early ps acc := by
  induction ps generalizing acc with
  | nil => rfl
  | cons e rest ih =>
    obtain ⟨a, n⟩ := e
    have scores := AttnIn.scores_masked (v := v) (fun j h => (same j h).1) a n
    have weigh := fun top => AttnIn.weigh_masked (k := k) (scores := x.scores a n) (fun i h => (same _ (AttnIn.admits_of_score h)).2) top
    simp only [AttnIn.pieces, scores, weigh, ih]

/-- A result reads no masked key or value. -/
theorem AttnIn.run_masked (early : Bool) (ps : List (Nat × Nat)) : ({ x with key := k, val := v } : AttnIn).run early ps = x.run early ps := by
  unfold AttnIn.run
  rw [AttnIn.pieces_masked same]

end

/-! ## The spans and their order (R149, R152) -/

theorem AttnIn.mem_spans (x : AttnIn) (p a n : Nat) :
    (a, n) ∈ x.spans p ↔ n = 256 ∧ a % 256 = 0 ∧ a ≤ p ∧ ∃ i < 256, x.admits (a + i) = true := by
  have place : (∃ s, s < p / 256 + 1 ∧ 256 * s = a) ↔ a % 256 = 0 ∧ a ≤ p :=
    ⟨by rintro ⟨s, hs, rfl⟩; omega, fun h => ⟨a / 256, by omega, by omega⟩⟩
  have span : (a, n) ∈ (List.range (p / 256 + 1)).map (fun s => (256 * s, 256)) ↔ n = 256 ∧ a % 256 = 0 ∧ a ≤ p := by
    rw [← place]
    simp only [List.mem_map, List.mem_range, Prod.mk.injEq]
    exact ⟨fun ⟨s, hs, ha, hn⟩ => ⟨hn.symm, s, hs, ha⟩, fun ⟨hn, s, hs, ha⟩ => ⟨s, hs, ha, hn.symm⟩⟩
  rw [AttnIn.spans, List.mem_filter, span]
  simp [and_assoc]

theorem AttnIn.spans_ascend (x : AttnIn) (p : Nat) : ((x.spans p).map Prod.fst).Pairwise (· < ·) := by
  refine List.Pairwise.sublist (List.filter_sublist.map _) ?_
  rw [List.map_map]
  exact List.pairwise_lt_range.map _ fun a b h => Nat.mul_lt_mul_of_pos_left h (by decide)

theorem AttnIn.length_pieces (x : AttnIn) (early : Bool) (ps : List (Nat × Nat)) (acc : AttnAcc) : (x.pieces early ps acc).o.length = acc.o.length := by
  induction ps generalizing acc with
  | nil => rfl
  | cons e rest ih =>
    obtain ⟨a, n⟩ := e
    rw [AttnIn.pieces]
    dsimp only
    split
    · exact ih _
    · rw [ih]
      simp [AttnAcc.merge, AttnAcc.count]

theorem AttnIn.length_run (x : AttnIn) (early : Bool) (ps : List (Nat × Nat)) : (x.run early ps).1.length = x.dim := by
  simp [AttnIn.run, AttnIn.length_pieces]

/-- While no feature may vary the spans are taken in ascending order, whatever order is offered. -/
theorem State.attnOut_fixed {s : State} {x : SeqEntry} {m : ModelCfg} (fixed : s.stepVaries x m = false) (a : AttnIn) (p : Nat) (plan : List (Nat × Nat)) :
    s.attnOut x m a p plan = a.run false (a.spans p) := by
  simp [State.attnOut, mergeOrder, fixed]

/-! ## Bytes of one slice of the scratchpad -/

/-- An address of a slice that a region has. -/
theorem State.spaKey_slice {s : State} {q phys : Nat} (low : q < 32) (mapped : s.physOf q = some phys) {x : Nat} (hx : x / sliceLen = q) :
    s.spaKey x = some (phys * sliceLen + x % sliceLen) := by
  simp [State.spaKey, hx, mapped, low]

/-- A byte of a slice after bytes of it have been written. -/
theorem State.spByte_spWrite {s : State} {q phys : Nat} (low : q < 32) (mapped : s.physOf q = some phys) {x : Nat} (hx : x / sliceLen = q) {bs : List Byte} {a : Nat}
    (ha : ∀ i < bs.length, (a + i) / sliceLen = q) :
    (s.spWrite a bs).spByte x = if a ≤ x ∧ x < a + bs.length then bs.getD (x - a) 0 else s.spByte x := by
  induction bs generalizing s a with
  | nil => simp [State.spWrite]
  | cons b bs ih =>
    have here : a / sliceLen = q := ha 0 (by simp)
    have rest : ∀ i < bs.length, (a + 1 + i) / sliceLen = q := fun i hi => by
      rw [Nat.add_assoc, Nat.add_comm 1]
      exact ha (i + 1) (by simpa using hi)
    have apart : phys * sliceLen + x % sliceLen = phys * sliceLen + a % sliceLen ↔ x = a := by
      unfold sliceLen at *
      omega
    have key : ∀ m, ({ s with cmp := { s.cmp with sp := m } } : State).spaKey x = some (phys * sliceLen + x % sliceLen) := fun m =>
      State.spaKey_slice low mapped hx
    have first : ({ s with cmp := { s.cmp with sp := memSet s.cmp.sp (phys * sliceLen + a % sliceLen) b } } : State).spByte x =
        if x = a then b else s.spByte x := by
      simp only [State.spByte, key, memGet_memSet, apart]
    simp only [State.spWrite, State.spaKey_slice low mapped here]
    rw [ih (s := { s with cmp := { s.cmp with sp := memSet s.cmp.sp (phys * sliceLen + a % sliceLen) b } }) mapped rest, first]
    rcases Nat.lt_trichotomy x a with before | rfl | after
    · rw [if_neg (by omega), if_neg (by omega), if_neg (by omega)]
    · simp
    · have next : x - a = x - (a + 1) + 1 := by omega
      by_cases within : x < a + 1 + bs.length
      · rw [if_pos (by omega), if_pos (by simp; omega), next]
        simp
      · rw [if_neg (by omega), if_neg (by omega), if_neg (by simp; omega)]

/-! ## Keys and values stored and read back (R141, R143) -/

/-- An element of a list of blocks of one length. -/
theorem getD_flatMap_range {f : Nat → List Byte} {w : Nat} (len : ∀ i, (f i).length = w) {n d i : Nat} (hd : d < n) (hi : i < w) :
    ((List.range n).flatMap f).getD (w * d + i) 0 = (f d).getD i 0 := by
  have total : ∀ n, ((List.range n).flatMap f).length = w * n := fun n => by
    simp [List.length_flatMap, len, Nat.mul_comm]
  induction n with
  | zero => omega
  | succ n ih =>
    rw [List.range_succ, List.flatMap_append, List.flatMap_singleton]
    rcases Nat.lt_succ_iff_lt_or_eq.1 hd with less | rfl
    · have within : w * d + i < w * n :=
        calc w * d + i < w * (d + 1) := by rw [Nat.mul_add_one]; omega
          _ ≤ w * n := Nat.mul_le_mul_left w less
      rw [List.getD_append _ _ _ _ (by rw [total]; exact within), ih less]
    · rw [List.getD_append_right _ _ _ _ (by rw [total]; omega), total, Nat.add_sub_cancel_left]

theorem kvElem_length (m : ModelCfg) (w : Word) : (kvElem m w).length = 2 := leBytes_length _ _

theorem kvBytes_length (m : ModelCfg) (res : List Word) (h : Nat) : (kvBytes m res h).length = kvRow m := by
  simp [kvBytes, List.length_flatMap, kvElem_length, kvRow]

/-- An element of the bytes of a head reads back in the model's format. -/
theorem elem_kvBytes (m : ModelCfg) (res : List Word) (h : Nat) {d : Nat} (hd : d < m.dim) :
    BitVec.ofNat 16 (leNat (bytesAt (kvBytes m res h) (2 * d) 2)) = (if m.kvFp16 then f32ToFp16 else f32ToBf16) (res.getD (h * m.dim + d) 0) := by
  have block : bytesAt (kvBytes m res h) (2 * d) 2 = kvElem m (res.getD (h * m.dim + d) 0) := by
    refine List.ext_getElem (by simp [bytesAt, kvElem_length]) fun i hi hi' => ?_
    have two : i < 2 := by simpa [bytesAt] using hi
    have byte := getD_flatMap_range (f := fun d => kvElem m (res.getD (h * m.dim + d) 0)) (fun _ => kvElem_length m _) hd two
    simp only [bytesAt, List.getElem_map, List.getElem_range]
    rw [kvBytes, byte, List.getD_eq_getElem _ _ hi']
  have whole : ∀ v : BitVec 16, BitVec.ofNat 16 (v.toNat % 2 ^ (8 * 2)) = v := fun v => by
    rw [Nat.mod_eq_of_lt v.isLt, BitVec.ofNat_toNat, BitVec.setWidth_eq]
  rw [block, kvElem, leNat_leBytes, whole]
  split <;> rfl

/-- A result without a place of its own in the region, and whose page the slot holds, is written to the slot. -/
theorem State.storeKv_staged (s : State) (id : WorkId) (i : Nat) (m : ModelCfg) (n l k : Nat) (res : List Word) :
    s.storeKv id i m false n l k (s.seq i).length res = (List.range m.heads).foldl (fun u h =>
      u.stageWrite (s.seq i) m l k h (s.seq i).length (kvBytes m res h)) s := by
  have near : ¬((s.seq i).length % 64 ≠ 0 ∧ (s.seq i).length / 64 > (s.seq i).length / 64) := fun h => absurd h.2 (Nat.lt_irrefl _)
  unfold State.storeKv
  rw [show tblGet {} s.srv.ents i = s.seq i from rfl]
  simp only [directPos, Bool.false_and, Bool.false_eq_true, if_false, if_neg near]

/-- A byte of a head's row lies in the part of the slot that holds its layer. -/
theorem stageOffset_within {m : ModelCfg} {k h i : Nat} (j : Nat) (hk : k < 2) (hh : h < m.heads) (hi : i < kvRow m) : stageOffset m k h j + i < stageLayer m :=
  digit_lt hi (digit_lt (Nat.mod_lt j (by decide)) (digit_lt hh hk))

section
variable {s : State} {x : SeqEntry} {m : ModelCfg} {l k j b q phys : Nat} (base : s.stageBase x m l = some b) (low : q < 32) (mapped : s.physOf q = some phys)
  (hk : k < 2) (room : ∀ i < stageLayer m, (b + i) / sliceLen = q)
include base low mapped hk room

/-- The rows of the first heads hold what has been written for each. -/
theorem State.spByte_stageWrites (f : Nat → List Byte) (len : ∀ h, (f h).length = kvRow m) {n : Nat} (hn : n ≤ m.heads) :
    let u := (List.range n).foldl (fun u h => u.stageWrite x m l k h j (f h)) s
    (∃ p, u = { s with cmp := { s.cmp with sp := p } }) ∧
      ∀ h < n, ∀ i < kvRow m, u.spByte (b + stageOffset m k h j + i) = (f h).getD i 0 := by
  intro u
  induction n with
  | zero => exact ⟨⟨s.cmp.sp, rfl⟩, fun h hh => absurd hh (by omega)⟩
  | succ n ih =>
    obtain ⟨⟨p, eq⟩, rows⟩ := ih (by omega)
    have step : u = ((List.range n).foldl (fun u h => u.stageWrite x m l k h j (f h)) s).spWrite (b + stageOffset m k n j) (f n) := by
      have base' : ((List.range n).foldl (fun u h => u.stageWrite x m l k h j (f h)) s).stageBase x m l = some b := by
        rw [eq]
        exact base
      unfold u
      rw [List.range_succ, List.foldl_append, List.foldl_cons, List.foldl_nil, State.stageWrite, base']
    have mapped' : ((List.range n).foldl (fun u h => u.stageWrite x m l k h j (f h)) s).physOf q = some phys := by
      rw [eq]
      exact mapped
    have slice : ∀ h < m.heads, ∀ i < kvRow m, (b + stageOffset m k h j + i) / sliceLen = q := fun h hh i hi => by
      rw [Nat.add_assoc]
      exact room _ (stageOffset_within j hk hh hi)
    rw [step]
    refine ⟨?_, fun h hh i hi => ?_⟩
    · obtain ⟨p', eq'⟩ := State.spWrite_frame ((List.range n).foldl (fun u h => u.stageWrite x m l k h j (f h)) s) (b + stageOffset m k n j) (f n)
      exact ⟨p', by rw [eq', eq]⟩
    · rw [State.spByte_spWrite low mapped' (slice h (by omega) i hi) (fun i' hi' => slice n (by omega) i' (by rwa [len] at hi')), len]
      rcases Nat.lt_succ_iff_lt_or_eq.1 hh with less | rfl
      · have apart : stageOffset m k h j + kvRow m ≤ stageOffset m k n j ∨ stageOffset m k n j + kvRow m ≤ stageOffset m k h j :=
          rows_apart (by omega)
        rw [if_neg (by omega), rows h less i hi]
      · rw [if_pos (by omega), Nat.add_sub_cancel_left]

end

/-- What is stored of a token in its staging slot is what attention reads of it. -/
theorem State.kvRead_storeKv {s : State} (id : WorkId) {i l k h b : Nat} {m : ModelCfg} (res : List Word) (open_ : (s.seq i).length % 64 ≠ 63) (hk : k < 2)
    (hh : h < m.heads) (base : s.stageBase (s.seq i) m l = some b) (mapped : s.spaKey b ≠ none) (room : b % sliceLen + stageLayer m ≤ sliceLen) :
    (s.storeKv id i m false 1 l k (s.seq i).length res).kvRead (s.seq i) m ((s.seq i).length + 1) l k h (s.seq i).length =
      (List.range m.dim).map fun d => (if m.kvFp16 then f32ToFp16 else f32ToBf16) (res.getD (h * m.dim + d) 0) := by
  obtain ⟨low, phys, region⟩ : b / sliceLen < 32 ∧ ∃ phys, s.physOf (b / sliceLen) = some phys := by
    unfold State.spaKey at mapped
    split at mapped
    · exact absurd rfl mapped
    · exact ⟨by omega, by simpa [Option.ne_none_iff_exists'] using mapped⟩
  have slice : ∀ o < stageLayer m, (b + o) / sliceLen = b / sliceLen := fun o ho => by
    unfold sliceLen at *
    omega
  obtain ⟨⟨p, eq⟩, rows⟩ := State.spByte_stageWrites (j := (s.seq i).length) base low region hk slice (kvBytes m res) (kvBytes_length m res) (Nat.le_refl m.heads)
  rw [State.storeKv_staged, State.kvRead, if_pos ⟨by omega, by omega⟩]
  set u := (List.range m.heads).foldl (fun u h => u.stageWrite (s.seq i) m l k h (s.seq i).length (kvBytes m res h)) s
  have base' : u.stageBase (s.seq i) m l = some b := by
    rw [eq]
    exact base
  have row : u.stageRead (s.seq i) m l k h (s.seq i).length (kvRow m) = kvBytes m res h := by
    simp only [State.stageRead, base', State.spRead_eq_map]
    refine List.ext_getElem (by simp [kvBytes_length]) fun d hd hd' => ?_
    rw [List.getElem_map, List.getElem_range, rows h hh d (by simpa using hd), List.getD_eq_getElem _ _ hd']
  rw [row]
  exact List.map_congr_left fun d hd => elem_kvBytes m res h (List.mem_range.1 hd)

/-! ## One result (R105, R122, R137) -/

/-- Attention in a step. -/
theorem attentionResults : Claims.AttentionResults := by
  refine ⟨admitsKey_iff, fun x y query dim act kv admits same early pieces => ?_, fun x p => ⟨x.mem_spans p, x.spans_ascend p⟩,
    fun s x m a p plan => ⟨a.length_run _ _, fun fixed => State.attnOut_fixed fixed a p plan⟩,
    fun s id i l k h b m res open_ hk hh base mapped room => State.kvRead_storeKv id res open_ hk hh base mapped room,
    fun s r p m layer i h fp16 o q => ?_⟩
  · obtain ⟨query', k, v, admits', dim', act', kv'⟩ := y
    obtain rfl : x.query = query' := query
    obtain rfl : x.dim = dim' := dim
    obtain rfl : x.act16 = act' := act
    obtain rfl : x.kv16 = kv' := kv
    obtain rfl : x.admits = admits' := admits
    exact (AttnIn.run_masked same early pieces).symm
  · intro n qAt outAt x len a u
    have inside : ∀ {b : Bool}, b = true → ¬(!b) = true := by simp
    have outside : ∀ {b : Bool}, b = false → (!b) = true := by simp
    refine ⟨fun far => ?_, fun near far => ?_, fun near near' => ⟨fun bad => ?_, fun clean =>
      ⟨((o.plans.find? fun e => e.1 == i && e.2.1 == p.sh.first + h).map fun e => e.2.2).getD [], ?_⟩⟩⟩
    · exact if_pos (outside far)
    · exact (if_neg (inside near)).trans (if_pos (outside far))
    · exact (if_neg (inside near)).trans ((if_neg (inside near')).trans (if_pos bad))
    · exact (if_neg (inside near)).trans ((if_neg (inside near')).trans (if_neg (ne_true_of_eq_false clean)))

/-- Settles O21: its clauses are `sequenceCommands`, `servingSteps`, `sequenceAdvance` and `attentionResults`. -/
theorem sequencesAdvance : Obligations.SequencesAdvance := ⟨sequenceCommands, servingSteps, sequenceAdvance, attentionResults⟩

end Sys2Proof.Machine
end

section
/-! PROOFS. What a table lists, and replies and refusals of commands: what several replies leave, and what a command that its own checks refuse
leaves (R296, R298). -/
namespace Sys2Proof.Machine

/-! ## Tables -/

/-- What a table holds at a key is listed there, unless it is the default. -/
theorem mem_of_tblGet {α : Type} {d : α} {t : Tbl α} {n : Nat} (h : tblGet d t n ≠ d) : (n, tblGet d t n) ∈ t := by
  induction t with
  | nil => exact absurd rfl h
  | cons e rest ih =>
    obtain ⟨k, v⟩ := e
    by_cases eq : k = n
    · simp [tblGet, eq]
    · rw [tblGet, if_neg eq] at h ⊢
      exact List.mem_cons_of_mem _ (ih h)

/-! ## Several replies -/

/-- Replies with one status to several commands change the command interface alone. -/
theorem State.foldl_complete_frame (st : Status) (rs : List CmdRef) (s : State) :
    ∃ m, rs.foldl (fun (s : State) r => s.complete r st) s = { s with cmd := m } :=
  foldl_keeps (fun a b : State => ∃ m, b = { a with cmd := m }) _ (fun a => ⟨a.cmd, rfl⟩)
    (fun _ _ _ ⟨_, h⟩ ⟨m, k⟩ => ⟨m, by rw [k, h]⟩) (fun a r => a.complete_frame r st [] 0) rs s

@[simp] theorem State.strm_complete (s : State) (r : CmdRef) (st : Status) (res : List Word) (aux : Status) :
    (s.complete r st res aux).strm = s.strm := by
  obtain ⟨m, h⟩ := s.complete_frame r st res aux
  rw [h]

@[simp] theorem State.cmp_complete (s : State) (r : CmdRef) (st : Status) (res : List Word) (aux : Status) :
    (s.complete r st res aux).cmp = s.cmp := by
  obtain ⟨m, h⟩ := s.complete_frame r st res aux
  rw [h]

theorem State.strm_foldl_complete (st : Status) (rs : List CmdRef) (s : State) :
    (rs.foldl (fun (s : State) r => s.complete r st) s).strm = s.strm := by
  obtain ⟨m, h⟩ := State.foldl_complete_frame st rs s
  rw [h]

theorem State.cmp_foldl_complete (st : Status) (rs : List CmdRef) (s : State) :
    (rs.foldl (fun (s : State) r => s.complete r st) s).cmp = s.cmp := by
  obtain ⟨m, h⟩ := State.foldl_complete_frame st rs s
  rw [h]

/-! ## Refusals -/

/-- A command that starts and that its own checks refuse is answered with their status and does nothing else. -/
theorem State.command_refuses {s : State} {c : Nat} {p : Packet} {op : Nat} (starts : s.Starts c p op) (cls : Nat) (st : Status)
    (run : State → CmdRef → State) : s.command c p op cls (some st) run = s.replied c p cls st [] := by
  obtain ⟨hp, hop, attached, passed, order, buffer, turn⟩ := starts
  have go : (!s.powered || p.opcode.toNat != op || (s.ctx c).state != .attached || (!controlFamily op && s.controlWaits)) = false := by
    rcases order with h | h <;> simp [hp, hop, attached, h]
  rw [State.command, if_neg (by simp [go]), State.replied]
  rcases turn with ⟨q, head, rfl, fence, aged⟩ | ⟨fresh, fetch, fence, header, live, full, room⟩
  · simp only [head, State.begin_queued head, fence, aged, State.bufferCheck, State.startCheck_own passed]
    simp
  · have passed' := State.startCheck_own passed (s.fetchOne c p cls).1.cmd
    have header' := (State.headerCheck_cmd s (s.fetchOne c p cls).1.cmd p).trans header
    have eq : ({ s with cmd := (s.fetchOne c p cls).1.cmd } : State) = (s.fetchOne c p cls).1 := rfl
    rw [eq] at passed' header'
    simp only [fresh, State.begin_fetched fresh, fetch, fence, full, live, header', passed']
    simp

/-- A command belongs to the context that it starts in. -/
theorem State.begin_ref_ctx (s : State) (c : Nat) (p : Packet) (cls : Nat) : (s.begin_ c p cls).2.ctx = c := by
  cases head : s.headOf c with
  | none => rw [State.begin_fetched head]; rfl
  | some q =>
    rw [State.begin_queued head]
    simpa using List.find?_some head

/-- The start of a command leaves the replies that wait as they are. -/
theorem State.begin_replies (s : State) (c : Nat) (p : Packet) (cls : Nat) : ((s.begin_ c p cls).1.ctx c).replies = (s.ctx c).replies := by
  obtain ⟨f, i, h⟩ := s.begin_ctx c p cls
  rw [h]

theorem State.replies_pushReply (s : State) (c : Nat) (r : Reply) : ((s.pushReply c r).ctx c).replies = (s.ctx c).replies ++ [r] := by
  have own : ((s.setCtx c { s.ctx c with replies := (s.ctx c).replies ++ [r] }).ctx c).replies = (s.ctx c).replies ++ [r] := by simp
  unfold State.pushReply
  dsimp only
  split
  · exact own
  · split <;> exact own

/-- The replies of a context after one to a command of its own. -/
theorem State.replies_complete {s : State} {r : CmdRef} (flight : r.uid ∈ (s.ctx r.ctx).inflight) (st : Status) (res : List Word) :
    ∃ x : Reply, x.status = st ∧ ((s.complete r st res).ctx r.ctx).replies = (s.ctx r.ctx).replies ++ [x] := by
  rw [State.complete, if_pos (by simpa using flight), State.replies_pushReply]
  exact ⟨_, rfl, rfl⟩

theorem State.complete_unknown {s : State} {r : CmdRef} (gone : r.uid ∉ (s.ctx r.ctx).inflight) (st : Status) (res : List Word) :
    s.complete r st res = s := by
  rw [State.complete, if_neg (by simpa using gone)]

end Sys2Proof.Machine
end

section
/-! PROOFS. A partition drains (R437, R438): its waiting solves answered BUSY, and the end of the drain. -/
namespace Sys2Proof.Machine

/-! ## The solves that wait -/

/-- A solve of a partition that waits for its window answered BUSY. -/
def State.busySolve (q : Nat) (s : State) (e : Nat × Prob) : State := match e.2.cmd with
  | some (r, _) => if e.2.desc.part = q ∧ e.2.run.isNone then (s.setProb e.1 { e.2 with cmd := none }).complete r stBusy else s
  | none => s

theorem State.busySolves_eq (s : State) (q : Nat) : s.busySolves q = s.slv.probs.foldl (State.busySolve q) s := rfl

/-- The answer to a solve that waits: the problem keeps everything but the command. -/
theorem State.busySolve_waits {q : Nat} {e : Nat × Prob} {r : CmdRef × Nat} (cmd : e.2.cmd = some r) (part : e.2.desc.part = q) (idle : e.2.run = none)
    (s : State) : State.busySolve q s e = (s.setProb e.1 { e.2 with cmd := none }).complete r.1 stBusy := by
  simp [State.busySolve, cmd, part, idle]

/-- An entry of the problem table changes no problem but its own, and leaves that one without a command where it changes it. -/
theorem State.busySolve_cases (q : Nat) (s : State) (e : Nat × Prob) : State.busySolve q s e = s ∨
    ∃ m, State.busySolve q s e = { s.setProb e.1 { e.2 with cmd := none } with cmd := m } := by
  unfold State.busySolve
  split
  · split
    · exact .inr (State.complete_frame _ _ _ _ _)
    · exact .inl rfl
  · exact .inl rfl

theorem State.busySolves_frame (s : State) (q : Nat) : ∃ x m, s.busySolves q = { s with slv := x, cmd := m } := by
  rw [State.busySolves_eq]
  refine foldl_keeps (fun a b : State => ∃ x m, b = { a with slv := x, cmd := m }) (State.busySolve q) (fun a => ⟨a.slv, a.cmd, rfl⟩)
    (fun _ _ _ ⟨_, _, h⟩ ⟨x, m, k⟩ => ⟨x, m, by rw [k, h]⟩) (fun a e => ?_) s.slv.probs s
  rcases State.busySolve_cases q a e with h | ⟨m, h⟩
  · exact ⟨a.slv, a.cmd, h⟩
  · exact ⟨_, m, h⟩

theorem State.busySolve_keeps_answered {q k : Nat} {s : State} (answered : (s.prob k).cmd = none) (e : Nat × Prob) :
    ((State.busySolve q s e).prob k).cmd = none := by
  rcases State.busySolve_cases q s e with h | ⟨m, h⟩ <;> rw [h]
  · exact answered
  · show ((s.setProb e.1 { e.2 with cmd := none }).prob k).cmd = none
    rw [State.prob_setProb]
    split
    · rfl
    · exact answered

/-- A fold over the table answers every problem that it lists as waiting. -/
theorem State.foldl_busySolve_answers {q k : Nat} {x : Prob} {r : CmdRef × Nat} (cmd : x.cmd = some r) (part : x.desc.part = q) (idle : x.run = none)
    {l : List (Nat × Prob)} (listed : (k, x) ∈ l) (s : State) : ((l.foldl (State.busySolve q) s).prob k).cmd = none := by
  obtain ⟨before, after, rfl⟩ := List.append_of_mem listed
  rw [List.foldl_append, List.foldl_cons]
  refine List.foldlRecOn after (State.busySolve q) (motive := fun u => (u.prob k).cmd = none) ?_ fun _ answered e _ => State.busySolve_keeps_answered answered e
  obtain ⟨m, h⟩ := State.complete_frame ((before.foldl (State.busySolve q) s).setProb k { x with cmd := none }) r.1 stBusy [] 0
  rw [State.busySolve_waits (e := (k, x)) cmd part idle, h]
  show ((State.setProb _ k { x with cmd := none }).prob k).cmd = none
  rw [State.prob_setProb, if_pos rfl]

theorem State.busySolves_answers {s : State} {q k : Nat} {r : CmdRef × Nat} (cmd : (s.prob k).cmd = some r) (part : (s.prob k).desc.part = q)
    (idle : (s.prob k).run = none) : ((s.busySolves q).prob k).cmd = none := by
  have listed : (k, s.prob k) ∈ s.slv.probs := mem_of_tblGet (d := ({} : Prob)) fun free => by
    have none_ : (s.prob k).cmd = none := congrArg Prob.cmd free
    rw [cmd] at none_
    cases none_
  rw [State.busySolves_eq]
  exact State.foldl_busySolve_answers cmd part idle listed s

/-! ## SRV_DRAIN (R437) -/

/-- A drain of a partition begun, or joined where one runs. -/
def State.drainBegun (s : State) (q : Nat) (r : CmdRef) : State :=
  { s with pwr := { s.pwr with draining := maskSet s.pwr.draining q, drainCmd := s.pwr.drainCmd ++ [(q, r)] } }

section
variable {s : State} {c : Nat} {p : Packet} {q : Nat} (starts : s.Starts c p 0x0B01) (checked : chkSrvDrain s c p = none) (meant : s.drainPart p = some q)
include starts checked meant

theorem exec_srvDrain_drained (drained : maskBit s.pwr.drained q = true) :
    let b := s.begin_ c p (s.ctx c).cls
    exec (.srvDrain c p) s = .next (b.1.complete b.2 stOk []) := by
  have meant' : (s.begin_ c p (s.ctx c).cls).1.drainPart p = some q := by rw [State.begin_eq]; exact meant
  have drained' : maskBit (s.begin_ c p (s.ctx c).cls).1.pwr.drained q = true := by rw [State.begin_eq]; exact drained
  simp only [exec, execSrvDrain, checked, State.command_starts starts, meant', drained', if_true, State.replyNow]

theorem exec_srvDrain_drains (up : maskBit s.pwr.drained q = false) :
    let b := s.begin_ c p (s.ctx c).cls
    exec (.srvDrain c p) s = .next ((b.1.drainBegun q b.2).busySolves q) := by
  have meant' : (s.begin_ c p (s.ctx c).cls).1.drainPart p = some q := by rw [State.begin_eq]; exact meant
  have up' : maskBit (s.begin_ c p (s.ctx c).cls).1.pwr.drained q = false := by rw [State.begin_eq]; exact up
  simp only [exec, execSrvDrain, checked, State.command_starts starts, meant', up', State.drainBegun]
  rfl

end

/-! ## DRAIN_COMPLETE (R437, R438) -/

/-- A window watchdog of a partition disarmed. -/
def Started.disarmed (q : Nat) (w : Started) : Started := if w.entry.part = q then { w with armed := false } else w

theorem Started.armed_disarmed {q : Nat} {w : Started} (h : (w.disarmed q).entry.part = q) : (w.disarmed q).armed = false := by
  unfold Started.disarmed at h ⊢
  split
  · rfl
  · next other => exact absurd (by rwa [if_neg other] at h) other

/-- A partition that is drained, its watchdog windows disarmed and its drains about to be replied to. -/
def State.drained (s : State) (q : Nat) : State := { s with
  pwr := { s.pwr with draining := maskClear s.pwr.draining q, drained := maskSet s.pwr.drained q, drainCmd := s.pwr.drainCmd.filter fun e => e.1 != q }
  sched := { s.sched with started := s.sched.started.map (Started.disarmed q) } }

theorem State.disarmed_of_drained {s : State} {q : Nat} {w : Started} (h : w ∈ (s.drained q).sched.started) (part : w.entry.part = q) : w.armed = false := by
  obtain ⟨x, -, rfl⟩ := List.mem_map.1 h
  exact Started.armed_disarmed part

/-- The state in which the drains of a partition are replied to. -/
def State.drainEnded (s : State) (t q : Nat) : State := ((s.advance t).seqBoundary {} q ((s.advance t).retiring q)).drained q

theorem State.seqBoundary_pwr (s : State) (lost : BoundaryLoss) (part : Nat) (leaving : List Nat) : (s.seqBoundary lost part leaving).pwr = s.pwr := by
  rw [(s.seqBoundary_frame lost part leaving).eq]

theorem exec_drainComplete_waits {s : State} (t : Nat) {q : Nat} (busy : (s.advance t).partIdle q = false) :
    exec (.drainComplete t q) s = .next (s.advance t) := by
  simp [exec, execDrainComplete, busy]

theorem exec_drainComplete_drained {s : State} (t : Nat) {q : Nat} (hp : s.powered = true) (draining : maskBit s.pwr.draining q = true)
    (idle : (s.advance t).partIdle q = true) : exec (.drainComplete t q) s =
      .next (((s.pwr.drainCmd.filter fun e => e.1 == q).map Prod.snd).foldl (fun s r => s.complete r stOk []) (s.drainEnded t q)) := by
  have go : ¬ (!(s.advance t).powered || !maskBit (s.advance t).pwr.draining q || !(s.advance t).partIdle q) = true := by simp [hp, draining, idle]
  have kept : ((s.advance t).seqBoundary {} q ((s.advance t).retiring q)).pwr = s.pwr := State.seqBoundary_pwr _ _ _ _
  simp only [exec, execDrainComplete, if_neg go]
  rw [← kept]
  rfl

/-- Settles O52: a drain that begins answers the listed solves (`State.busySolves_answers`), and one that ends has left the power state to its own
change (`State.seqBoundary_pwr`). -/
theorem partitionsDrain : Obligations.PartitionsDrain := by
  refine ⟨fun s c p q starts checked meant => ⟨exec_srvDrain_drained starts checked meant, fun up => ?_⟩, fun s t q hp draining =>
    ⟨fun idle => ⟨_, exec_drainComplete_drained t hp draining idle, ?_, fun w => State.disarmed_of_drained⟩, exec_drainComplete_waits t⟩⟩
  · set b := s.begin_ c p (s.ctx c).cls with hb
    have begun : b.1 = { s with cmd := b.1.cmd } := State.begin_eq s c p _
    obtain ⟨x, m, h⟩ := (b.1.drainBegun q b.2).busySolves_frame q
    refine ⟨_, exec_srvDrain_drains starts checked meant up, ?_, fun k r cmd part idle => ?_, ?_⟩
    · rw [h, State.drainBegun, begun]
    · have same : (b.1.drainBegun q b.2).prob k = s.prob k := by rw [State.drainBegun, begun]; rfl
      exact State.busySolves_answers (by rw [same]; exact cmd) (by rw [same]; exact part) (by rw [same]; exact idle)
    · rw [h, State.drainBegun]
  · rw [State.drainEnded, State.drained, State.seqBoundary_pwr]
    rfl

end Sys2Proof.Machine
end

section
/-! PROOFS. The stream commands (R174 to R181). -/
namespace Sys2Proof.Machine

/-! ## What the start of a command leaves of the streams -/

theorem State.begin_strm (s : State) (c : Nat) (p : Packet) (cls : Nat) : (s.begin_ c p cls).1.strm = s.strm := by
  rw [State.begin_eq]

theorem State.begin_stream (s : State) (c : Nat) (p : Packet) (cls i : Nat) : (s.begin_ c p cls).1.stream i = s.stream i := by
  rw [State.begin_eq]
  rfl

theorem State.begin_strmModel (s : State) (c : Nat) (p : Packet) (cls i : Nat) : (s.begin_ c p cls).1.strmModel i = s.strmModel i := by
  rw [State.begin_eq]
  rfl

theorem State.begin_freeSlot (s : State) (c : Nat) (p : Packet) (cls : Nat) (m : StrmModel) : (s.begin_ c p cls).1.freeSlot m = s.freeSlot m := by
  rw [State.begin_eq]
  rfl

theorem State.begin_shownState (s : State) (c : Nat) (p : Packet) (cls i : Nat) (x : Strm) (m : StrmModel) :
    (s.begin_ c p cls).1.shownState i x m = s.shownState i x m := by
  rw [State.begin_eq]
  rfl

/-! ## STRM_OPEN (R175) -/

section
variable {s : State} {c : Nat} {p : Packet}

/-- STRM_OPEN passes its checks only for a model of the image. -/
theorem model_of_chkStrmOpen (checked : chkStrmOpen s c p = none) : ∃ m, s.strmModel (u8 p 17) = some m := by
  unfold chkStrmOpen at checked
  cases named : s.strmModel (u8 p 17) with
  | none => simp [named] at checked
  | some m => exact ⟨m, rfl⟩

/-- The entry that STRM_OPEN makes, with the slot kept for it. -/
def openedStream (s : State) (c : Nat) (p : Packet) (m : StrmModel) : Strm :=
  let slot := if strmFlag p then s.freeSlot m else none
  { valid := true, expavg := m.expavg, cls := u8 p 16, ctx := c, part := (s.ctx c).part, model := m.index, home := u64 p 24,
    resyncN := u32 p 20, refAddr := u64 p 32, inDue := slot.isSome, reserved := slot }

theorem openedStream_inDue (m : StrmModel) : (openedStream s c p m).inDue = true ↔ strmFlag p = true ∧ s.freeSlot m ≠ none := by
  show (if strmFlag p then s.freeSlot m else none).isSome = true ↔ _
  cases strmFlag p <;> simp [Option.isSome_iff_ne_none]

theorem exec_strmOpen (starts : s.Starts c p 0x0320) (checked : chkStrmOpen s c p = none) {m : StrmModel} (named : s.strmModel (u8 p 17) = some m) :
    let b := s.begin_ c p (openClass s c p)
    let i := lowestUnlisted 0 s.strm.ents
    let x := openedStream s c p m
    exec (.strmOpen c p) s = .next (((b.1.writeHome x m (initState m)).setStream i x).complete b.2 stOk [w32 i, w32 (if x.inDue then 1 else 0)]) := by
  simp only [exec, execStrmOpen, checked, State.command_starts starts, State.begin_strmModel, State.begin_strm, State.begin_freeSlot, State.begin_part,
    named, State.replyNow]
  rfl

/-! ## STRM_PUSH (R177) -/

/-- The chunk that STRM_PUSH puts behind the earlier ones. -/
def pushedChunk (b : State × CmdRef) (p : Packet) (h : HostRead) : Chunk :=
  { cmd := b.2, record := b.1.freeChunk, reset := strmFlag p, samples := u32 p 20, outAddr := u64 p 32,
    data := match h with
      | .data d => d
      | .failed => [] }

theorem exec_strmPush (h : HostRead) (starts : s.Starts c p 0x0321) (checked : chkStrmPush s c p h = none) :
    let b := s.begin_ c p (strmClass s c p)
    let x := s.stream (strmArg p)
    exec (.strmPush c p h) s = .next (b.1.setStream (strmArg p) { x with chunks := x.chunks ++ [pushedChunk b p h] }) := by
  simp only [exec, execStrmPush, checked, State.command_starts starts, State.begin_stream]
  rfl

/-! ## STRM_SWAP_OUT, STRM_SWAP_IN and STRM_CLOSE (R179 to R181) -/

/-- A command that brings no reply counts no refusal. -/
theorem State.countPinned_unanswered {before after : State} {c : Nat} (same : (after.ctx c).replies = (before.ctx c).replies) :
    State.countPinned before after c = after := by
  unfold State.countPinned
  split
  · exact if_neg (by simp [same])
  · rfl

/-- The refusal of a command is counted where its reply says STREAM_PINNED. -/
theorem State.countPinned_answered {before after : State} {c : Nat} {r : Reply} (answered : (after.ctx c).replies = (before.ctx c).replies ++ [r]) :
    State.countPinned before after c =
      if r.status = stPinned then { after with strm := { after.strm with pinnedCnt := satInc after.strm.pinnedCnt } } else after := by
  unfold State.countPinned
  simp [answered]

/-- An answer OK to a command counts no refusal. -/
theorem State.countPinned_ok (s : State) (c : Nat) (p : Packet) (cls : Nat) (res : List Word) :
    State.countPinned s (s.replied c p cls stOk res) c = s.replied c p cls stOk res := by
  by_cases flight : (s.begin_ c p cls).2.uid ∈ ((s.begin_ c p cls).1.ctx (s.begin_ c p cls).2.ctx).inflight
  · obtain ⟨r, ok, replies⟩ := State.replies_complete flight stOk res
    rw [State.begin_ref_ctx, State.begin_replies] at replies
    exact (State.countPinned_answered replies).trans (if_neg (by rw [ok]; decide))
  · refine State.countPinned_unanswered ?_
    rw [State.replied, State.complete_unknown flight, State.begin_replies]

theorem exec_strmSwapOut_waits (starts : s.Starts c p 0x0322) (checked : chkStrmSwapOut s c p = none)
    (moves : (s.stream (strmArg p)).resident = true ∨ (s.stream (strmArg p)).inDue = true) :
    let b := s.begin_ c p (strmClass s c p)
    let x := s.stream (strmArg p)
    exec (.strmSwapOut c p) s = .next (b.1.setStream (strmArg p) { x with outDue := true, outCmds := x.outCmds ++ [b.2] }) := by
  have go : ¬ (!(s.stream (strmArg p)).resident && !(s.stream (strmArg p)).inDue) = true := by rcases moves with h | h <;> simp [h]
  simp only [exec, execStrmSwapOut, checked, State.command_starts starts, State.begin_stream, if_neg go]
  exact congrArg _ (State.countPinned_unanswered (State.begin_replies s c p _))

theorem exec_strmSwapOut_idle (starts : s.Starts c p 0x0322) (checked : chkStrmSwapOut s c p = none)
    (home : (s.stream (strmArg p)).resident = false) (stays : (s.stream (strmArg p)).inDue = false) :
    let b := s.begin_ c p (strmClass s c p)
    exec (.strmSwapOut c p) s = .next (b.1.complete b.2 stOk []) := by
  simp only [exec, execStrmSwapOut, checked, State.command_starts starts, State.begin_stream, home, stays, Bool.not_false, Bool.and_self, if_true]
  exact congrArg _ (s.countPinned_ok c p _ [])

theorem exec_strmSwapOut_pinned (starts : s.Starts c p 0x0322) (pinned : chkStrmSwapOut s c p = some stPinned)
    (flight : let b := s.begin_ c p (strmClass s c p); b.2.uid ∈ (b.1.ctx c).inflight) :
    let u := s.replied c p (strmClass s c p) stPinned []
    exec (.strmSwapOut c p) s = .next { u with strm := { u.strm with pinnedCnt := satInc u.strm.pinnedCnt } } := by
  obtain ⟨r, status, replies⟩ := State.replies_complete (by rw [State.begin_ref_ctx]; exact flight) stPinned []
  rw [State.begin_ref_ctx, State.begin_replies] at replies
  simp only [exec, execStrmSwapOut, pinned, State.command_refuses starts]
  exact congrArg _ ((State.countPinned_answered replies).trans (if_pos status))

theorem chkStrmSwapOut_pinned (chunks : (s.stream (strmArg p)).chunks ≠ []) (force : strmFlag p = false) : chkStrmSwapOut s c p = some stPinned := by
  simp [chkStrmSwapOut, chunks, force]

theorem exec_strmSwapIn_waits (starts : s.Starts c p 0x0323) (checked : chkStrmSwapIn s c p = none)
    (moves : (s.stream (strmArg p)).resident = false ∨ (s.stream (strmArg p)).outDue = true) :
    let b := s.begin_ c p (strmClass s c p)
    let x := s.stream (strmArg p)
    exec (.strmSwapIn c p) s = .next (b.1.setStream (strmArg p) { x with inDue := true, inCmds := x.inCmds ++ [b.2] }) := by
  have go : ¬ ((s.stream (strmArg p)).resident && !(s.stream (strmArg p)).outDue) = true := by rcases moves with h | h <;> simp [h]
  simp only [exec, execStrmSwapIn, checked, State.command_starts starts, State.begin_stream, if_neg go]

theorem exec_strmSwapIn_idle (starts : s.Starts c p 0x0323) (checked : chkStrmSwapIn s c p = none)
    (inside : (s.stream (strmArg p)).resident = true) (stays : (s.stream (strmArg p)).outDue = false) :
    let b := s.begin_ c p (strmClass s c p)
    exec (.strmSwapIn c p) s = .next (b.1.complete b.2 stOk []) := by
  simp only [exec, execStrmSwapIn, checked, State.command_starts starts, State.begin_stream, inside, stays, Bool.not_false, Bool.and_self, if_true,
    State.replyNow]

theorem exec_strmClose (starts : s.Starts c p 0x0324) (checked : chkStrmSwapOut s c p = none) :
    let b := s.begin_ c p (strmClass s c p)
    let x := s.stream (strmArg p)
    exec (.strmClose c p) s = .next (b.1.setStream (strmArg p) { x with closing := true, closeCmd := x.closeCmd ++ [b.2] }) := by
  simp only [exec, execStrmClose, checked, State.command_starts starts, State.begin_stream]

/-! ## STRM_QUERY and STRM_STATE (R166, R176) -/

theorem exec_strmQuery (starts : s.Starts c p 0x0325) (checked : chkStrmNamed s c p = none) :
    let b := s.begin_ c p (strmClass s c p)
    let y := tblGet {} s.strm.shown (strmArg p)
    exec (.strmQuery c p) s = .next (b.1.complete b.2 stOk
      (if y.valid then y.words ((s.strmModel y.model).elim 0 StrmModel.len) else List.replicate 5 0)) := by
  simp only [exec, execStrmQuery, checked, State.command_starts starts, State.begin_strm, State.begin_strmModel, State.replyNow]

theorem chkStrmState_pinned (h : HostRead) (write : strmFlag p = true) (chunks : (s.stream (strmArg p)).chunks ≠ []) :
    chkStrmState s c p h = some stPinned := by
  simp [chkStrmState, write, chunks]

/-- A state with a value that is not finite, or a compensation word out of range, may not be written. -/
theorem stateOk_eq_false {st : StrmState} (bad : ∃ e ∈ st, f32Fin e.1 = false ∨ 2 ^ 14 < e.2.toInt.natAbs) : stateOk st = false := by
  obtain ⟨e, mem, h⟩ := bad
  refine List.all_eq_false.2 ⟨e, mem, fun ok => ?_⟩
  obtain ⟨finite, near⟩ := Bool.and_eq_true_iff.1 ok
  rcases h with infinite | far
  · simp [infinite] at finite
  · exact Nat.not_le.2 far (of_decide_eq_true near)

theorem chkStrmState_refuses {m : StrmModel} {d : List Byte} (named : chkStrmNamed s c p = none) (model : s.strmModel (s.stream (strmArg p)).model = some m)
    (write : strmFlag p = true) (idle : (s.stream (strmArg p)).chunks = [])
    (bad : ∃ e ∈ stateOf m d, f32Fin e.1 = false ∨ 2 ^ 14 < e.2.toInt.natAbs) : chkStrmState s c p (.data d) = some stDataError := by
  simp [chkStrmState, named, model, write, idle, stateOk_eq_false bad]

/-- STRM_STATE passes its checks only for a stream whose model the image holds. -/
theorem model_of_chkStrmState {h : HostRead} (checked : chkStrmState s c p h = none) : ∃ m, s.strmModel (s.stream (strmArg p)).model = some m := by
  unfold chkStrmState at checked
  cases model : s.strmModel (s.stream (strmArg p)).model with
  | some m => exact ⟨m, rfl⟩
  | none =>
    dsimp only at checked
    split at checked
    · cases checked
    · cases named : chkStrmNamed s c p <;> simp [named, model] at checked

section
variable {h : HostRead} (starts : s.Starts c p 0x0326) (checked : chkStrmState s c p h = none) {m : StrmModel}
  (model : s.strmModel (s.stream (strmArg p)).model = some m)
include starts checked model

theorem exec_strmState_reads (read : strmFlag p = false) :
    let b := s.begin_ c p (strmClass s c p)
    exec (.strmState c p h) s = .next
      ((b.1.writeFunc (s.ctx c).func (u64 p 24) (stateBytes (s.shownState (strmArg p) (s.stream (strmArg p)) m))).complete b.2 stOk []) := by
  simp only [exec, execStrmState, checked, State.command_starts starts, State.begin_stream, State.begin_strmModel, State.begin_func,
    State.begin_shownState, model, read, Bool.not_false, if_true, State.replyNow]

theorem exec_strmState_writes {d : List Byte} (write : strmFlag p = true) (data : h = .data d) :
    let b := s.begin_ c p (strmClass s c p)
    let x := s.stream (strmArg p)
    exec (.strmState c p h) s = .next
      (((b.1.putState x m (stateOf m d)).setStream (strmArg p) { x with faulted := false }).complete b.2 stOk []) := by
  subst data
  simp only [exec, execStrmState, checked, State.command_starts starts, State.begin_stream, State.begin_strmModel, model, write, Bool.not_true,
    Bool.false_eq_true, if_false, State.replyNow]

end

end

/-- Settles O23: each command is an equation for what it leaves, on the streams as the start of a command leaves them (`State.begin_strm`), and a
refusal is counted by the reply that it brings (`State.countPinned_answered`). -/
theorem streamCommands : Obligations.StreamCommands := by
  intro s c p h
  refine ⟨fun starts checked => ?opens, fun starts checked => ?pushes, exec_strmSwapOut_waits, exec_strmSwapOut_idle, chkStrmSwapOut_pinned,
    fun starts pinned flight => ⟨_, exec_strmSwapOut_pinned starts pinned flight, ?pinned, rfl⟩,
    fun starts checked => ⟨exec_strmSwapIn_waits starts checked, exec_strmSwapIn_idle starts checked⟩, exec_strmClose,
    fun starts checked => ⟨fun hidden => ?hidden, fun m shown model => ?shown⟩, chkStrmState_pinned h,
    fun m d named model write idle data bad => by rw [data]; exact chkStrmState_refuses named model write idle bad, fun starts checked => ?states⟩
  case opens =>
    obtain ⟨m, named⟩ := model_of_chkStrmOpen checked
    set i := lowestUnlisted 0 s.strm.ents
    have entry : ∀ b : State, (b.setStream i (openedStream s c p m)).stream i = openedStream s c p m := fun b => by simp
    refine ⟨_, m, i, named, rfl, (exec_strmOpen starts checked named).trans (by rw [entry]), ?_⟩
    rw [entry]
    exact ⟨rfl, rfl, rfl, rfl, rfl, rfl, rfl, openedStream_inDue m⟩
  case pushes =>
    refine ⟨_, pushedChunk (s.begin_ c p (strmClass s c p)) p h, exec_strmPush h starts checked, ?_, rfl, rfl, rfl, rfl, fun d data => ?_, rfl⟩
    · rw [State.stream_setStream, if_pos rfl]
    · rw [data]
      rfl
  case pinned =>
    have same : (s.replied c p (strmClass s c p) stPinned []).strm = s.strm := by rw [State.replied, State.strm_complete, State.begin_strm]
    rw [← same]
  case hidden =>
    rw [exec_strmQuery starts checked, if_neg (by rw [hidden]; exact Bool.false_ne_true)]
    rfl
  case shown => rw [exec_strmQuery starts checked, if_pos shown, model, Option.elim_some]
  case states =>
    obtain ⟨m, model⟩ := model_of_chkStrmState checked
    exact ⟨m, model, exec_strmState_reads starts checked model, fun write d => exec_strmState_writes starts checked model write⟩

end Sys2Proof.Machine
end

section
/-! PROOFS. What the operations on one stream can change (R167, R170, R172, R177, R178). -/
namespace Sys2Proof.Machine

/-! ## States and counts -/

@[simp] theorem State.stream_complete (s : State) (r : CmdRef) (st : Status) (res : List Word) (aux : Status) (k : Nat) :
    (s.complete r st res aux).stream k = s.stream k := by
  rw [State.stream, State.strm_complete, State.stream]

theorem State.stream_foldl_complete (st : Status) (rs : List CmdRef) (s : State) (k : Nat) :
    (rs.foldl (fun (s : State) r => s.complete r st) s).stream k = s.stream k := by
  rw [State.stream, State.strm_foldl_complete, State.stream]

/-- A state written to a pool slot changes the scratchpad alone. -/
theorem State.writeSlot_frame (s : State) (m : StrmModel) (slot : Nat) (st : StrmState) :
    ∃ p, s.writeSlot m slot st = { s with cmp := { s.cmp with sp := p } } := by
  refine foldl_keeps (fun a b : State => ∃ p, b = { a with cmp := { a.cmp with sp := p } }) _ (fun a => ⟨a.cmp.sp, rfl⟩)
    (fun _ _ _ ⟨_, h⟩ ⟨p, k⟩ => ⟨p, by rw [k, h]⟩) (fun a i => ?_) (List.range m.len) s
  obtain ⟨p, h⟩ := a.spWrite_frame (slotS m slot i) (leBytes (st.getD i (0, 0)).1.toNat 4)
  obtain ⟨q, k⟩ := (a.spWrite (slotS m slot i) (leBytes (st.getD i (0, 0)).1.toNat 4)).spWrite_frame (slotC m slot i) (leBytes (st.getD i (0, 0)).2.toNat 2)
  exact ⟨q, by rw [k, h]⟩

@[simp] theorem State.strm_writeSlot (s : State) (m : StrmModel) (slot : Nat) (st : StrmState) : (s.writeSlot m slot st).strm = s.strm := by
  obtain ⟨p, h⟩ := s.writeSlot_frame m slot st
  rw [h]

@[simp] theorem State.strm_putState (s : State) (x : Strm) (m : StrmModel) (st : StrmState) : (s.putState x m st).strm = s.strm := by
  unfold State.putState
  split
  · exact s.strm_writeSlot m x.slot st
  · rfl

@[simp] theorem State.strm_writeFunc (s : State) (f a : Nat) (bs : List Byte) : (s.writeFunc f a bs).strm = s.strm := by
  rw [s.writeFunc_frame f a bs]

@[simp] theorem State.strm_raise (s : State) (code part detail : Nat) : (s.raise code part detail).strm = s.strm := by
  rw [(s.raise_frame code part detail).eq]

@[simp] theorem State.cmp_raise (s : State) (code part detail : Nat) : (s.raise code part detail).cmp = s.cmp := by
  rw [(s.raise_frame code part detail).eq]

@[simp] theorem State.stream_countSwap (s : State) (k : Nat) : s.countSwap.stream k = s.stream k := rfl
@[simp] theorem State.swapCnt_countSwap (s : State) : s.countSwap.strm.swapCnt = satInc s.strm.swapCnt := rfl
@[simp] theorem State.cmp_setStream (s : State) (i : Nat) (x : Strm) : (s.setStream i x).cmp = s.cmp := rfl
@[simp] theorem State.swapCnt_setStream (s : State) (i : Nat) (x : Strm) : (s.setStream i x).strm.swapCnt = s.strm.swapCnt := rfl

/-! ## Chunks that end -/

/-- An entry whose chunks have all ended with a status. -/
def Strm.ended (x : Strm) (st : Status) : Strm := if x.chunks = [] then x else { x with chunks := [], done := 0, resetDone := false, status := st }

@[simp] theorem Strm.chunks_ended (x : Strm) (st : Status) : (x.ended st).chunks = [] := by
  unfold Strm.ended
  split
  · assumption
  · rfl

@[simp] theorem Strm.faulted_ended (x : Strm) (st : Status) : (x.ended st).faulted = x.faulted := by
  unfold Strm.ended
  split <;> rfl

@[simp] theorem Strm.resident_ended (x : Strm) (st : Status) : (x.ended st).resident = x.resident := by
  unfold Strm.ended
  split <;> rfl

theorem Strm.status_ended {x : Strm} {st : Status} (h : x.status = st) : (x.ended st).status = st := by
  unfold Strm.ended
  split
  · exact h
  · rfl

theorem State.finishChunk_nil {s : State} {i : Nat} (none_ : (s.stream i).chunks = []) (st : Status) : s.finishChunk i st = s := by
  simp [State.finishChunk, none_]

theorem State.finishChunk_cons {s : State} {i : Nat} {c : Chunk} {rest : List Chunk} (head : (s.stream i).chunks = c :: rest) (st : Status) :
    s.finishChunk i st = (s.setStream i { s.stream i with chunks := rest, done := 0, resetDone := false, status := st }).complete c.cmd st
      [w32 (s.stream i).done, w32 (s.stream i).step.toNat] := by
  simp [State.finishChunk, head]

/-- A stream whose chunks all end, where the fuel covers them. -/
theorem State.stream_finishFrom {s : State} {i fuel : Nat} (st : Status) (covered : (s.stream i).chunks.length ≤ fuel) :
    (s.finishFrom i 0 st fuel).stream i = (s.stream i).ended st := by
  induction fuel generalizing s with
  | zero =>
    have none_ : (s.stream i).chunks = [] := List.length_eq_zero_iff.1 (Nat.le_zero.1 covered)
    rw [State.finishFrom, Strm.ended, if_pos none_]
  | succ fuel ih =>
    rw [State.finishFrom, if_pos rfl]
    cases head : (s.stream i).chunks with
    | nil => rw [State.finishChunk_nil head, ih (by simp [head])]
    | cons c rest =>
      have next : (s.finishChunk i st).stream i = { s.stream i with chunks := rest, done := 0, resetDone := false, status := st } := by
        simp [State.finishChunk_cons head]
      rw [ih (by rw [next]; simpa [head] using covered), next, Strm.ended, Strm.ended, if_neg (by simp [head] : ¬ (s.stream i).chunks = [])]
      split
      · next none_ =>
        obtain rfl : rest = [] := none_
        rfl
      · rfl

/-- Chunks that end leave the compute regions and memories alone. -/
theorem State.cmp_finishChunk (s : State) (i : Nat) (st : Status) : (s.finishChunk i st).cmp = s.cmp := by
  unfold State.finishChunk
  dsimp only
  split
  · rfl
  · rw [State.cmp_complete, State.cmp_setStream]

theorem State.cmp_finishFrom (s : State) (i n : Nat) (st : Status) (fuel : Nat) : (s.finishFrom i n st fuel).cmp = s.cmp := by
  induction fuel generalizing s n with
  | zero => rfl
  | succ fuel ih =>
    unfold State.finishFrom
    dsimp only
    split
    · rw [ih, State.cmp_finishChunk]
    · split
      · rfl
      · rw [ih, State.cmp_complete, State.cmp_setStream]

/-! ## Faults (R170) -/

/-- The entry of a stream that faults, while its chunks end. -/
def Strm.faulting (x : Strm) (st : Status) : Strm := { x with faulted := true, status := st, left := 0, resync := false }

theorem State.strm_faultStream (s : State) (i : Nat) (st : Status) :
    (s.faultStream i st).strm = ((s.setStream i ((s.stream i).faulting st)).finishFrom i 0 st (s.stream i).chunks.length).strm := by
  unfold State.faultStream
  dsimp only
  split
  · rw [State.strm_raise, Strm.faulting]
  · rfl

theorem State.stream_faultStream (s : State) (i : Nat) (st : Status) : (s.faultStream i st).stream i = ((s.stream i).faulting st).ended st := by
  rw [State.stream, State.strm_faultStream, ← State.stream, State.stream_finishFrom] <;> simp [Strm.faulting]

theorem State.cmp_faultStream (s : State) (i : Nat) (st : Status) : (s.faultStream i st).cmp = s.cmp := by
  unfold State.faultStream
  dsimp only
  split
  · rw [State.cmp_raise, State.cmp_finishFrom, State.cmp_setStream]
  · rw [State.cmp_finishFrom, State.cmp_setStream]

/-! ## The other streams -/

/-- Every stream but one has its entry in the second state as in the first. -/
def OtherStreams (i : Nat) (s u : State) : Prop := ∀ k, k ≠ i → u.stream k = s.stream k

namespace OtherStreams
variable {i : Nat} {s t u : State}

theorem refl (i : Nat) (s : State) : OtherStreams i s s := fun _ _ => rfl

theorem trans (h : OtherStreams i s t) (k : OtherStreams i t u) : OtherStreams i s u := fun j hj => (k j hj).trans (h j hj)

theorem of_strm (h : u.strm = s.strm) : OtherStreams i s u := fun k _ => by rw [State.stream, h, State.stream]

theorem setStream {x : Strm} (h : t.strm = s.strm) : OtherStreams i s (t.setStream i x) := fun k hk => by
  rw [State.stream_setStream, if_neg hk, State.stream, h, State.stream]

theorem foldl_complete (h : OtherStreams i s t) {st : Status} {rs : List CmdRef} : OtherStreams i s (rs.foldl (fun (s : State) r => s.complete r st) t) :=
  h.trans (of_strm (State.strm_foldl_complete st rs t))

end OtherStreams

theorem State.finishChunk_others (s : State) (i : Nat) (st : Status) : OtherStreams i s (s.finishChunk i st) := by
  cases head : (s.stream i).chunks with
  | nil => rw [State.finishChunk_nil head]; exact .refl i s
  | cons c rest => rw [State.finishChunk_cons head]; exact .trans (.setStream rfl) (.of_strm (State.strm_complete _ _ _ _ _))

theorem State.finishFrom_others (s : State) (i n : Nat) (st : Status) (fuel : Nat) : OtherStreams i s (s.finishFrom i n st fuel) := by
  induction fuel generalizing s n with
  | zero => exact .refl i s
  | succ fuel ih =>
    unfold State.finishFrom
    dsimp only
    split
    · exact .trans (s.finishChunk_others i st) (ih _ _)
    · split
      · exact .refl i s
      · exact .trans (.trans (.setStream rfl) (.of_strm (State.strm_complete _ _ _ _ _))) (ih _ _)

theorem State.faultStream_others (s : State) (i : Nat) (st : Status) : OtherStreams i s (s.faultStream i st) :=
  .trans (.trans (.setStream rfl) (State.finishFrom_others _ i 0 st _)) (.of_strm (s.strm_faultStream i st))

theorem State.resetStream_others (s : State) (m : StrmModel) (i : Nat) : OtherStreams i s (s.resetStream m i) := .setStream (s.strm_putState _ m _)

theorem State.addNonfinite_strm (s : State) (k n : Nat) : (s.addNonfinite k n).strm = s.strm := rfl

/-- A sample applied changes no other stream, whether it faults or not. -/
theorem State.applySample_others {s t : State} {i : Nat} {m : StrmModel} {u : List Word} {y : Option (List Word)} (h : s.applySample i m u = (t, y)) :
    OtherStreams i s t := by
  obtain rfl : (s.applySample i m u).1 = t := congrArg Prod.fst h
  unfold State.applySample
  dsimp only
  split
  · cases s.physOf m.lreg with
    | none => exact .refl i s
    | some k => exact .of_strm (s.addNonfinite_strm k _)
  · exact .setStream (s.strm_putState _ m _)

/-- The samples of a stream change no other stream. -/
theorem State.runSamples_others (s : State) (i : Nat) (m : StrmModel) (bad : Bool) (fuel : Nat) : OtherStreams i s (s.runSamples i m bad fuel) := by
  induction fuel generalizing s bad with
  | zero => exact .refl i s
  | succ fuel ih =>
    unfold State.runSamples
    dsimp only
    split
    · exact .refl i s
    · split
      · exact .refl i s
      · split
        · split
          · exact s.finishChunk_others i stOk
          · exact .refl i s
        · split
          · exact s.faultStream_others i stEcc
          · split
            · next sampled => exact .trans (State.applySample_others sampled) (State.faultStream_others _ i stDataError)
            · next sampled =>
              refine .trans (State.applySample_others sampled) ?_
              split
              · exact .trans (.setStream (State.strm_writeFunc _ _ _ _)) (State.finishChunk_others _ i stEcc)
              · exact .trans (.setStream (State.strm_writeFunc _ _ _ _)) (ih _ _)

/-- A stream that has no samples left and whose first chunk is not done runs none. -/
theorem State.runSamples_idle {s : State} {i : Nat} (idle : (s.stream i).left = 0) (undone : ∀ c ∈ (s.stream i).chunks, (s.stream i).done < c.samples)
    (m : StrmModel) (bad : Bool) (fuel : Nat) : s.runSamples i m bad fuel = s := by
  cases fuel with
  | zero => rfl
  | succ fuel =>
    unfold State.runSamples
    dsimp only
    split
    · rfl
    · next c rest chunks =>
      have more : ¬ (s.stream i).done ≥ c.samples := Nat.not_le.2 (undone c (by simp [chunks]))
      simp [idle, more]

end Sys2Proof.Machine
end

section
/-! PROOFS. Stream-step boundaries: the streams that close leave their pool (R173, R178 to R183). -/
namespace Sys2Proof.Machine

/-! ## What a boundary does to one stream -/

theorem State.closeStream_others (s : State) (i : Nat) : OtherStreams i s (s.closeStream i) := fun k hk => by
  unfold State.closeStream
  rw [State.stream, tblGet_tblErase, if_neg hk]
  exact OtherStreams.foldl_complete (.foldl_complete (s.finishFrom_others i 0 stOwnerLost _)) k hk

/-- A stream that is closed leaves the table. -/
theorem State.stream_closeStream (s : State) (i : Nat) : (s.closeStream i).stream i = {} := by
  unfold State.closeStream
  rw [State.stream, tblGet_tblErase, if_pos rfl]

theorem State.outAtBoundary_others (s : State) (i : Nat) : OtherStreams i s (s.outAtBoundary i) := by
  unfold State.outAtBoundary
  dsimp only
  split
  · exact s.closeStream_others i
  · split
    · exact .setStream rfl
    · split
      · exact .refl i s
      · split
        · exact .setStream rfl
        · exact .foldl_complete (.setStream rfl)

theorem State.inAtBoundary_others (s : State) (m : StrmModel) (i : Nat) : OtherStreams i s (s.inAtBoundary m i) := by
  unfold State.inAtBoundary
  dsimp only
  split
  · exact .refl i s
  · split
    · exact .foldl_complete (.setStream rfl)
    · split
      · exact .foldl_complete (.setStream rfl)
      · exact .setStream rfl

theorem State.resetStream_if_others (s : State) (m : StrmModel) (i : Nat) (c : Bool) : OtherStreams i s (if c then s.resetStream m i else s) := by
  cases c
  · exact .refl i s
  · exact s.resetStream_others m i

theorem State.resetAtBoundary_others (s : State) (m : StrmModel) (i fuel : Nat) : OtherStreams i s (s.resetAtBoundary m i fuel) := by
  induction fuel generalizing s with
  | zero => exact .refl i s
  | succ fuel ih =>
    unfold State.resetAtBoundary
    dsimp only
    split
    · exact .refl i s
    · split
      · exact .refl i s
      · split
        · exact s.finishFrom_others i 0 stTimeout _
        · exact .trans (.trans (s.resetStream_if_others m i _) (State.finishChunk_others _ i stOk)) (ih _)

theorem State.samplesAtBoundary_others (s : State) (m : StrmModel) (poison : List Nat) (i : Nat) : OtherStreams i s (s.samplesAtBoundary m poison i) := by
  unfold State.samplesAtBoundary
  dsimp only
  split
  · exact .refl i s
  · split
    · exact .refl i s
    · split
      · exact s.finishFrom_others i 0 stTimeout _
      · exact .trans (.trans (s.resetStream_if_others m i _) (.setStream rfl)) (State.runSamples_others _ i m _ _)

/-- Streams shown keep their entries. -/
theorem State.stream_showStreams (s : State) (model k : Nat) : (s.showStreams model).stream k = s.stream k :=
  foldl_keeps (fun a b : State => b.stream k = a.stream k) State.showStream (fun _ => rfl) (fun _ _ _ h h' => h'.trans h) (fun _ _ => rfl) _ s

/-! ## A stream that is gone stays gone -/

section
variable {s : State} {k : Nat} (gone : s.stream k = {})
include gone

theorem State.outAtBoundary_gone : (s.outAtBoundary k).stream k = {} := by simp [State.outAtBoundary, gone]

theorem State.inAtBoundary_gone (m : StrmModel) : (s.inAtBoundary m k).stream k = {} := by simp [State.inAtBoundary, gone]

theorem State.resetAtBoundary_gone (m : StrmModel) (fuel : Nat) : (s.resetAtBoundary m k fuel).stream k = {} := by
  cases fuel <;> simp [State.resetAtBoundary, gone]

theorem State.samplesAtBoundary_gone (m : StrmModel) (poison : List Nat) : (s.samplesAtBoundary m poison k).stream k = {} := by
  simp [State.samplesAtBoundary, gone]

end

section
variable {f : State → Nat → State} {k : Nat} (others : ∀ s i, OtherStreams i s (f s i)) (stays : ∀ s : State, s.stream k = {} → (f s k).stream k = {})
include others stays

/-- An operation on each stream of a list brings no stream back that is gone. -/
theorem State.foldl_gone (l : List Nat) {s : State} (gone : s.stream k = {}) : (l.foldl f s).stream k = {} := by
  refine List.foldlRecOn l f (motive := fun u => u.stream k = {}) gone fun u h i _ => ?_
  by_cases own : k = i
  · subst own
    exact stays u h
  · exact (others u i k own).trans h

/-- An operation on each stream of a list removes a listed one that it removes on its own. -/
theorem State.foldl_closes {l : List Nat} (listed : k ∈ l) {s : State} (closes : ∀ u : State, u.stream k = s.stream k → (f u k).stream k = {}) :
    (l.foldl f s).stream k = {} := by
  induction l generalizing s with
  | nil => cases listed
  | cons i rest ih =>
    by_cases own : k = i
    · subst own
      exact State.foldl_gone others stays rest (closes s rfl)
    · have kept := others s i k own
      exact ih (List.mem_of_ne_of_mem own listed) fun u h => closes u (h.trans kept)

end

/-! ## A boundary -/

theorem State.mem_poolStreams {s : State} {k : Nat} (valid : (s.stream k).valid = true) : k ∈ s.poolStreams (s.stream k).model := by
  have listed : (k, s.stream k) ∈ s.strm.ents := mem_of_tblGet (d := ({} : Strm)) fun free => by
    have invalid : (s.stream k).valid = false := congrArg Strm.valid free
    rw [valid] at invalid
    cases invalid
  exact List.mem_map.2 ⟨_, List.mem_filter.2 ⟨listed, by simp [valid]⟩, rfl⟩

/-- A stream of a pool that is to be closed, or that its owner has dropped, is gone after the events of its boundary (R181, R183). -/
theorem State.strmEvents_closes {s : State} {m : StrmModel} {k : Nat} (valid : (s.stream k).valid = true)
    (leaves : (s.stream k).closing = true ∨ (s.stream k).dropped = true) (pool : (s.stream k).model = m.index) : (s.strmEvents m).stream k = {} := by
  have closes : ∀ u : State, u.stream k = s.stream k → (u.outAtBoundary k).stream k = {} := fun u h => by
    unfold State.outAtBoundary
    rw [if_pos (by rcases leaves with l | l <;> simp [h, l])]
    exact u.stream_closeStream k
  refine State.foldl_gone (fun s i => s.resetAtBoundary_others m i _) (fun _ gone => State.resetAtBoundary_gone gone m _) _ ?_
  refine State.foldl_gone (fun s i => s.inAtBoundary_others m i) (fun _ gone => State.inAtBoundary_gone gone m) _ ?_
  exact State.foldl_closes State.outAtBoundary_others (fun _ => State.outAtBoundary_gone) (pool ▸ State.mem_poolStreams valid) closes

theorem State.strmModel_index {s : State} {model : Nat} {m : StrmModel} (named : s.strmModel model = some m) : m.index = model := by
  obtain ⟨i, -, found⟩ := Option.bind_eq_some_iff.1 named
  simpa using List.find?_some found

/-- The samples of a boundary: a class 1 pool takes its own when its entry fires. -/
def State.boundarySamples (s : State) (m : StrmModel) (model : Nat) (poison : List Nat) : State :=
  if m.cls = 1 then s else (s.poolStreams model).foldl (fun s i => s.samplesAtBoundary m poison i) s

theorem State.boundarySamples_gone {s : State} {k : Nat} (gone : s.stream k = {}) (m : StrmModel) (model : Nat) (poison : List Nat) :
    (s.boundarySamples m model poison).stream k = {} := by
  unfold State.boundarySamples
  split
  · exact gone
  · exact State.foldl_gone (fun s i => s.samplesAtBoundary_others m poison i) (fun _ gone => State.samplesAtBoundary_gone gone m poison) _ gone

section
variable {s : State} (t : Nat) {lreg model : Nat} {m : StrmModel} (poison : List Nat) (hp : s.powered = true)
include hp

theorem exec_streamStepBoundary_steps (named : s.strmModel model = some m) (inside : m.lreg = lreg) : exec (.streamStepBoundary t lreg model poison) s =
    .next ((((s.advance t).strmEvents m).boundarySamples m model poison).showStreams model) := by
  have named' : (s.advance t).strmModel model = some m := named
  simp [exec, execStreamStepBoundary, named', hp, inside, State.boundarySamples]

theorem exec_streamStepBoundary_unloaded (named : s.strmModel model = none) : exec (.streamStepBoundary t lreg model poison) s =
    .next (((((s.advance t).poolStreams model).filter fun i => ((s.advance t).stream i).dropped).foldl State.closeStream (s.advance t)).showStreams model) := by
  have named' : (s.advance t).strmModel model = none := named
  simp [exec, execStreamStepBoundary, named', hp]

end

theorem exec_streamStepBoundary_elsewhere {s : State} (t : Nat) {lreg model : Nat} {m : StrmModel} (poison : List Nat)
    (named : s.strmModel model = some m) (other : m.lreg ≠ lreg) : exec (.streamStepBoundary t lreg model poison) s = .next (s.advance t) := by
  have named' : (s.advance t).strmModel model = some m := named
  simp [exec, execStreamStepBoundary, named', other]

/-! ## References (R185) -/

/-- Whether the reference of a stream is taken. -/
def State.takesRef (s : State) (x : Strm) (m : StrmModel) (torn : Bool) : Bool :=
  !torn && !s.refPoisoned x m && (s.refRecord x m).1 != x.refSeq && (s.refRecord x m).2.all f32Fin

theorem State.takesRef_eq_false {s : State} {x : Strm} {m : StrmModel} {torn : Bool}
    (bad : torn = true ∨ s.refPoisoned x m = true ∨ (s.refRecord x m).1 = x.refSeq ∨ (s.refRecord x m).2.all f32Fin = false) :
    s.takesRef x m torn = false := by
  rcases bad with torn | poisoned | known | infinite
  · simp [State.takesRef, torn]
  · simp [State.takesRef, poisoned]
  · simp [State.takesRef, known]
  · rw [State.takesRef, infinite, Bool.and_false]

theorem State.takesRef_eq_true {s : State} {x : Strm} {m : StrmModel} (clean : s.refPoisoned x m = false) (new : (s.refRecord x m).1 ≠ x.refSeq)
    (finite : (s.refRecord x m).2.all f32Fin = true) : s.takesRef x m false = true := by
  rw [State.takesRef, clean, finite, bne_iff_ne.2 new]
  rfl

/-- A reference missed. -/
def State.refMissed (s : State) (i : Nat) : State :=
  let s := s.setStream i { s.stream i with resync := false }
  { s with strm := { s.strm with resyncMiss := satInc s.strm.resyncMiss } }

/-- A reference that replaces the state of its stream. -/
def State.refTaken (s : State) (i : Nat) (m : StrmModel) : State :=
  let x := s.stream i
  let s := (s.putState x m ((s.refRecord x m).2.map fun v => (v, 0))).setStream i { x with refSeq := (s.refRecord x m).1, resync := false }
  { s with strm := { s.strm with resyncCnt := satInc s.strm.resyncCnt } }

theorem State.stream_refMissed (s : State) (i : Nat) : (s.refMissed i).stream i = { s.stream i with resync := false } := by
  show (s.setStream i _).stream i = _
  rw [State.stream_setStream, if_pos rfl]

theorem State.stream_refTaken (s : State) (i : Nat) (m : StrmModel) :
    (s.refTaken i m).stream i = { s.stream i with refSeq := (s.refRecord (s.stream i) m).1, resync := false } := by
  show (State.setStream _ i _).stream i = _
  rw [State.stream_setStream, if_pos rfl]

theorem State.resyncCnt_refTaken (s : State) (i : Nat) (m : StrmModel) : (s.refTaken i m).strm.resyncCnt = satInc s.strm.resyncCnt := by
  show satInc (s.putState _ m _).strm.resyncCnt = _
  rw [State.strm_putState]

section
variable {s : State} {t i : Nat} {m : StrmModel} {torn : Bool} (hp : s.powered = true) (model : s.strmModel (s.stream i).model = some m)
  (valid : (s.stream i).valid = true) (due : (s.stream i).resync = true) (idle : (s.stream i).left = 0)
  (undone : ∀ k ∈ (s.stream i).chunks, (s.stream i).done < k.samples)
include hp model valid due idle undone

/-- A reference that is due is taken or missed; where no samples are left of the step, that is all. -/
theorem exec_streamResync : exec (.streamResync t i torn) s =
    .next (if s.takesRef (s.stream i) m torn then (s.advance t).refTaken i m else (s.advance t).refMissed i) := by
  have model' : (s.advance t).strmModel ((s.advance t).stream i).model = some m := model
  have go : ¬ (!(s.advance t).powered || !((s.advance t).stream i).valid || !((s.advance t).stream i).resync) = true := by simp [hp, valid, due]
  simp only [exec, execStreamResync, model', if_neg go]
  refine congrArg _ ?_
  show State.runSamples (if s.takesRef (s.stream i) m torn then (s.advance t).refTaken i m else (s.advance t).refMissed i) i m false _ = _
  split
  · rw [State.runSamples_idle] <;> rw [State.stream_refTaken]
    · exact idle
    · exact undone
  · rw [State.runSamples_idle] <;> rw [State.stream_refMissed]
    · exact idle
    · exact undone

end

end Sys2Proof.Machine
end

section
/-! PROOFS. Stream swaps (R179, R182), and what happens at the boundaries of streams (R170, R178, R181, R183, R185). -/
namespace Sys2Proof.Machine

/-! ## Swaps (R179) -/

/-- An entry whose swap-out is over. -/
def Strm.outOver (x : Strm) : Strm := { x with move := .none, outDue := false, outCmds := [] }
/-- An entry whose swap-in is over. -/
def Strm.inOver (x : Strm) : Strm := { x with move := .none, inDue := false, inCmds := [] }

/-- A swap-in that fails: the entry takes the status, and where the data is poisoned the stream faults. -/
def State.swapInFailed (s : State) (i : Nat) (bad : Bool) : State :=
  let s := s.setStream i { (s.stream i).inOver with status := stEcc }
  if bad then s.faultStream i stEcc else s

theorem State.swapInFailed_clean {bad : Bool} (h : bad = false) (s : State) (i : Nat) :
    s.swapInFailed i bad = s.setStream i { (s.stream i).inOver with status := stEcc } := by
  rw [h]
  rfl

theorem State.swapInFailed_poisoned {bad : Bool} (h : bad = true) (s : State) (i : Nat) :
    s.swapInFailed i bad = (s.setStream i { (s.stream i).inOver with status := stEcc }).faultStream i stEcc := by
  rw [h]
  rfl

/-- A swap-out that succeeds: the state goes to the home copy, and the slot is free. -/
def State.swappedOut (s : State) (i : Nat) (m : StrmModel) : State :=
  let x := s.stream i
  ((s.writeHome x m (s.slotState m x.slot)).setStream i { x.outOver with resident := false, slot := 0 }).countSwap

/-- A swap-out that fails: the stream stays in its slot. -/
def State.swapOutFailed (s : State) (i : Nat) : State := s.setStream i { (s.stream i).outOver with back := false, status := stEcc }

/-- A swap-in that succeeds: slot `k` holds the home copy. -/
def State.swappedIn (s : State) (i : Nat) (m : StrmModel) (k : Nat) : State :=
  let x := s.stream i
  ((s.writeSlot m k (s.homeState x m)).setStream i { x.inOver with resident := true, slot := k, back := false }).countSwap

/-- Whether another stream holds the slot that a stream moves to. -/
def State.slotTaken (s : State) (i k : Nat) : Bool :=
  s.strm.ents.any fun e => e.1 != i && e.2.resident && e.2.model == (s.stream i).model && e.2.slot == k

theorem State.slotTaken_eq_false {s : State} {i k : Nat}
    (free : ∀ e ∈ s.strm.ents, e.1 ≠ i → e.2.model = (s.stream i).model → e.2.resident = true → e.2.slot ≠ k) : s.slotTaken i k = false := by
  refine List.any_eq_false.2 fun e mem taken => ?_
  simp only [Bool.and_eq_true, bne_iff_ne, beq_iff_eq] at taken
  obtain ⟨⟨⟨other, resident⟩, pool⟩, slot⟩ := taken
  exact free e mem other pool resident slot

section
variable {s : State} {i : Nat} {m : StrmModel} (t : Nat) (hp : s.powered = true) (valid : (s.stream i).valid = true)
  (model : s.strmModel (s.stream i).model = some m) (failed : Bool)
include hp valid model

theorem exec_streamSwapComplete_out (out : (s.stream i).move = .out) : exec (.streamSwapComplete t i failed) s = .next
    (if failed || s.slotPoisoned m (s.stream i).slot
      then (s.stream i).outCmds.foldl (fun s r => s.complete r stEcc) ((s.advance t).swapOutFailed i)
      else (s.stream i).outCmds.foldl (fun s r => s.complete r stOk) ((s.advance t).swappedOut i m)) := by
  have model' : (s.advance t).strmModel ((s.advance t).stream i).model = some m := model
  have move' : ((s.advance t).stream i).move = .out := out
  have go : ¬ (!(s.advance t).powered || !((s.advance t).stream i).valid) = true := by simp [hp, valid]
  simp only [exec, execStreamSwapComplete, model', if_neg go, move']
  rfl

theorem exec_streamSwapComplete_in {k : Nat} (into : (s.stream i).move = .into k) : exec (.streamSwapComplete t i failed) s = .next
    (if failed || s.homePoisoned (s.stream i) m
      then (s.stream i).inCmds.foldl (fun s r => s.complete r stEcc) ((s.advance t).swapInFailed i (s.homePoisoned (s.stream i) m))
      else if s.slotTaken i k
        then (s.stream i).inCmds.foldl (fun s r => s.complete r stBusy) ((s.advance t).setStream i (s.stream i).inOver)
        else (s.stream i).inCmds.foldl (fun s r => s.complete r stOk) ((s.advance t).swappedIn i m k)) := by
  have model' : (s.advance t).strmModel ((s.advance t).stream i).model = some m := model
  have move' : ((s.advance t).stream i).move = .into k := into
  have go : ¬ (!(s.advance t).powered || !((s.advance t).stream i).valid) = true := by simp [hp, valid]
  simp only [exec, execStreamSwapComplete, model', if_neg go, move']
  rfl

end

/-- Stream swaps. -/
theorem streamSwaps : Claims.StreamSwaps := by
  intro s t i m hp valid model x
  have out_ := fun failed => exec_streamSwapComplete_out t hp valid model failed
  have in_ := fun failed {k} => exec_streamSwapComplete_in t hp valid model failed (k := k)
  refine ⟨fun out clean => ⟨_, (out_ false out).trans (congrArg _ (if_neg (ne_true_of_eq_false clean))), ?out⟩,
    fun failed out bad => ⟨_, (out_ failed out).trans (congrArg _ (if_pos (Bool.or_eq_true_iff.2 bad))), ?outFails⟩,
    fun k into clean free => ⟨_, (in_ false into).trans (congrArg _ ((if_neg (ne_true_of_eq_false clean)).trans
      (if_neg (ne_true_of_eq_false (State.slotTaken_eq_false free))))), ?in_⟩,
    fun k into clean => ⟨_, (in_ true into).trans (congrArg _ (if_pos rfl)), ?inFails⟩,
    fun k failed into poisoned => ⟨_, (in_ failed into).trans (congrArg _ (if_pos (Bool.or_eq_true_iff.2 (.inr poisoned)))), ?faults⟩⟩
  case out =>
    rw [State.stream_foldl_complete, State.strm_foldl_complete, State.cmp_foldl_complete, State.swappedOut, State.stream_countSwap, State.stream_setStream,
      if_pos rfl]
    exact ⟨rfl, rfl, rfl, rfl, rfl⟩
  case outFails =>
    rw [State.stream_foldl_complete, State.strm_foldl_complete, State.cmp_foldl_complete, State.swapOutFailed, State.stream_setStream, if_pos rfl]
    exact ⟨rfl, rfl, rfl, rfl, rfl⟩
  case in_ =>
    rw [State.stream_foldl_complete, State.strm_foldl_complete, State.cmp_foldl_complete, State.swappedIn, State.stream_countSwap, State.swapCnt_countSwap,
      State.stream_setStream, if_pos rfl, State.swapCnt_setStream, State.strm_writeSlot]
    exact ⟨rfl, rfl, rfl, rfl, rfl⟩
  case inFails =>
    rw [State.stream_foldl_complete, State.strm_foldl_complete, State.cmp_foldl_complete, State.swapInFailed_clean clean, State.stream_setStream, if_pos rfl]
    exact ⟨rfl, rfl, rfl, rfl, rfl⟩
  case faults =>
    rw [State.stream_foldl_complete, State.cmp_foldl_complete, State.swapInFailed_poisoned poisoned, State.stream_faultStream, State.cmp_faultStream,
      State.stream_setStream, if_pos rfl, Strm.faulted_ended, Strm.chunks_ended, Strm.resident_ended]
    exact ⟨rfl, rfl, rfl, Strm.status_ended rfl, rfl⟩

/-! ## Deadlines of chunks (R178) -/

theorem exec_streamChunkDeadline_first {s : State} {t i : Nat} {k : Chunk} {rest : List Chunk} (hp : s.powered = true) (valid : (s.stream i).valid = true)
    (chunks : (s.stream i).chunks = k :: rest) (unstarted : (s.stream i).done = 0) (late : (s.advance t).deadlinePassed k.cmd.deadline = true) :
    exec (.streamChunkDeadline t i) s = .next ((s.advance t).finishFrom i 0 stTimeout (rest.length + 1)) := by
  simp [exec, execStreamChunkDeadline, hp, valid, chunks, unstarted, late, List.findIdx?_cons]

theorem exec_streamChunkDeadline_none {s : State} (t : Nat) {i : Nat} (none_ : (s.stream i).chunks = []) :
    exec (.streamChunkDeadline t i) s = .next (s.advance t) := by
  simp [exec, execStreamChunkDeadline, none_]

/-! ## The claims -/

/-- Stream-step boundaries, references and deadlines. -/
theorem streamEvents : Claims.StreamEvents := by
  intro s t i lreg model m poison hp
  refine ⟨fun named inside => ⟨_, exec_streamStepBoundary_steps t poison hp named inside, fun k valid leaves pool => ?closed, fun class1 => ?class1⟩,
    exec_streamStepBoundary_elsewhere t poison, fun unloaded => ⟨_, exec_streamStepBoundary_unloaded t poison hp unloaded, fun k valid dropped pool => ?freed⟩,
    fun named valid due idle undone => ⟨fun torn bad => ⟨_, exec_streamResync hp named valid due idle undone, ?missed⟩,
      fun clean new finite => ⟨_, exec_streamResync hp named valid due idle undone, ?taken⟩⟩,
    fun k rest valid chunks unstarted late => exec_streamChunkDeadline_first hp valid chunks unstarted late, exec_streamChunkDeadline_none t⟩
  case closed =>
    have gone : ((s.advance t).strmEvents m).stream k = {} := State.strmEvents_closes valid leaves (pool.trans (State.strmModel_index named).symm)
    rw [State.stream_showStreams, State.boundarySamples_gone gone]
  case class1 => rw [State.boundarySamples, if_pos class1]
  case freed =>
    have listed : k ∈ ((s.advance t).poolStreams model).filter fun i => ((s.advance t).stream i).dropped :=
      List.mem_filter.2 ⟨pool ▸ State.mem_poolStreams (s := s.advance t) valid, dropped⟩
    rw [State.stream_showStreams, State.foldl_closes State.closeStream_others (fun u _ => u.stream_closeStream k) listed fun u _ => u.stream_closeStream k]
  case missed =>
    rw [if_neg (ne_true_of_eq_false (State.takesRef_eq_false bad)), State.stream_refMissed]
    exact ⟨rfl, rfl, rfl, rfl⟩
  case taken =>
    rw [if_pos (State.takesRef_eq_true clean new finite), State.stream_refTaken, State.resyncCnt_refTaken]
    exact ⟨rfl, rfl, rfl, rfl⟩

/-- Settles O24: its clauses are `streamSwaps` and `streamEvents`. -/
theorem streamSteps : Obligations.StreamSteps := ⟨streamSwaps, streamEvents⟩

end Sys2Proof.Machine
end

section
/-! PROOFS. The solver complex: what replies, signals, waits and events leave of it, and the start of a run (R190, R195, R196, R201, R207, R211, R214). -/
namespace Sys2Proof.Machine

/-! ## What the rest of the part leaves of the solver complex -/

@[simp] theorem State.slv_complete (s : State) (r : CmdRef) (st : Status) (res : List Word) (aux : Status) :
    (s.complete r st res aux).slv = s.slv := by
  obtain ⟨m, h⟩ := s.complete_frame r st res aux
  rw [h]

@[simp] theorem State.slv_raise (s : State) (code part detail : Nat) : (s.raise code part detail).slv = s.slv := by
  rw [(s.raise_frame code part detail).eq]

theorem State.slv_foldl_raise (code detail : Nat) (qs : List Nat) (s : State) :
    (qs.foldl (fun (s : State) q => s.raise code q detail) s).slv = s.slv :=
  (foldl_keeps SafeFrame _ SafeFrame.refl SafeFrame.trans (fun s q => s.raise_frame code q detail) qs s).eq ▸ rfl

@[simp] theorem State.slv_grants (s : State) (k : Nat) : (s.grants k).slv = s.slv := by
  obtain ⟨m, y, h⟩ := s.grants_frame k
  rw [h]

@[simp] theorem State.slv_signal (s : State) (k n : Nat) : (s.signal k n).1.slv = s.slv := by
  unfold State.signal
  dsimp only
  split
  · split
    · rfl
    · rw [State.slv_grants, State.setCounter_slv]
  · rfl
  · rfl

@[simp] theorem State.slv_expireWaits (s : State) (k : Nat) : (s.expireWaits k).slv = s.slv := by
  obtain ⟨m, y, h⟩ := s.expireWaits_frame k
  rw [h]

/-- A signal changes no problem slot, whatever it grants and whether or not it overflows its counter (R315, R321). -/
theorem State.slv_signalVid (s : State) (part vid cls : Nat) : (s.signalVid part vid cls).1.slv = s.slv := by
  unfold State.signalVid
  split
  · rfl
  · next m _ =>
    split
    · rfl
    · have signalled : ((s.expireWaits m.counter).signal m.counter 1).1.slv = s.slv := by rw [State.slv_signal, State.slv_expireWaits]
      dsimp only
      split
      · dsimp only
        split
        · rw [State.slv_raise, State.setCounter_slv, signalled]
        · rw [State.setCounter_slv, signalled]
      · exact signalled

/-- The withdrawal of a wait changes only the counters, their waits, and the replies to those that it lets through. -/
theorem State.dropMeasWait_frame (s : State) (slot : Nat) : ∃ m y, s.dropMeasWait slot = { s with cmd := m, sync := y } := by
  unfold State.dropMeasWait
  exact foldl_keeps (fun a b : State => ∃ m y, b = { a with cmd := m, sync := y }) State.grants (fun a => ⟨a.cmd, a.sync, rfl⟩)
    (fun _ _ _ ⟨_, _, h⟩ ⟨m, y, k⟩ => ⟨m, y, by rw [k, h]⟩) State.grants_frame _ _

/-- Problem slots are the solver complex's own. -/
theorem State.prob_of_slv {s u : State} (h : u.slv = s.slv) (k : Nat) : u.prob k = s.prob k := by
  rw [State.prob, h, State.prob]

@[simp] theorem State.prob_complete (s : State) (r : CmdRef) (st : Status) (res : List Word) (aux : Status) (k : Nat) :
    (s.complete r st res aux).prob k = s.prob k := State.prob_of_slv (s.slv_complete r st res aux) k

theorem State.begin_slv (s : State) (c : Nat) (p : Packet) (cls : Nat) : (s.begin_ c p cls).1.slv = s.slv := by
  rw [State.begin_eq]

@[simp] theorem State.begin_prob (s : State) (c : Nat) (p : Packet) (cls k : Nat) : (s.begin_ c p cls).1.prob k = s.prob k :=
  State.prob_of_slv (s.begin_slv c p cls) k

theorem State.begin_time (s : State) (c : Nat) (p : Packet) (cls : Nat) : (s.begin_ c p cls).1.time = s.time := by
  rw [State.begin_eq]

@[simp] theorem State.prob_advance (s : State) (t k : Nat) : (s.advance t).prob k = s.prob k := rfl

/-! ## The assembly engines -/

/-- A change of the solver complex alone. -/
def SlvFrame (s u : State) : Prop := u = { s with slv := u.slv }

theorem SlvFrame.trans {s t u : State} (h : SlvFrame s t) (k : SlvFrame t u) : SlvFrame s u := by
  unfold SlvFrame at *
  rw [k, h]

theorem State.setProb_frame (s : State) (slot : Nat) (x : Prob) : SlvFrame s (s.setProb slot x) := rfl

theorem State.runEngine_frame (s : State) (slot stop : Nat) : SlvFrame s (s.runEngine slot stop) := by
  unfold State.runEngine
  split <;> rfl

@[simp] theorem State.prob_runEngine (s : State) (slot stop k : Nat) : (s.runEngine slot stop).prob k = s.prob k := by
  unfold State.runEngine
  split <;> rfl

@[simp] theorem State.prob_stopEngine (s : State) (slot k : Nat) : (s.stopEngine slot).prob k = s.prob k := rfl

/-! ## What waits for a start (R201, R211, R214) -/

/-- The bank switch that waits for a start, with the kept factor ended where the matrix program reads what was written. -/
def Prob.banked (x : Prob) : Prob := match x.next with
  | none => x
  | some ps =>
    { x with active := ps, next := none, touched := [],
             kept := (if (paramsRead x.desc.matProg).any x.touched.contains then none else x.kept) }

theorem Prob.atStart_due {x : Prob} (due : x.resetDue = true) :
    x.atStart = { x.banked with store := x.banked.initStore, age := 0, kept := none, resetDue := false } := by
  cases next : x.next <;> simp only [Prob.atStart, Prob.banked, next, due, if_true]

theorem Prob.atStart_undue {x : Prob} (undue : x.resetDue = false) : x.atStart = x.banked := by
  cases next : x.next <;> simp [Prob.atStart, Prob.banked, next, undue]

theorem Prob.banked_fields (x : Prob) : x.banked.desc = x.desc ∧ x.banked.runs = x.runs ∧ x.banked.store = x.store ∧ x.banked.age = x.age ∧
    x.banked.active = x.next.getD x.active ∧ x.banked.next = none := by
  unfold Prob.banked
  cases next : x.next with
  | none => exact ⟨rfl, rfl, rfl, rfl, rfl, next⟩
  | some ps => exact ⟨rfl, rfl, rfl, rfl, rfl, rfl⟩

/-- What a start leaves of a problem, and the bank that it makes active. -/
theorem Prob.atStart_fields (x : Prob) : x.atStart.desc = x.desc ∧ x.atStart.runs = x.runs ∧
    x.atStart.active = x.next.getD x.active ∧ x.atStart.next = none := by
  obtain ⟨desc, runs, -, -, active, next⟩ := x.banked_fields
  cases due : x.resetDue with
  | false =>
    rw [Prob.atStart_undue due]
    exact ⟨desc, runs, active, next⟩
  | true =>
    rw [Prob.atStart_due due]
    exact ⟨desc, runs, active, next⟩

@[simp] theorem Prob.desc_atStart (x : Prob) : x.atStart.desc = x.desc := x.atStart_fields.1

@[simp] theorem Prob.runs_atStart (x : Prob) : x.atStart.runs = x.runs := x.atStart_fields.2.1

/-- A reset that waits takes the store back to X_INIT of the bank that the start has made active, and ends the kept factor. -/
theorem Prob.atStart_reset {x : Prob} (due : x.resetDue = true) :
    x.atStart.age = 0 ∧ x.atStart.kept = none ∧ x.atStart.resetDue = false ∧ x.atStart.store = x.atStart.initStore := by
  rw [Prob.atStart_due due]
  exact ⟨rfl, rfl, rfl, rfl⟩

theorem Prob.atStart_keeps {x : Prob} (undue : x.resetDue = false) : x.atStart.store = x.store ∧ x.atStart.age = x.age := by
  obtain ⟨-, -, store, age, -, -⟩ := x.banked_fields
  rw [Prob.atStart_undue undue]
  exact ⟨store, age⟩

/-! ## The start of a run (R190, R201) -/

/-- A run as it begins on a problem: whether the kept factor is reused, and when its matrix program ends. -/
def SlvRun.begun (r : SlvRun) (x : Prob) : SlvRun :=
  let keep := x.desc.keepFactor && x.kept.isSome
  { r with keep := keep, matEnd := (if keep then r.startT else r.startT + 2 * asmCycles x.desc.matProg) }

theorem SlvRun.matEnd_begun_fresh {r : SlvRun} {x : Prob} (fresh : (r.begun x).keep = false) :
    (r.begun x).matEnd = r.startT + 2 * asmCycles x.desc.matProg := if_neg (ne_true_of_eq_false fresh)

theorem SlvRun.matEnd_begun_kept {r : SlvRun} {x : Prob} (kept : (r.begun x).keep = true) : (r.begun x).matEnd = r.startT := if_pos kept

/-- A run begins: its assembly engine starts unless it reuses the kept factor. -/
theorem State.beginRun_eq (s : State) (slot : Nat) (x : Prob) (r : SlvRun) : s.beginRun slot x r =
    if (r.begun x).keep then s.setProb slot { x with run := some (r.begun x) }
    else (s.setProb slot { x with run := some (r.begun x) }).runEngine slot (r.startT + 2 * asmCycles x.desc.matProg) := rfl

@[simp] theorem State.prob_beginRun (s : State) (slot k : Nat) (x : Prob) (r : SlvRun) :
    (s.beginRun slot x r).prob k = if k = slot then { x with run := some (r.begun x) } else s.prob k := by
  rw [State.beginRun_eq]
  split
  · exact State.prob_setProb _ _ _ _
  · exact (State.prob_runEngine _ _ _ _).trans (State.prob_setProb _ _ _ _)

theorem State.beginRun_frame (s : State) (slot : Nat) (x : Prob) (r : SlvRun) : SlvFrame s (s.beginRun slot x r) := by
  rw [State.beginRun_eq]
  split
  · exact s.setProb_frame slot _
  · exact (s.setProb_frame slot _).trans (State.runEngine_frame _ _ _)

/-- A problem once a run of it has started. -/
def Prob.started (x : Prob) (r : SlvRun) : Prob :=
  { x.atStart with runs := x.runs + 1, run := some (r.begun x.atStart) }

/-- A run that starts in the present cycle, before it is known whether its matrix program runs. -/
def State.newRun (s : State) (entry : Option (Nat × Nat)) (cmd : Option CmdRef) (dl : DWord) : SlvRun :=
  { entry := entry, cmd := cmd, startT := cycStart s.time.cnt, matEnd := cycStart s.time.cnt, dl := dl }

theorem State.prob_startRun (s : State) (slot k : Nat) (entry : Option (Nat × Nat)) (cmd : Option CmdRef) (dl : DWord) :
    (s.startRun slot entry cmd dl).prob k = if k = slot then (s.prob slot).started (s.newRun entry cmd dl) else s.prob k := by
  rw [State.startRun, State.prob_beginRun, Prob.runs_atStart]
  rfl

theorem State.startRun_frame (s : State) (slot : Nat) (entry : Option (Nat × Nat)) (cmd : Option CmdRef) (dl : DWord) :
    SlvFrame s (s.startRun slot entry cmd dl) := State.beginRun_frame _ _ _ _

end Sys2Proof.Machine
end

section
/-! PROOFS. The solver commands (R196, R211 to R214). -/
namespace Sys2Proof.Machine

/-! ## A bank or a reset in the cycle of a start (R211) -/

theorem State.sameStart_apart {s : State} {slot : Nat} (apart : ¬Claims.StartsNow s (s.prob slot)) : s.sameStart slot = s := by
  unfold State.sameStart
  split
  · next r run => exact if_neg fun ⟨start, vec⟩ => apart ⟨r, run, start, vec⟩
  · rfl

theorem State.prob_sameStart {s : State} {slot : Nat} (now : Claims.StartsNow s (s.prob slot)) : ∃ r, ∀ k,
    (s.sameStart slot).prob k = if k = slot then { (s.prob slot).atStart with run := some r } else s.prob k := by
  obtain ⟨r, run, start, vec⟩ := now
  refine ⟨r.begun (s.prob slot).atStart, fun k => ?_⟩
  have eq : s.sameStart slot = (s.stopEngine slot).beginRun slot (s.prob slot).atStart r := by
    simp only [State.sameStart, run]
    exact if_pos ⟨start, vec⟩
  rw [eq, State.prob_beginRun, State.prob_stopEngine]

/-- A slot that a command sets to a problem, its run as it was: the cycle of a start acts on it at once, any other leaves it as it is set. -/
theorem State.sameStart_command_apart {s : State} {c k : Nat} {p : Packet} {y : Prob} (run : y.run = (s.prob k).run) (apart : ¬Claims.StartsNow s (s.prob k)) :
    ((s.begin_ c p (s.ctx c).cls).1.setProb k y).sameStart k = (s.begin_ c p (s.ctx c).cls).1.setProb k y := by
  refine State.sameStart_apart ?_
  rw [State.prob_setProb, if_pos rfl, Claims.StartsNow, State.setProb, State.begin_time, run]
  exact apart

theorem State.prob_command_now {s : State} {c k : Nat} {p : Packet} {y : Prob} (run : y.run = (s.prob k).run) (now : Claims.StartsNow s (s.prob k)) :
    ∃ r, ∀ j, (((s.begin_ c p (s.ctx c).cls).1.setProb k y).sameStart k).prob j = if j = k then { y.atStart with run := some r } else s.prob j := by
  have own : ((s.begin_ c p (s.ctx c).cls).1.setProb k y).prob k = y := by rw [State.prob_setProb, if_pos rfl]
  have now' : Claims.StartsNow ((s.begin_ c p (s.ctx c).cls).1.setProb k y) (((s.begin_ c p (s.ctx c).cls).1.setProb k y).prob k) := by
    rw [own, Claims.StartsNow, State.setProb, State.begin_time, run]
    exact now
  obtain ⟨r, at_⟩ := State.prob_sameStart now'
  refine ⟨r, fun j => ?_⟩
  rw [at_, own]
  split
  · rfl
  · next other => rw [State.prob_setProb, if_neg other, State.begin_prob]

/-! ## SLV_SOLVE (R196, R213) -/

/-- A measurement half with values written over it. -/
def Prob.measured (x : Prob) (old vals : List Word) : List Word := (List.range x.desc.measLen).map fun i => vals.getD i (old.getD i 0)

theorem State.prob_writeMeas {s : State} {slot : Nat} (apart : s.swapNow (s.prob slot) = false) (vals : List Word) (k : Nat) :
    (s.writeMeas slot vals).prob k =
      if k = slot then { s.prob slot with back := (s.prob slot).measured (s.prob slot).back vals } else s.prob k := by
  rw [State.writeMeas, State.prob_of_slv (State.slv_signalVid _ _ _ _), State.prob_setProb, if_neg (ne_true_of_eq_false apart)]
  rfl

section
variable {s : State} {c : Nat} {p : Packet}

/-- SLV_SOLVE, where the measurement halves do not swap in its cycle: its solve stands behind its slot, and what it brings in the back half. -/
theorem exec_slvSolve {d : List Byte} (starts : s.Starts c p 0x0801) (checked : chkSlvSolve s c p (.data d) = none)
    (apart : s.swapNow (s.prob (u8 p 16)) = false) :
    let x := s.prob (u8 p 16)
    ∃ u : State, exec (.slvSolve c p (.data d)) s = .next u ∧ ∀ j, u.prob j = if j = u8 p 16
      then { x with cmd := some ((s.begin_ c p (s.ctx c).cls).2, u64 p 32), back := x.measured x.back (leWords d (d.length / 4)) } else s.prob j := by
  intro x
  generalize hb : s.begin_ c p (s.ctx c).cls = b
  have time : b.1.time = s.time := hb ▸ s.begin_time c p _
  have probs (j : Nat) : b.1.prob j = s.prob j := hb ▸ s.begin_prob c p _ j
  set asked := b.1.setProb (u8 p 16) { x with cmd := some (b.2, u64 p 32) } with hasked
  have own : asked.prob (u8 p 16) = { x with cmd := some (b.2, u64 p 32) } := by rw [hasked, State.prob_setProb, if_pos rfl]
  have quiet : asked.swapNow (asked.prob (u8 p 16)) = false := by
    rw [own, hasked, State.swapNow, State.setProb, time]
    exact apart
  refine ⟨asked.writeMeas (u8 p 16) (leWords d (d.length / 4)), ?_, fun j => ?_⟩
  · simp only [exec, execSlvSolve, checked, State.command_starts starts, hb, probs]
    rfl
  · rw [State.prob_writeMeas quiet, own, hasked, State.prob_setProb, probs]
    split <;> rfl

/-! ## SLV_PARAM (R214) -/

/-- A parameter bank with `n` values written from index `first` on. -/
def writeBank (bank vals : List DWord) (first n : Nat) : List DWord :=
  List.foldl (fun b i => b.set (first + i) (vget vals i)) bank (List.range n)

theorem length_writeBank (bank vals : List DWord) (first n : Nat) : (writeBank bank vals first n).length = bank.length :=
  foldl_keeps (fun a b : List DWord => b.length = a.length) _ (fun _ => rfl) (fun _ _ _ h k => k.trans h) (fun _ _ => List.length_set) _ _

theorem getElem?_writeBank {bank : List DWord} {j : Nat} (vals : List DWord) (first n : Nat) (inside : j < bank.length) :
    (writeBank bank vals first n)[j]? = if first ≤ j ∧ j < first + n then some (vget vals (j - first)) else bank[j]? := by
  induction n with
  | zero => exact (if_neg (by omega)).symm
  | succ n ih =>
    have step : writeBank bank vals first (n + 1) = (writeBank bank vals first n).set (first + n) (vget vals n) := by
      rw [writeBank, List.range_succ, List.foldl_append]
      rfl
    rw [step, List.getElem?_set, length_writeBank, ih]
    by_cases last : first + n = j
    · subst last
      simp [inside]
    · have bound : j < first + (n + 1) ↔ j < first + n := by omega
      simp only [if_neg last, bound]

/-- A problem with a parameter bank that waits for its next start. -/
def Prob.banking (x : Prob) (p : Packet) (vals : List DWord) : Prob :=
  { x with next := some (writeBank (x.next.getD x.active) vals (u32 p 20) (u32 p 24)),
           touched := x.touched ++ ((List.range (u32 p 24)).map (u32 p 20 + ·)).filter fun i => !x.touched.contains i }

theorem Prob.run_banking (x : Prob) (p : Packet) (vals : List DWord) : (x.banking p vals).run = x.run := rfl

theorem exec_slvParam {d : List Byte} (starts : s.Starts c p 0x0802) (checked : chkSlvParam s c p (.data d) = none) :
    let b := s.begin_ c p (s.ctx c).cls
    exec (.slvParam c p (.data d)) s = .next
      (((b.1.setProb (u8 p 16) ((s.prob (u8 p 16)).banking p (hostF64 d (u32 p 24)))).sameStart (u8 p 16)).complete b.2 stOk []) := by
  simp only [exec, execSlvParam, checked, State.command_starts starts, State.begin_prob]
  rfl

/-! ## SLV_QUERY and SLV_RESET (R213, R214) -/

theorem exec_slvQuery (starts : s.Starts c p 0x0803) (checked : chkProb s c p = none) :
    let b := s.begin_ c p (s.ctx c).cls
    exec (.slvQuery c p) s = .next (b.1.complete b.2 stOk (leWords (s.prob (u8 p 16)).record 2 ++ [(s.prob (u8 p 16)).runs])) := by
  simp only [exec, execSlvQuery, checked, State.command_starts starts, State.begin_prob, State.replyNow]

theorem exec_slvReset (starts : s.Starts c p 0x0804) (checked : chkProb s c p = none) :
    let b := s.begin_ c p (s.ctx c).cls
    exec (.slvReset c p) s = .next
      (((b.1.setProb (u8 p 16) { s.prob (u8 p 16) with resetDue := true }).sameStart (u8 p 16)).complete b.2 stOk []) := by
  simp only [exec, execSlvReset, checked, State.command_starts starts, State.begin_prob, State.replyNow]

end

/-! ## The claim -/

/-- Solver commands: a bank and a reset act at once in the cycle of a start (`State.prob_command_now`), and wait in any other. -/
theorem solverCommands : Claims.SolverCommands := by
  intro s c p k x b
  refine ⟨fun d starts checked apart => ?solve,
    fun d starts checked => ⟨_, writeBank (x.next.getD x.active) (hostF64 d (u32 p 24)) (u32 p 20) (u32 p 24), exec_slvParam starts checked,
      length_writeBank _ _ _ _, fun j inside => getElem?_writeBank _ _ _ (length_writeBank _ _ _ _ ▸ inside), fun apart => ?banked, fun now => ?taken, ?others⟩,
    exec_slvQuery, fun starts checked => ⟨fun apart => (exec_slvReset starts checked).trans ?waits, fun now => ⟨_, exec_slvReset starts checked, ?reset⟩⟩⟩
  case solve =>
    obtain ⟨u, step, at_⟩ := exec_slvSolve starts checked apart
    refine ⟨u, step, ?_⟩
    rw [at_ k, if_pos rfl]
    exact ⟨rfl, rfl, rfl, rfl, fun j other => (at_ j).trans (if_neg other)⟩
  case banked =>
    rw [State.prob_complete, State.sameStart_command_apart (Prob.run_banking _ _ _) apart, State.prob_setProb, if_pos rfl]
    exact ⟨rfl, rfl, rfl⟩
  case taken =>
    obtain ⟨r, at_⟩ := State.prob_command_now (c := c) (p := p) (x.run_banking p (hostF64 d (u32 p 24))) now
    obtain ⟨-, runs, active, next⟩ := (x.banking p (hostF64 d (u32 p 24))).atStart_fields
    rw [State.prob_complete, at_, if_pos rfl]
    exact ⟨next, active, runs⟩
  case others =>
    intro j other
    rw [State.prob_complete]
    by_cases now : Claims.StartsNow s x
    · obtain ⟨r, at_⟩ := State.prob_command_now (c := c) (p := p) (x.run_banking p (hostF64 d (u32 p 24))) now
      rw [at_, if_neg other]
    · rw [State.sameStart_command_apart (Prob.run_banking _ _ _) now, State.prob_setProb, if_neg other, State.begin_prob]
  case waits => exact congrArg (fun u : State => Host.Outcome.next (u.complete b.2 stOk [])) (State.sameStart_command_apart rfl apart)
  case reset =>
    obtain ⟨r, at_⟩ := State.prob_command_now (c := c) (p := p) (y := { x with resetDue := true }) rfl now
    obtain ⟨age, kept, due, store⟩ := Prob.atStart_reset (x := { x with resetDue := true }) rfl
    rw [State.prob_complete, at_, if_pos rfl]
    exact ⟨age, kept, due, store, fun j other => ((State.prob_complete _ _ _ _ _ _).trans (at_ j)).trans (if_neg other)⟩

end Sys2Proof.Machine
end

section
/-! PROOFS. The start of a run: a SLV_SOLVE in its window, and a SOLVE entry (R190, R203, R205, R213, R272). -/
namespace Sys2Proof.Machine

/-! ## SOLVER_RUN_START (R190, R213) -/

section
variable {s : State} (t : Nat) {k : Nat}

theorem exec_solverRunStart {r : CmdRef} {a : Nat} (hp : s.powered = true) (cmd : (s.prob k).cmd = some (r, a)) (idle : (s.prob k).run = none)
    (lanes : s.lanesIdle k = true) (window : (s.advance t).inLaneWin k = true) (slice : (s.advance t).sliceOpen (s.prob k).desc.part = true) :
    exec (.solverRunStart t k) s = .next ((s.advance t).startRun k none (some r) r.deadline) := by
  have lanes' : (s.advance t).lanesIdle k = true := lanes
  simp [exec, execSolverRunStart, cmd, hp, idle, lanes', window, slice]

/-- A solve waits while a lane of its problem is in use, its window is shut or no slice of its partition is open. -/
theorem exec_solverRunStart_waits
    (shut : s.lanesIdle k = false ∨ (s.advance t).inLaneWin k = false ∨ (s.advance t).sliceOpen (s.prob k).desc.part = false) :
    exec (.solverRunStart t k) s = .next (s.advance t) := by
  have go : ((s.advance t).powered && (s.prob k).run.isNone && (s.advance t).lanesIdle k && (s.advance t).inLaneWin k &&
      (s.advance t).sliceOpen (s.prob k).desc.part) = false := by
    rcases shut with lanes | window | slice
    · have lanes' : (s.advance t).lanesIdle k = false := lanes
      simp [lanes']
    · simp [window]
    · simp [slice]
  simp only [exec, execSolverRunStart, State.prob_advance, go]
  cases (s.prob k).cmd <;> rfl

end

/-! ## SOLVE entries (R205, R272) -/

/-- The mark of an entry that has fired changes no phase. -/
theorem State.phase_markFired (s : State) (d i q n : Nat) : ((s.markFired d i).dom q).phase n = (s.dom q).phase n := by
  rw [State.markFired, State.dom_setDom]
  split
  · next h => rw [h]; rfl
  · rfl

theorem State.base_markFired (s : State) (d i : Nat) : ((s.markFired d i).dom d).active.base = (s.dom d).active.base := by
  rw [State.markFired, State.dom_setDom, if_pos rfl]

theorem State.mem_fired_markFired (s : State) (d i : Nat) : i ∈ ((s.markFired d i).dom d).fired := by
  rw [State.markFired, State.dom_setDom, if_pos rfl]
  exact List.mem_append_right _ (List.mem_singleton_self i)

/-- The mark of an entry that has fired changes neither whether its partition is drained nor what goes on in its pool. -/
theorem State.entryDrained_markFired (s : State) (d i : Nat) (e : Entry) : (s.markFired d i).entryDrained d e = s.entryDrained d e := by
  have pcount : ((s.markFired d i).dom d).pcount = (s.dom d).pcount := by rw [State.markFired, State.dom_setDom, if_pos rfl]
  rw [State.entryDrained, pcount]
  rfl

theorem State.startedOf_markFired (s : State) (d i : Nat) : (s.markFired d i).startedOf d i = s.startedOf d i := by
  rw [State.startedOf, State.base_markFired]
  rfl

/-- An entry of a partition in service that fires and does not go on already starts its work. -/
theorem State.fireStart_starts {s : State} {d i action : Nat} {e : Entry} (fires : s.fires d i action = some e) (served : s.entryDrained d e = false)
    (fresh : s.startedOf d i = none) (start : State → Entry → State) :
    s.fireStart d i action start = start ((s.markFired d i).startEntry d i e) e := by
  simp [State.fireStart, fires, State.entryDrained_markFired, served, State.startedOf_markFired, fresh]

theorem stampPhase_stamp (s : State) (d : Nat) : stampPhase (s.stamp d) = (s.dom d).phase s.time.cnt := by
  apply BitVec.eq_of_toNat_eq
  have small := ((s.dom d).phase s.time.cnt).isLt
  simp only [stampPhase, State.stamp, BitVec.toNat_ofNat]
  omega

/-- A stamp with its phase replaced. -/
theorem stampPhase_replaced (high : Nat) (w : Word) : stampPhase (BitVec.ofNat 64 (high * 2 ^ 32 + w.toNat)) = w := by
  apply BitVec.eq_of_toNat_eq
  have small := w.isLt
  simp only [stampPhase, BitVec.toNat_ofNat]
  omega

/-- The deadline of a class 1 problem that starts: DL_OFFSET after the phase of its domain. -/
def State.entryDeadline (s : State) (x : Prob) : DWord :=
  BitVec.ofNat 64 ((s.stamp x.desc.domain).toNat / 2 ^ 32 * 2 ^ 32 + (stampPhase (s.stamp x.desc.domain) + w32 x.desc.dlOffset).toNat)

theorem State.stampPhase_entryDeadline (s : State) (x : Prob) :
    stampPhase (s.entryDeadline x) = (s.dom x.desc.domain).phase s.time.cnt + w32 x.desc.dlOffset := by
  rw [State.entryDeadline, stampPhase_replaced, stampPhase_stamp]

/-- What a SOLVE entry that fires does. -/
def State.startSolve (d e : Nat) (s : State) (en : Entry) : State :=
  let x := s.prob en.target
  if !x.valid || x.desc.cls != 1 || x.run.isSome || !s.lanesIdle en.target then s.finishNow d e stBadParam
  else s.startRun en.target (some (d, (s.dom d).active.base + e)) none (s.entryDeadline x)

theorem exec_solve_eq (s : State) (t d e : Nat) : exec (.solve t d e) s = .next ((s.advance t).fireStart d e 2 (State.startSolve d e)) := rfl

theorem State.startSolve_starts {s : State} {en : Entry} (d e : Nat) (valid : (s.prob en.target).valid = true) (class1 : (s.prob en.target).desc.cls = 1)
    (idle : (s.prob en.target).run = none) (lanes : s.lanesIdle en.target = true) : State.startSolve d e s en =
      s.startRun en.target (some (d, (s.dom d).active.base + e)) none (s.entryDeadline (s.prob en.target)) := by
  simp [State.startSolve, valid, class1, idle, lanes]

/-- An entry that has fired and goes on. -/
def State.entryGoing (s : State) (d i : Nat) (e : Entry) : State := (s.markFired d i).startEntry d i e

theorem exec_solve {s : State} {t d e : Nat} {en : Entry} (fires : (s.advance t).fires d e 2 = some en) (served : (s.advance t).entryDrained d en = false)
    (fresh : (s.advance t).startedOf d e = none) (valid : (s.prob en.target).valid = true) (class1 : (s.prob en.target).desc.cls = 1)
    (idle : (s.prob en.target).run = none) (lanes : s.lanesIdle en.target = true) :
    let u := (s.advance t).entryGoing d e en
    exec (.solve t d e) s = .next (u.startRun en.target (some (d, (s.dom d).active.base + e)) none (u.entryDeadline (s.prob en.target))) := by
  intro u
  have base : (u.dom d).active.base = (s.dom d).active.base := State.base_markFired _ _ _
  rw [exec_solve_eq, State.fireStart_starts fires served fresh, ← base]
  exact congrArg _ (State.startSolve_starts (s := u) d e valid class1 idle lanes)

/-! ## The claim -/

/-- The start of a run: what waits for it takes effect (`Prob.atStart_reset`, `Prob.atStart_keeps`), and its deadline is that of its command or
DL_OFFSET behind the phase (`State.stampPhase_entryDeadline`). -/
theorem solverStarts : Claims.SolverStarts := by
  intro s t
  refine ⟨fun k r a hp cmd idle lanes window slice => ⟨_, ((s.advance t).newRun none (some r) r.deadline).begun (s.prob k).atStart,
      exec_solverRunStart t hp cmd idle lanes window slice, ?_⟩,
    fun k => exec_solverRunStart_waits t, fun d e en fires served fresh valid class1 idle lanes =>
      let u := (s.advance t).entryGoing d e en
      ⟨_, (u.newRun (some (d, (s.dom d).active.base + e)) none (u.entryDeadline (s.prob en.target))).begun (s.prob en.target).atStart,
        exec_solve fires served fresh valid class1 idle lanes, ?_⟩⟩
  · have at_ := (s.advance t).prob_startRun k
    obtain ⟨-, -, active, next⟩ := (s.prob k).atStart_fields
    have matProg : (s.prob k).atStart.desc.matProg = (s.prob k).desc.matProg := congrArg ProbDesc.matProg (s.prob k).desc_atStart
    rw [at_, if_pos rfl]
    refine ⟨rfl, rfl, rfl, rfl, fun fresh => ?_, SlvRun.matEnd_begun_kept, rfl, active, next, fun due => ?_, fun undue => ?_, fun j other => ?_,
      State.startRun_frame _ _ _ _ _⟩
    · rw [SlvRun.matEnd_begun_fresh fresh, matProg]; rfl
    · exact Prob.atStart_reset due
    · exact Prob.atStart_keeps undue
    · rw [at_, if_neg other, State.prob_advance]
  · set u := (s.advance t).entryGoing d e en with hu
    have frame := u.startRun_frame en.target (some (d, (s.dom d).active.base + e)) none (u.entryDeadline (s.prob en.target))
    rw [State.prob_startRun, if_pos rfl]
    refine ⟨rfl, rfl, ?_, rfl, ?_, ?_⟩
    · refine (u.stampPhase_entryDeadline _).trans ?_
      rw [hu]
      exact congrArg (· + _) (State.phase_markFired _ _ _ _ _)
    · rw [frame]
      exact State.mem_fired_markFired _ _ _
    · rw [frame]
      rfl

/-- Settles O25: its clauses are `solverCommands` and `solverStarts`. -/
theorem solverRuns : Obligations.SolverRuns := ⟨solverCommands, solverStarts⟩

end Sys2Proof.Machine
end

section
/-! PROOFS. The vector program of a run and its measurement signal (R196, R209, R315). -/
namespace Sys2Proof.Machine

/-! ## Its start -/

/-- A problem whose vector program starts: the measurement halves swap. -/
def Prob.vectored (x : Prob) (r : SlvRun) (n : Nat) : Prob :=
  { x with front := x.back, back := x.front, run := some { r with vecT := some n, waiting := false } }

theorem State.startVector_eq (s : State) (slot : Nat) (r : SlvRun) : s.startVector slot r =
    (s.setProb slot ((s.prob slot).vectored r s.time.cnt)).runEngine slot (cycStart s.time.cnt + 2 * asmCycles (s.prob slot).desc.vecProg) := rfl

theorem State.prob_startVector (s : State) (slot : Nat) (r : SlvRun) :
    (s.startVector slot r).prob slot = (s.prob slot).vectored r s.time.cnt := by
  rw [State.startVector_eq, State.prob_runEngine, State.prob_setProb, if_pos rfl]

theorem State.startVector_frame (s : State) (slot : Nat) (r : SlvRun) : SlvFrame s (s.startVector slot r) :=
  (s.setProb_frame slot _).trans (State.runEngine_frame _ _ _)

/-- One taken from a counter. -/
def State.takeOne (s : State) (k : Nat) : State := s.setCounter k { s.counter k with value := (s.counter k).value - 1 }

theorem State.counter_takeOne (s : State) (k : Nat) : (s.takeOne k).counter k = { s.counter k with value := (s.counter k).value - 1 } := by
  rw [State.takeOne, State.counter_setCounter, if_pos rfl]

/-- A grant that waited, used. -/
def State.useGrant (s : State) (slot : Nat) : State := { s with sync := { s.sync with granted := s.sync.granted.erase slot } }

/-- A run whose measurement signal has to wait. -/
def State.awaitMeas (s : State) (slot : Nat) (r : SlvRun) (m : VidMap) : State :=
  (s.register m.counter 1 (r.waitRank slot) (.solver slot)).setProb slot { s.prob slot with run := some { r with waiting := true } }

/-- The start of a vector program by what its measurement signal answers. -/
def State.vectorOr (s : State) (slot : Nat) (r : SlvRun) : State :=
  match s.imageVid (s.prob slot).desc.part (s.prob slot).desc.measSync with
  | none => s.startVector slot r
  | some m =>
    if s.sync.granted.contains slot then (s.useGrant slot).startVector slot r
    else if s.measReady slot then (s.takeOne m.counter).startVector slot r
    else if r.waiting then s else s.awaitMeas slot r m

section
variable {s : State} {t k : Nat} {r : SlvRun}

/-- Whether a vector program may not start yet, or never will. -/
def State.vectorHeld (s : State) (x : Prob) (r : SlvRun) : Bool :=
  !s.powered || r.vecT.isSome || s.time.cnt < r.matEnd || (x.matBad r).isSome

theorem exec_vectorProgramStart_eq (run : (s.prob k).run = some r) : exec (.vectorProgramStart t k) s =
    .next (if (s.advance t).vectorHeld (s.prob k) r then s.advance t else (s.advance t).vectorOr k r) := by
  simp only [exec, execVectorProgramStart, State.prob_advance, run]
  rfl

theorem exec_vectorProgramStart (hp : s.powered = true) (run : (s.prob k).run = some r) (unstarted : r.vecT = none)
    (ended : r.matEnd ≤ max s.time.cnt t) (good : (s.prob k).matBad r = none) :
    exec (.vectorProgramStart t k) s = .next ((s.advance t).vectorOr k r) := by
  have free : ¬ (s.advance t).vectorHeld (s.prob k) r = true := by
    simp only [State.vectorHeld, State.advance_powered, State.advance_cnt, hp, unstarted, good, Nat.not_lt.2 ended]
    decide
  rw [exec_vectorProgramStart_eq run, if_neg free]

theorem exec_vectorProgramStart_waits (run : (s.prob k).run = some r) (early : max s.time.cnt t < r.matEnd ∨ (s.prob k).matBad r ≠ none) :
    exec (.vectorProgramStart t k) s = .next (s.advance t) := by
  have held : (s.advance t).vectorHeld (s.prob k) r = true := by
    unfold State.vectorHeld
    rcases early with early | bad
    · simp [-lt_sup_iff, -sup_lt_iff, early]
    · simp [Option.isSome_iff_ne_none.2 bad]
  rw [exec_vectorProgramStart_eq run, if_pos held]

end

section
variable {s : State} {k : Nat} {v : VidMap} (r : SlvRun) (named : s.imageVid (s.prob k).desc.part (s.prob k).desc.measSync = some v)
include named

theorem State.vectorOr_granted (granted : k ∈ s.sync.granted) : s.vectorOr k r = (s.useGrant k).startVector k r := by
  simp [State.vectorOr, named, granted]

/-- A counter that can pay, with nothing before the run in its queue, lets it start. -/
theorem State.measReady_of_pays (pays : 1 ≤ (s.counter v.counter).value) (first : ∀ w ∈ s.sync.waits, w.counter ≠ v.counter) : s.measReady k = true := by
  have none_ : (s.sync.waits.any fun w => w.counter == v.counter) = false := by simpa using first
  simp [State.measReady, named, pays, none_]

theorem State.measReady_of_short (ungranted : k ∉ s.sync.granted) (short : (s.counter v.counter).value < 1) : s.measReady k = false := by
  have broke : (s.counter v.counter).value = 0 := by omega
  simp [State.measReady, named, ungranted, broke]

theorem State.vectorOr_pays (ungranted : k ∉ s.sync.granted) (ready : s.measReady k = true) :
    s.vectorOr k r = (s.takeOne v.counter).startVector k r := by
  simp [State.vectorOr, named, ungranted, ready]

theorem State.vectorOr_awaits {r : SlvRun} (ungranted : k ∉ s.sync.granted) (unready : s.measReady k = false) (fresh : r.waiting = false) :
    s.vectorOr k r = s.awaitMeas k r v := by
  simp [State.vectorOr, named, ungranted, unready, fresh]

end

theorem State.counter_startVector (s : State) (slot : Nat) (r : SlvRun) (j : Nat) : (s.startVector slot r).counter j = s.counter j := by
  rw [s.startVector_frame slot r]
  rfl

theorem State.prob_awaitMeas (s : State) (slot : Nat) (r : SlvRun) (m : VidMap) :
    (s.awaitMeas slot r m).prob slot = { s.prob slot with run := some { r with waiting := true } } := by
  rw [State.awaitMeas, State.prob_setProb, if_pos rfl]

end Sys2Proof.Machine
end

section
/-! PROOFS. The end of a run (R198, R201, R204 to R210): its output on its way, fresh and stale results, factors taken, and uncorrectable errors. -/
namespace Sys2Proof.Machine

/-! ## A run that is over (R204, R210) -/

/-- The output record of a run that ends. -/
def State.outOf (s : State) (x : Prob) (r : SlvRun) (record : List Byte) (vals : List DWord) : SlvOut :=
  { outT := cycStart s.time.cnt + 2 * tOut x.desc.n, entry := r.entry, cmd := (if r.cmd.isSome then x.cmd else none),
    record := record, vals := vals.map f64ToF32 }

/-- A problem whose run is over. -/
def State.over (s : State) (x : Prob) (r : SlvRun) (record : List Byte) (vals : List DWord) : Prob :=
  { x with run := none, outs := x.outs ++ [s.outOf x r record vals] }

theorem State.putOut_eq (s : State) (slot : Nat) (x : Prob) (r : SlvRun) (record : List Byte) (vals : List DWord) :
    s.putOut slot x r record vals = ((s.stopEngine slot).setProb slot (s.over x r record vals)).dropMeasWait slot := rfl

theorem State.slv_putOut (s : State) (slot : Nat) (x : Prob) (r : SlvRun) (record : List Byte) (vals : List DWord) :
    (s.putOut slot x r record vals).slv = ((s.stopEngine slot).setProb slot (s.over x r record vals)).slv := by
  obtain ⟨m, y, h⟩ := ((s.stopEngine slot).setProb slot (s.over x r record vals)).dropMeasWait_frame slot
  rw [State.putOut_eq, h]

theorem State.safe_putOut (s : State) (slot : Nat) (x : Prob) (r : SlvRun) (record : List Byte) (vals : List DWord) :
    (s.putOut slot x r record vals).safe = s.safe := by
  obtain ⟨m, y, h⟩ := ((s.stopEngine slot).setProb slot (s.over x r record vals)).dropMeasWait_frame slot
  rw [State.putOut_eq, h]
  rfl

theorem State.prob_putOut (s : State) (slot : Nat) (x : Prob) (r : SlvRun) (record : List Byte) (vals : List DWord) :
    (s.putOut slot x r record vals).prob slot = s.over x r record vals := by
  rw [State.prob_of_slv (s.slv_putOut slot x r record vals), State.prob_setProb, if_pos rfl]

/-! ## Stale results (R207, R208) -/

/-- The age of the store after a stale result. -/
def Prob.staleAge (x : Prob) : Nat := min (x.age + 1) 255

/-- A problem whose store is shifted. -/
def Prob.shifted (x : Prob) : Prob := { x with store := shiftStore x.desc x.store, age := x.staleAge }

/-- The record of a stale result. -/
def Prob.staleRecord (x : Prob) (reason reg steps : Nat) : List Byte :=
  slvRecord (if x.staleAge ≥ x.desc.staleLimit then stDeadline else stStaleShifted) x.staleAge reason reg steps x.runs 0x7F800000

/-- The counters that a stale result moves, by its reason. -/
def Solver.staleCounted (v : Solver) (reason : Nat) : Solver := { v with
  staleCnt := satInc v.staleCnt
  nonfinite := (if reason = 2 then satInc v.nonfinite else v.nonfinite)
  measLate := (if reason = 4 then satInc v.measLate else v.measLate) }

/-- A stale result, but for a DEADLINE_MISS that it may be. -/
def State.putStale (s : State) (slot : Nat) (r : SlvRun) (reason reg steps : Nat) : State :=
  ({ s with slv := s.slv.staleCounted reason } : State).putOut slot (s.prob slot).shifted r ((s.prob slot).staleRecord reason reg steps)
    (shiftStore (s.prob slot).desc (s.prob slot).store)

/-- A missed deadline, counted and reported. -/
def State.countMiss (s : State) (part slot : Nat) : State :=
  ({ s with slv := { s.slv with missCnt := satInc s.slv.missCnt } } : State).raise 0x04 part slot

theorem State.endStale_eq (s : State) (slot : Nat) (r : SlvRun) (reason reg steps : Nat) : s.endStale slot r reason reg steps =
    if (s.prob slot).age < (s.prob slot).desc.staleLimit ∧ (s.prob slot).desc.staleLimit ≤ (s.prob slot).staleAge
    then (s.putStale slot r reason reg steps).countMiss (s.prob slot).desc.part slot else s.putStale slot r reason reg steps := rfl

/-- What a stale result leaves of its slot: the run is over, the store shifted and older by one. -/
theorem State.prob_endStale (s : State) (slot : Nat) (r : SlvRun) (reason reg steps : Nat) : (s.endStale slot r reason reg steps).prob slot =
    s.over (s.prob slot).shifted r ((s.prob slot).staleRecord reason reg steps) (shiftStore (s.prob slot).desc (s.prob slot).store) := by
  rw [State.endStale_eq]
  split
  · exact (State.prob_of_slv (State.slv_raise _ _ _ _) slot).trans (State.prob_putOut _ _ _ _ _ _)
  · exact State.prob_putOut _ _ _ _ _ _

section
variable (s : State) (slot : Nat) (r : SlvRun) (reason reg steps : Nat)

/-- The counters of the solver complex after a stale result. -/
theorem State.counts_endStale : let v := (s.endStale slot r reason reg steps).slv
    v.laneFault = s.slv.laneFault ∧ v.staleCnt = satInc s.slv.staleCnt ∧
    v.nonfinite = (if reason = 2 then satInc s.slv.nonfinite else s.slv.nonfinite) ∧
    v.measLate = (if reason = 4 then satInc s.slv.measLate else s.slv.measLate) := by
  rw [State.endStale_eq]
  split
  · rw [State.countMiss, State.slv_raise, State.putStale, State.slv_putOut]
    exact ⟨rfl, rfl, rfl, rfl⟩
  · rw [State.putStale, State.slv_putOut]
    exact ⟨rfl, rfl, rfl, rfl⟩

theorem State.missCnt_endStale_young (young : (s.prob slot).age + 1 < (s.prob slot).desc.staleLimit) :
    (s.endStale slot r reason reg steps).slv.missCnt = s.slv.missCnt := by
  have within : ¬((s.prob slot).age < (s.prob slot).desc.staleLimit ∧ (s.prob slot).desc.staleLimit ≤ (s.prob slot).staleAge) := by
    rw [Prob.staleAge]
    omega
  rw [State.endStale_eq, if_neg within, State.putStale, State.slv_putOut]
  rfl

theorem State.missCnt_endStale_old (was : (s.prob slot).age < (s.prob slot).desc.staleLimit) (is : (s.prob slot).desc.staleLimit ≤ (s.prob slot).staleAge) :
    (s.endStale slot r reason reg steps).slv.missCnt = satInc s.slv.missCnt := by
  rw [State.endStale_eq, if_pos ⟨was, is⟩, State.countMiss, State.slv_raise, State.putStale, State.slv_putOut]
  rfl

end

/-! ## Factors that a run has made (R198, R199, R201) -/

/-- What taking a factor leaves: of the solver complex only its own counters move, and of its slot only the kept factor. -/
structure FactorTaken (slot : Nat) (s u : State) : Prop where
  rest  : SlvFrame s u
  prob  : ∃ f, u.prob slot = { s.prob slot with kept := f }
  fault : u.slv.laneFault = s.slv.laneFault
  stale : u.slv.staleCnt = s.slv.staleCnt
  miss  : u.slv.missCnt = s.slv.missCnt

/-- A state whose solver complex differs only in the counts of capped solves and replaced pivots has taken no factor into its slot. -/
theorem FactorTaken.of_counts (slot : Nat) (s : State) (caps regs : Word) :
    FactorTaken slot s { s with slv := { s.slv with refcapCnt := caps, regCnt := regs } } := ⟨rfl, ⟨(s.prob slot).kept, rfl⟩, rfl, rfl, rfl⟩

theorem FactorTaken.of_kept (slot : Nat) (s : State) (caps regs : Word) (k : KeptFactor) : FactorTaken slot s
    (({ s with slv := { s.slv with refcapCnt := caps, regCnt := regs } } : State).setProb slot { s.prob slot with kept := some k }) :=
  ⟨rfl, ⟨some k, by rw [State.prob_setProb, if_pos rfl]⟩, rfl, rfl, rfl⟩

theorem State.takeFactor_taken (s : State) (slot : Nat) (r : SlvRun) (plan : Option SlvPlan) (ecc : Bool) :
    FactorTaken slot s (s.takeFactor slot r plan ecc).1 := by
  unfold State.takeFactor
  cases plan with
  | none => exact .of_counts slot s s.slv.refcapCnt s.slv.regCnt
  | some p =>
    dsimp only
    cases p.made with
    | none => exact .of_counts slot s _ s.slv.regCnt
    | some k =>
      dsimp only
      split
      · exact .of_counts slot s _ s.slv.regCnt
      · dsimp only
        split
        · exact .of_kept slot s _ _ k
        · exact .of_counts slot s _ _

/-! ## Fresh results (R204) -/

/-- A problem with a fresh result in its store. -/
def Prob.refreshed (x : Prob) (i : Iterate) : Prob := { x with store := i.x, age := 0 }

/-- The record of a fresh result. -/
def Prob.freshRecord (x : Prob) (i : Iterate) (reg : Nat) : List Byte :=
  slvRecord (if reg > 0 then stRegularised else stOk) 0 (if i.capped then 6 else 0) reg i.steps x.runs (f64ToF32 i.resid)

theorem State.endFresh_eq (s : State) (slot : Nat) (r : SlvRun) (i : Iterate) (reg : Nat) :
    s.endFresh slot r i reg = s.putOut slot ((s.prob slot).refreshed i) r ((s.prob slot).freshRecord i reg) i.x := rfl

/-- A run whose last iterate is acceptable ends with it. -/
theorem State.completeRun_fresh {s : State} {p : SlvPlan} {tk : Nat} {i : Iterate} (slot : Nat) (r : SlvRun) (good : p.bad = none)
    (last : p.its.getLast? = some (tk, i)) (ok : i.ok = true) : s.completeRun slot r p =
      (s.takeFactor slot r (some p) false).1.endFresh slot r i (s.takeFactor slot r (some p) false).2 := by
  simp [State.completeRun, good, last, ok]

/-! ## Lane errors (R209, R371) -/

/-- What a table holds at a key after a map over it, where that is not the default. -/
theorem tblGet_tblMap {α : Type} [DecidableEq α] {d : α} {f : Nat → α → α} {t : Tbl α} {n : Nat} (keeps : f n d = d) (filled : f n (tblGet d t n) ≠ d) :
    tblGet d (tblMap d f t) n = f n (tblGet d t n) := by
  induction t with
  | nil => exact absurd keeps filled
  | cons e rest ih =>
    obtain ⟨k, v⟩ := e
    by_cases eq : k = n
    · subst eq
      rw [tblGet, if_pos rfl] at filled ⊢
      rw [tblMap, if_neg filled, tblGet, if_pos rfl]
    · rw [tblGet, if_neg eq] at filled ⊢
      rw [tblMap]
      split
      · exact ih filled
      · rw [tblGet, if_neg eq, ih filled]

theorem State.prob_dropKept {s : State} {k : Nat} {r : SlvRun} {lanes : Word} (run : (s.prob k).run = some r)
    (hit : lanesOf (s.prob k).desc &&& lanes ≠ 0) : (s.dropKept lanes).prob k = { s.prob k with kept := none } := by
  have one : (fun (_ : Nat) (x : Prob) => if lanesOf x.desc &&& lanes = 0 then x else { x with kept := none }) k (s.prob k) =
      { s.prob k with kept := none } := if_neg hit
  refine (tblGet_tblMap ?_ ?_).trans one
  · dsimp only
    split <;> rfl
  · intro free
    have idle : (s.prob k).run = none := congrArg Prob.run (one.symm.trans free)
    rw [run] at idle
    cases idle

/-- The lanes of a problem: one, or two next to each other. -/
theorem lanesOf_eq (d : ProbDesc) : lanesOf d = w32 ((if d.pair then 3 else 1) * 2 ^ d.lane) := by
  rw [lanesOf]
  cases d.pair with
  | false => simp [bitAt]
  | true =>
    rw [bitAt, if_pos rfl, if_pos rfl]
    congr 1
    omega

theorem getLsbD_w32_two_pow {m : Nat} (word : m < 32) : (w32 (2 ^ m)).getLsbD m = true := by
  rw [w32, BitVec.getLsbD_ofNat, Nat.testBit_two_pow_self, Bool.and_true]
  exact decide_eq_true word

/-- The lane of an error lies among those of the problem. -/
theorem lanesOf_hit {d : ProbDesc} (low : d.lane < 31) (second : Bool) : lanesOf d &&& w32 (2 ^ (d.lane + bitAt (second && d.pair) 0)) ≠ 0 := by
  have inside : bitAt (second && d.pair) 0 < 2 := by cases second <;> cases d.pair <;> decide
  have mine : Nat.testBit (if d.pair then 3 else 1) (bitAt (second && d.pair) 0) = true := by cases second <;> cases d.pair <;> decide
  generalize bitAt (second && d.pair) 0 = j at inside mine
  have word : d.lane + j < 32 := by omega
  have own : (lanesOf d).getLsbD (d.lane + j) = true := by
    rw [lanesOf_eq, w32, BitVec.getLsbD_ofNat, Nat.testBit_mul_two_pow, Nat.add_sub_cancel_left, mine]
    simp [word]
  intro apart
  have bit := congrArg (fun w : Word => w.getLsbD (d.lane + j)) apart
  simp [-BitVec.ofNat_eq_ofNat, BitVec.getLsbD_and, own, getLsbD_w32_two_pow word] at bit

/-- The uncorrectable error of a lane recorded, with the kept factors in it ended. -/
def State.laneMarked (s : State) (lanes : Word) : State :=
  { s.dropKept lanes with slv := { (s.dropKept lanes).slv with laneFault := (s.dropKept lanes).slv.laneFault ||| lanes } }

theorem State.prob_laneMarked {s : State} {k : Nat} {r : SlvRun} {lanes : Word} (run : (s.prob k).run = some r)
    (hit : lanesOf (s.prob k).desc &&& lanes ≠ 0) : (s.laneMarked lanes).prob k = { s.prob k with kept := none } := State.prob_dropKept run hit

theorem State.laneFault_laneMarked (s : State) (lanes : Word) : (s.laneMarked lanes).slv.laneFault = s.slv.laneFault ||| lanes := rfl

/-- The lane that an uncorrectable error of a problem lies in. -/
def errorLane (d : ProbDesc) (second : Bool) : Word := w32 (2 ^ (d.lane + bitAt (second && d.pair) 0))

theorem errorLane_eq (d : ProbDesc) (second : Bool) :
    errorLane d second = w32 (2 ^ (d.lane + if second = true ∧ d.pair = true then 1 else 0)) := by
  rw [errorLane, bitAt]
  simp

/-- A lane error ends its run as stale, once the lane is marked; the reports change nothing of the solver complex. -/
theorem State.slv_laneError (s : State) (slot : Nat) (r : SlvRun) (p : Option SlvPlan) (second : Bool) : ∃ reg steps, (s.laneError slot r p second).slv =
    (((s.takeFactor slot r p true).1.laneMarked (errorLane (s.prob slot).desc second)).endStale slot r 5 reg steps).slv :=
  ⟨_, _, State.slv_foldl_raise _ _ _ _⟩

theorem State.laneError_ends {s : State} {slot : Nat} {r : SlvRun} (run : (s.prob slot).run = some r) (low : (s.prob slot).desc.lane < 31)
    (p : Option SlvPlan) (second : Bool) : let u := s.laneError slot r p second
    (u.prob slot).run = none ∧ (u.prob slot).kept = none ∧ u.slv.laneFault = s.slv.laneFault ||| errorLane (s.prob slot).desc second ∧
      u.slv.staleCnt = satInc s.slv.staleCnt := by
  obtain ⟨-, ⟨f, prob⟩, fault, stale, -⟩ := s.takeFactor_taken slot r p true
  obtain ⟨reg, steps, slv⟩ := s.slv_laneError slot r p second
  have hit : lanesOf (s.prob slot).desc &&& errorLane (s.prob slot).desc second ≠ 0 := lanesOf_hit low second
  generalize (s.takeFactor slot r p true).1 = taken at prob fault stale slv
  generalize errorLane (s.prob slot).desc second = lanes at hit slv ⊢
  have marked : (taken.laneMarked lanes).prob slot = { taken.prob slot with kept := none } :=
    State.prob_laneMarked (r := r) (by rw [prob]; exact run) (by rw [prob]; exact hit)
  obtain ⟨fault', stale', -, -⟩ := (taken.laneMarked lanes).counts_endStale slot r 5 reg steps
  dsimp only
  rw [State.prob_of_slv slv, slv, State.prob_endStale, marked]
  refine ⟨rfl, rfl, fault'.trans ?_, stale'.trans (congrArg satInc stale)⟩
  rw [State.laneFault_laneMarked, fault]

end Sys2Proof.Machine
end

section
/-! PROOFS. The events of a run: its measurement signal that comes or does not, its end and its deadline (R196, R204 to R211, R315). -/
namespace Sys2Proof.Machine

/-! ## MEAS_WAIT_EXPIRE (R196, R206) -/

section
variable {s : State} {t k : Nat} {r : SlvRun}

theorem exec_measWaitExpire_eq (run : (s.prob k).run = some r) : exec (.measWaitExpire t k) s =
    .next (if s.powered && r.vecT.isNone && decide (r.matEnd + 2 * (s.prob k).desc.measWait ≤ max s.time.cnt t) && !s.measReady k
      then (s.advance t).endStale k r (if (s.advance t).matLost (s.prob k) r then 2 else 4) 0 0 else s.advance t) := by
  simp only [exec, execMeasWaitExpire, State.prob_advance, run]
  rfl

theorem exec_measWaitExpire (hp : s.powered = true) (run : (s.prob k).run = some r) (unstarted : r.vecT = none)
    (late : r.matEnd + 2 * (s.prob k).desc.measWait ≤ max s.time.cnt t) (unready : s.measReady k = false) : exec (.measWaitExpire t k) s =
      .next ((s.advance t).endStale k r (if (s.advance t).matLost (s.prob k) r then 2 else 4) 0 0) := by
  rw [exec_measWaitExpire_eq run, hp, unstarted, decide_eq_true late, unready]
  rfl

theorem exec_measWaitExpire_early (run : (s.prob k).run = some r) (early : max s.time.cnt t < r.matEnd + 2 * (s.prob k).desc.measWait) :
    exec (.measWaitExpire t k) s = .next (s.advance t) := by
  rw [exec_measWaitExpire_eq run, decide_eq_false (Nat.not_le.2 early), Bool.and_false]
  rfl

end

/-- The vector program: it starts on a counter that can pay (`State.vectorOr_pays`) or on its grant (`State.vectorOr_granted`), waits in the queue
of a counter that cannot (`State.vectorOr_awaits`), and waits no longer than MEAS_WAIT. -/
theorem solverVectors : Claims.SolverVectors := by
  intro s t k r hp run unstarted x
  refine ⟨fun ended good => ⟨fun v named ungranted pays first => ?pays, fun v named granted => ?granted, fun v named ungranted short fresh => ?awaits⟩,
    exec_vectorProgramStart_waits run, fun late unready => ⟨_, exec_measWaitExpire hp run unstarted late unready, ?stale⟩, exec_measWaitExpire_early run⟩
  case pays =>
    have start := exec_vectorProgramStart hp run unstarted ended good
    rw [State.vectorOr_pays (s := s.advance t) r named ungranted (State.measReady_of_pays (s := s.advance t) named pays first)] at start
    refine ⟨_, { r with vecT := some (max s.time.cnt t), waiting := false }, start, ?_⟩
    rw [State.prob_startVector, State.counter_startVector, State.counter_takeOne]
    exact ⟨rfl, rfl, rfl, rfl, rfl, by rw [State.startVector_frame ((s.advance t).takeOne v.counter) k r]; rfl⟩
  case granted =>
    have start := exec_vectorProgramStart hp run unstarted ended good
    rw [State.vectorOr_granted (s := s.advance t) r named granted] at start
    refine ⟨_, { r with vecT := some (max s.time.cnt t), waiting := false }, start, ?_⟩
    rw [State.prob_startVector, State.startVector_frame]
    exact ⟨rfl, rfl, rfl⟩
  case awaits =>
    have start := exec_vectorProgramStart hp run unstarted ended good
    rw [State.vectorOr_awaits (s := s.advance t) named ungranted (State.measReady_of_short (s := s.advance t) named ungranted short) fresh] at start
    refine ⟨_, start, ?_⟩
    rw [State.prob_awaitMeas]
    exact ⟨rfl, rfl, rfl⟩
  case stale =>
    obtain ⟨-, stale, nonfinite, late_⟩ := (s.advance t).counts_endStale k r (if (s.advance t).matLost x r then 2 else 4) 0 0
    rw [State.prob_endStale]
    refine ⟨rfl, rfl, rfl, stale, fun whole => ?_, fun lost => ?_⟩
    · rw [late_, nonfinite, whole]
      exact ⟨rfl, rfl⟩
    · rw [late_, nonfinite, lost]
      exact ⟨rfl, rfl⟩

/-! ## SOLVER_RUN_COMPLETE (R204, R209) -/

section
variable {s : State} {k : Nat} {r : SlvRun} (t : Nat) (run : (s.prob k).run = some r)
include run

/-- A run with no error, as it comes to this cycle: it ends where its work is done, or where its matrix program has lost it. -/
theorem exec_solverRunComplete_started {v : Nat} (hp : s.powered = true) (started : r.vecT = some v) : exec (.solverRunComplete t k .none) s =
    .next (if ((s.prob k).plan r v).finish ≤ max s.time.cnt t / 2 * 2 + 1 then (s.advance t).completeRun k r ((s.prob k).plan r v) else s.advance t) := by
  simp only [exec, execSolverRunComplete, State.prob_advance, run, State.advance_powered, hp, started]
  rfl

theorem exec_solverRunComplete_unstarted (hp : s.powered = true) (unstarted : r.vecT = none) : exec (.solverRunComplete t k .none) s =
    .next (if (s.advance t).matLost (s.prob k) r then (s.advance t).endStale k r 2 0 0 else s.advance t) := by
  simp only [exec, execSolverRunComplete, State.prob_advance, run, State.advance_powered, hp, unstarted]
  rfl

theorem exec_solverRunComplete_laneError (hp : s.powered = true) (second : Bool) : exec (.solverRunComplete t k (.laneUncorrectable second)) s =
    .next ((s.advance t).laneError k r (r.vecT.map fun v => (s.prob k).plan r v) second) := by
  simp only [exec, execSolverRunComplete, State.prob_advance, run, State.advance_powered, hp]
  rfl

theorem exec_solverRunComplete_storeLost (hp : s.powered = true) : let e := (s.advance t).takeFactor k r (r.vecT.map fun v => (s.prob k).plan r v) false
    exec (.solverRunComplete t k .storeUncorrectable) s = .next (e.1.endStoreLost k r e.2) := by
  simp only [exec, execSolverRunComplete, State.prob_advance, run, State.advance_powered, hp]
  rfl

/-! ## SOLVER_DEADLINE (R205, R211) -/

/-- A run that its deadline finds before its vector program has started ends as stale, whether or not its matrix program has lost it. -/
theorem exec_solverDeadline_unstarted (hp : s.powered = true) (due : (s.advance t).deadlineDue r.dl = true) (unstarted : r.vecT = none) :
    exec (.solverDeadline t k) s = .next ((s.advance t).endStale k r (if (s.advance t).matLost (s.prob k) r then 2 else 1) 0 0) := by
  have cut : exec (.solverDeadline t k) s =
      .next (if (s.advance t).matLost (s.prob k) r then (s.advance t).endStale k r 2 0 0 else (s.advance t).endStale k r 1 0 0) := by
    simp only [exec, execSolverDeadline, State.prob_advance, run, State.advance_powered, hp, due, unstarted]
    rfl
  rw [cut]
  split <;> rfl

theorem exec_solverDeadline_ahead (ahead : (s.advance t).deadlineDue r.dl = false) : exec (.solverDeadline t k) s = .next (s.advance t) := by
  simp only [exec, execSolverDeadline, State.prob_advance, run, ahead, Bool.not_false, Bool.or_true, if_true]

end

/-- The end of a run: a fresh result (`State.completeRun_fresh`), a stale one (`State.prob_endStale`), or an error of a lane or of the store. -/
theorem solverEnds : Claims.SolverEnds := by
  intro s t k v r hp run x
  refine ⟨fun tk i started good last ok done => ?fresh, fun started early => ?goesOn,
    fun second low => ⟨_, exec_solverRunComplete_laneError t run hp second, ?laneError⟩, fun unstarted lost => ?lost,
    ⟨_, exec_solverRunComplete_storeLost t run hp, ?storeLost⟩, fun due unstarted => ⟨_, exec_solverDeadline_unstarted t run hp due unstarted, ?deadline⟩,
    exec_solverDeadline_ahead t run⟩
  case fresh =>
    have step := exec_solverRunComplete_started t run hp started
    rw [if_pos done, State.completeRun_fresh k r good last ok] at step
    obtain ⟨rest, ⟨f, prob⟩, -, stale, miss⟩ := (s.advance t).takeFactor_taken k r (some (x.plan r v)) false
    have cnt : ((s.advance t).takeFactor k r (some (x.plan r v)) false).1.time.cnt = max s.time.cnt t := by rw [rest]; rfl
    have safe : ((s.advance t).takeFactor k r (some (x.plan r v)) false).1.safe = s.safe := by rw [rest]; rfl
    refine ⟨_, step, ?_⟩
    rw [State.endFresh_eq, State.prob_putOut, State.slv_putOut, State.safe_putOut, prob]
    exact ⟨rfl, rfl, rfl, ⟨_, _, rfl, by rw [State.outOf, cnt]; rfl, rfl, rfl⟩, stale, miss, safe⟩
  case goesOn =>
    rw [exec_solverRunComplete_started t run hp started, if_neg (Nat.not_le.2 early)]
  case laneError =>
    rw [← errorLane_eq]
    exact State.laneError_ends (s := s.advance t) run low _ second
  case lost =>
    have step := exec_solverRunComplete_unstarted t run hp unstarted
    rw [if_pos lost] at step
    obtain ⟨-, stale, nonfinite, -⟩ := (s.advance t).counts_endStale k r 2 0 0
    refine ⟨_, step, ?_⟩
    rw [State.prob_endStale]
    exact ⟨rfl, rfl, nonfinite, stale⟩
  case storeLost =>
    obtain ⟨-, ⟨f, prob⟩, -, stale, -⟩ := (s.advance t).takeFactor_taken k r (r.vecT.map fun v => x.plan r v) false
    rw [State.endStoreLost, State.prob_putOut, State.slv_putOut, prob]
    exact ⟨rfl, rfl, stale⟩
  case deadline =>
    obtain ⟨-, stale, -, -⟩ := (s.advance t).counts_endStale k r (if (s.advance t).matLost x r then 2 else 1) 0 0
    rw [State.prob_endStale]
    exact ⟨rfl, rfl, rfl, stale, fun young _ => State.missCnt_endStale_young _ k r _ 0 0 young,
      fun was is => State.missCnt_endStale_old _ k r _ 0 0 was is⟩

end Sys2Proof.Machine
end

section
/-! PROOFS. Output records (R204, R210, R213, R228, R453). -/
namespace Sys2Proof.Machine

/-! ## Writes beside the solver complex -/

/-- What a scratchpad write does does not depend on the solver complex. -/
theorem State.spWrite_slv (s : State) (v : Solver) (a : Nat) (bs : List Byte) :
    ({ s with slv := v } : State).spWrite a bs = { s.spWrite a bs with slv := v } := by
  induction bs generalizing s a with
  | nil => rfl
  | cons b bs ih =>
    have key : ({ s with slv := v } : State).spaKey a = s.spaKey a := rfl
    simp only [State.spWrite, key]
    cases s.spaKey a with
    | none => exact ih s (a + 1)
    | some k => exact ih { s with cmp := { s.cmp with sp := memSet s.cmp.sp k b } } (a + 1)

@[simp] theorem State.prob_writeFunc (s : State) (f a : Nat) (bs : List Byte) (k : Nat) : (s.writeFunc f a bs).prob k = s.prob k := by
  rw [s.writeFunc_frame f a bs]
  rfl

theorem State.ctxDead_writeFunc (s : State) (f a : Nat) (bs : List Byte) (c : Nat) : (s.writeFunc f a bs).ctxDead c = s.ctxDead c := by
  rw [s.writeFunc_frame f a bs]
  rfl

/-- A write for a context whose host is out of reach is dropped (R453). -/
theorem State.writeFunc_dead {s : State} {c : Nat} (dead : s.ctxDead c = true) (a : Nat) (bs : List Byte) : s.writeFunc (s.ctx c).func a bs = s := by
  obtain ⟨host, other⟩ := Bool.and_eq_true_iff.1 dead
  have beyond : firmwareFunc (s.ctx c).func = false := by simpa using other
  rw [State.writeFunc, beyond, host]
  rfl

/-- Values for a feed-forward buffer change only the axis groups. -/
theorem State.ffWrite_frame (s : State) (g first : Nat) (vals : List Word) (st : Status) : ∃ x, s.ffWrite g first vals st = { s with cte := x } := by
  unfold State.ffWrite
  split
  · exact ⟨s.cte, rfl⟩
  · exact ⟨_, rfl⟩

/-! ## SOLVER_OUTPUT_WRITTEN -/

/-- A problem whose oldest record on its way has become its latest. -/
def Prob.recorded (x : Prob) (o : SlvOut) (rest : List SlvOut) : Prob :=
  { x with outs := rest, record := o.record, cmd := (if o.cmd.isSome then none else x.cmd) }

/-- The bytes of an output: its record and the solution. -/
def SlvOut.bytes (o : SlvOut) : List Byte := o.record ++ wordBytes o.vals

/-- The status of an output. -/
def SlvOut.status (o : SlvOut) : Status := BitVec.ofNat 16 (leField o.record 0 2)

/-- An output where OUT_DEST puts it. -/
def State.placeOut (s : State) (k : Nat) (x : Prob) (o : SlvOut) (rest : List SlvOut) : State :=
  let s := s.setProb k (x.recorded o rest)
  match x.desc.outKind with
  | 0 => s.ffWrite (x.desc.outAddr / 256 % 16) (x.desc.outAddr % 256) o.vals o.status
  | 1 => s.spWrite x.desc.outAddr o.bytes
  | _ => s

/-- An output changes only its slot and the place that it is put in. -/
theorem State.placeOut_frame (s : State) (k : Nat) (x : Prob) (o : SlvOut) (rest : List SlvOut) :
    ∃ cmp cte, s.placeOut k x o rest = { s.setProb k (x.recorded o rest) with cmp := cmp, cte := cte } := by
  unfold State.placeOut
  dsimp only
  split
  · obtain ⟨cte, h⟩ := (s.setProb k (x.recorded o rest)).ffWrite_frame (x.desc.outAddr / 256 % 16) (x.desc.outAddr % 256) o.vals o.status
    exact ⟨_, cte, h⟩
  · obtain ⟨sp, h⟩ := (s.setProb k (x.recorded o rest)).spWrite_frame x.desc.outAddr o.bytes
    exact ⟨{ s.cmp with sp := sp }, s.cte, h⟩
  · exact ⟨s.cmp, s.cte, rfl⟩

theorem State.prob_placeOut (s : State) (k : Nat) (x : Prob) (o : SlvOut) (rest : List SlvOut) :
    (s.placeOut k x o rest).prob k = x.recorded o rest := by
  obtain ⟨cmp, cte, h⟩ := s.placeOut_frame k x o rest
  rw [h]
  exact (State.prob_setProb s k k _).trans (if_pos rfl)

theorem State.ctx_placeOut (s : State) (k : Nat) (x : Prob) (o : SlvOut) (rest : List SlvOut) (c : Nat) :
    (s.placeOut k x o rest).ctx c = s.ctx c := by
  obtain ⟨cmp, cte, h⟩ := s.placeOut_frame k x o rest
  rw [h]
  rfl

theorem State.ctxDead_placeOut (s : State) (k : Nat) (x : Prob) (o : SlvOut) (rest : List SlvOut) (c : Nat) :
    (s.placeOut k x o rest).ctxDead c = s.ctxDead c := by
  obtain ⟨cmp, cte, h⟩ := s.placeOut_frame k x o rest
  rw [h]
  rfl

theorem State.hostMem_placeOut (s : State) (k : Nat) (x : Prob) (o : SlvOut) (rest : List SlvOut) : (s.placeOut k x o rest).hostMem = s.hostMem := by
  obtain ⟨cmp, cte, h⟩ := s.placeOut_frame k x o rest
  rw [h]
  rfl

section
variable {x : Prob} (s : State) (k : Nat) (o : SlvOut) (rest : List SlvOut)

theorem State.placeOut_feedForward (kind : x.desc.outKind = 0) : s.placeOut k x o rest =
    (s.setProb k (x.recorded o rest)).ffWrite (x.desc.outAddr / 256 % 16) (x.desc.outAddr % 256) o.vals o.status := by
  simp only [State.placeOut, kind]

theorem State.placeOut_scratchpad (kind : x.desc.outKind = 1) :
    s.placeOut k x o rest = (s.setProb k (x.recorded o rest)).spWrite x.desc.outAddr o.bytes := by
  simp only [State.placeOut, kind]

theorem State.placeOut_host (kind : x.desc.outKind = 2) : s.placeOut k x o rest = s.setProb k (x.recorded o rest) := by
  simp only [State.placeOut, kind]

/-- What lands in the scratchpad is what the record and the solution are, whatever the slot holds. -/
theorem State.cmp_placeOut_scratchpad (kind : x.desc.outKind = 1) : (s.placeOut k x o rest).cmp = (s.spWrite x.desc.outAddr o.bytes).cmp := by
  rw [State.placeOut_scratchpad s k o rest kind, State.setProb, State.spWrite_slv]

end

/-- An output at the OUT_ADDR of the command that asked for it. -/
def State.sendOut (s : State) (o : SlvOut) (r : CmdRef) (a : Nat) : State := s.writeFunc (s.ctx r.ctx).func a o.bytes

theorem State.prob_sendOut (s : State) (o : SlvOut) (r : CmdRef) (a k : Nat) : (s.sendOut o r a).prob k = s.prob k := State.prob_writeFunc _ _ _ _ _

theorem State.ctxDead_sendOut (s : State) (o : SlvOut) (r : CmdRef) (a c : Nat) : (s.sendOut o r a).ctxDead c = s.ctxDead c := State.ctxDead_writeFunc _ _ _ _ _

theorem Prob.cmd_recorded {o : SlvOut} {e : CmdRef × Nat} (asked : o.cmd = some e) (x : Prob) (rest : List SlvOut) : (x.recorded o rest).cmd = none := by
  rw [Prob.recorded, asked]
  rfl

theorem State.output_isDue {s : State} {t : Nat} {o : SlvOut} (hp : s.powered = true) (due : o.outT ≤ max s.time.cnt t) :
    ¬ (!(s.advance t).powered || decide ((s.advance t).time.cnt < o.outT)) = true := by
  rw [State.advance_cnt, decide_eq_false (Nat.not_lt.2 due), State.advance_powered, hp]
  decide

section
variable {s : State} {t k : Nat} {o : SlvOut} {rest : List SlvOut} (outs : (s.prob k).outs = o :: rest)
include outs

theorem exec_solverOutputWritten_early (early : max s.time.cnt t < o.outT) : exec (.solverOutputWritten t k) s = .next (s.advance t) := by
  have wait : (!(s.advance t).powered || decide ((s.advance t).time.cnt < o.outT)) = true := by
    rw [State.advance_cnt, decide_eq_true early, Bool.or_true]
  simp only [exec, execSolverOutputWritten, State.prob_advance, outs]
  exact congrArg _ (if_pos wait)

variable (hp : s.powered = true) (due : o.outT ≤ max s.time.cnt t) (silent : (s.prob k).desc.outSignal = false) (noEntry : o.entry = none)
include hp due silent noEntry

/-- An output that nobody asked for by command. -/
theorem exec_solverOutputWritten_unasked (unasked : o.cmd = none) :
    exec (.solverOutputWritten t k) s = .next ((s.advance t).placeOut k (s.prob k) o rest) := by
  simp only [exec, execSolverOutputWritten, State.prob_advance, outs]
  refine congrArg _ ((if_neg (State.output_isDue hp due)).trans ?_)
  obtain ⟨outT, entry, cmd, record, vals⟩ := o
  obtain rfl : entry = none := noEntry
  obtain rfl : cmd = none := unasked
  simp only [silent]
  rfl

/-- An output that a SLV_SOLVE asked for. -/
theorem exec_solverOutputWritten_asked {r : CmdRef} {a : Nat} (asked : o.cmd = some (r, a)) :
    let u := ((s.advance t).placeOut k (s.prob k) o rest).sendOut o r a
    exec (.solverOutputWritten t k) s = .next (u.complete r (if u.ctxDead r.ctx then stEcc else o.status) (leWords o.record 2)) := by
  simp only [exec, execSolverOutputWritten, State.prob_advance, outs]
  refine congrArg _ ((if_neg (State.output_isDue hp due)).trans ?_)
  obtain ⟨outT, entry, cmd, record, vals⟩ := o
  obtain rfl : entry = none := noEntry
  obtain rfl : cmd = some (r, a) := asked
  simp only [silent]
  rfl

/-- The reply is that of the record where host memory is in reach. -/
theorem exec_solverOutputWritten_live {r : CmdRef} {a : Nat} (asked : o.cmd = some (r, a)) (live : s.ctxDead r.ctx = false) :
    exec (.solverOutputWritten t k) s = .next ((((s.advance t).placeOut k (s.prob k) o rest).sendOut o r a).complete r o.status (leWords o.record 2)) := by
  have live' : (((s.advance t).placeOut k (s.prob k) o rest).sendOut o r a).ctxDead r.ctx = false := by
    rw [State.ctxDead_sendOut, State.ctxDead_placeOut]
    exact live
  rw [exec_solverOutputWritten_asked outs hp due silent noEntry asked, live']
  rfl

/-- Nothing is written to host memory that is out of reach, and the reply says so. -/
theorem exec_solverOutputWritten_dead {r : CmdRef} {a : Nat} (asked : o.cmd = some (r, a)) (dead : s.ctxDead r.ctx = true) :
    exec (.solverOutputWritten t k) s = .next (((s.advance t).placeOut k (s.prob k) o rest).complete r stEcc (leWords o.record 2)) := by
  have dead' : ((s.advance t).placeOut k (s.prob k) o rest).ctxDead r.ctx = true := by
    rw [State.ctxDead_placeOut]
    exact dead
  rw [exec_solverOutputWritten_asked outs hp due silent noEntry asked, State.sendOut, State.writeFunc_dead dead', dead']
  rfl

end

/-! ## The claim -/

/-- Outputs: the record becomes the slot's (`State.prob_placeOut`), lands where OUT_DEST puts it, and goes to the command that asked for it. -/
theorem solverOutputs : Claims.SolverOutputs := by
  intro s t k o rest hp outs x
  refine ⟨exec_solverOutputWritten_early outs, fun due silent noEntry => ⟨fun kind unasked => ?scratchpad, fun kind unasked => ?feedForward,
    fun r a _ asked dead => ?dead, fun r a kind asked live => ?askedScratchpad, fun r a kind asked live => ?askedHost⟩⟩
  case scratchpad =>
    refine ⟨_, exec_solverOutputWritten_unasked outs hp due silent noEntry unasked, ?_⟩
    rw [State.prob_placeOut]
    exact ⟨rfl, rfl, State.cmp_placeOut_scratchpad _ _ _ _ kind⟩
  case feedForward =>
    refine ⟨_, exec_solverOutputWritten_unasked outs hp due silent noEntry unasked, ?_⟩
    rw [State.prob_placeOut]
    exact ⟨rfl, rfl, State.placeOut_feedForward _ _ _ _ kind⟩
  case dead =>
    refine ⟨_, exec_solverOutputWritten_dead outs hp due silent noEntry asked dead, State.hostMem_placeOut _ _ _ _ _, ?_⟩
    rw [State.prob_placeOut]
    exact ⟨rfl, Prob.cmd_recorded asked _ _⟩
  case askedScratchpad =>
    refine ⟨_, exec_solverOutputWritten_live outs hp due silent noEntry asked live, ?_⟩
    rw [State.prob_sendOut, State.prob_placeOut]
    refine ⟨rfl, Prob.cmd_recorded asked _ _, ?_⟩
    rw [State.sendOut, State.ctx_placeOut, State.placeOut_scratchpad _ _ _ _ kind]
    rfl
  case askedHost =>
    refine ⟨_, exec_solverOutputWritten_live outs hp due silent noEntry asked live, ?_⟩
    rw [State.prob_sendOut, State.prob_placeOut]
    refine ⟨rfl, rfl, Prob.cmd_recorded asked _ _, ?_⟩
    rw [State.sendOut, State.ctx_placeOut, State.placeOut_host _ _ _ _ kind]
    rfl

/-- Settles O26: its clauses are `solverVectors`, `solverEnds` and `solverOutputs`. -/
theorem solverResults : Obligations.SolverResults := ⟨solverVectors, solverEnds, solverOutputs⟩

end Sys2Proof.Machine
end

section
/-! PROOFS. Control laws in INT: a stage's output stays inside its limit (R225, R226). -/
namespace Sys2Proof.Machine

/-- What holds of both branches of a choice holds of the choice. -/
theorem ite_of {α : Sort*} {c : Prop} [Decidable c] {P : α → Prop} {t e : α} (yes : P t) (no : P e) : P (if c then t else e) :=
  iteInduction (fun _ => yes) fun _ => no

/-- The negative of a word, which is the word itself at the least number, has no larger magnitude. -/
theorem natAbs_toInt_neg_le (x : Word) : (-x).toInt.natAbs ≤ x.toInt.natAbs := by
  by_cases least : x = BitVec.intMin 32
  · rw [least, BitVec.neg_intMin]
  · rw [BitVec.toInt_neg_of_ne_intMin least, Int.natAbs_neg]

/-- A number of a word's magnitude, as a word, has no larger magnitude. -/
theorem natAbs_ofInt_le {lim : Word} {k : Int} (same : k = lim.toInt ∨ k = -lim.toInt) : (BitVec.ofInt 32 k).toInt.natAbs ≤ lim.toInt.natAbs := by
  rcases same with rfl | rfl
  · rw [BitVec.ofInt_toInt]
  · rw [BitVec.ofInt_neg, BitVec.ofInt_toInt]
    exact natAbs_toInt_neg_le lim

theorem natAbs_lawClamp_le (u lim : Word) : (lawClamp false u lim).toInt.natAbs ≤ lim.toInt.natAbs :=
  have magnitude := Int.natAbs_eq lim.toInt
  ite_of (P := fun w : Word => w.toInt.natAbs ≤ lim.toInt.natAbs) (c := u.toInt < 0)
    (natAbs_ofInt_le (magnitude.symm.imp Eq.symm fun h => congrArg Neg.neg h.symm))
    (natAbs_ofInt_le (magnitude.imp Eq.symm fun h => (neg_eq_iff_eq_neg.2 h).symm))

/-- The sum of a stage. -/
noncomputable def Loop.sum (l : Loop) (x : LawIn) (a : LawRun) (st : Nat) (i : Word) (fp : Bool) : Word :=
  lawAdd fp (lawAdd fp (lawAdd fp (lawMul fp (l.coef (2 + 2 * st)) (lawSub fp a.r (x.y.getD st 0))) i) (x.f.getD st 0)) (x.res.getD st 0)

/-- The integrator that a stage starts from: preloaded in the first period. -/
noncomputable def Loop.integ (l : Loop) (x : LawIn) (a : LawRun) (st : Nat) (fp : Bool) : Word :=
  if l.first then lawSub fp (lawSub fp (lawSub fp (l.target x.y st) (lawMul fp (l.coef (2 + 2 * st)) (lawSub fp a.r (x.y.getD st 0)))) (x.f.getD st 0))
    (x.res.getD st 0) else a.integ.getD st 0

/-- The integrator that a stage which is not clamped leaves. -/
noncomputable def Loop.nextInteg (l : Loop) (x : LawIn) (a : LawRun) (st : Nat) (i : Word) (fp : Bool) : Word :=
  if l.first then i else lawAdd fp i (lawMul fp (l.coef (3 + 2 * st)) (lawSub fp a.r (x.y.getD st 0)))

/-- A stage with the sum `u`: clamped with the integrator `i`, or inside the limit with `i'`. -/
noncomputable def Loop.limited (l : Loop) (a : LawRun) (st : Nat) (u i i' : Word) (fp : Bool) : LawRun :=
  if lawExceeds fp u (l.coef (8 + st)) then { a with r := lawClamp fp u (l.coef (8 + st)), integ := a.integ.set st i, sat := a.sat || l.first }
  else { a with r := u, integ := a.integ.set st i' }

/-- One enabled stage. -/
noncomputable def Loop.stageBy (l : Loop) (x : LawIn) (a : LawRun) (st : Nat) (i : Word) (fp : Bool) : LawRun :=
  if fp && f32Nan (l.sum x a st i fp) then { a with nan := true } else l.limited a st (l.sum x a st i fp) i (l.nextInteg x a st i fp) fp

theorem Loop.stage_of_int {l : Loop} (int : l.fp = false) (x : LawIn) {a : LawRun} (sound : a.nan = false) (st : Nat) :
    l.stage x a st = l.stageBy x a st (l.integ x a st false) false :=
  (if_neg (Bool.eq_false_iff.1 sound)).trans (congrArg (fun fp => l.stageBy x a st (l.integ x a st fp) fp) int)

/-- A stage in INT gives a number, and never one beyond its limit. -/
theorem Loop.limited_int (l : Loop) {a : LawRun} (sound : a.nan = false) (st : Nat) (u i i' : Word) :
    (l.limited a st u i i' false).nan = false ∧ (l.limited a st u i i' false).r.toInt.natAbs ≤ (l.coef (8 + st)).toInt.natAbs :=
  iteInduction (motive := fun b : LawRun => b.nan = false ∧ b.r.toInt.natAbs ≤ (l.coef (8 + st)).toInt.natAbs)
    (fun _ => ⟨sound, natAbs_lawClamp_le _ _⟩) fun inside => ⟨sound, Nat.le_of_not_lt fun beyond => inside (decide_eq_true beyond)⟩

theorem Loop.stage_int {l : Loop} (int : l.fp = false) (x : LawIn) {a : LawRun} (sound : a.nan = false) (st : Nat) :
    (l.stage x a st).nan = false ∧ (l.stage x a st).r.toInt.natAbs ≤ (l.coef (8 + st)).toInt.natAbs :=
  (Loop.stage_of_int int x sound st).symm ▸ l.limited_int sound st _ _ _

theorem set_getD_self {α : Type} {l : List α} {n : Nat} (inner : n < l.length) (d : α) : l.set n (l.getD n d) = l := by
  rw [List.getD_eq_getElem l d inner, List.set_getElem_self]

theorem getD_set_self {α : Type} {l : List α} {n : Nat} (inner : n < l.length) (v d : α) : (l.set n v).getD n d = v := by
  rw [List.getD_eq_getElem _ d (by rwa [List.length_set]), List.getElem_set_self]

/-- A stage in INT that is clamped leaves its integrator as it was, and another one adds to it. -/
theorem Loop.limited_integ (l : Loop) {a : LawRun} {st : Nat} (inner : st < a.integ.length) {u i' : Word} {b : LawRun}
    (stage : b = l.limited a st u (a.integ.getD st 0) i' false) :
    (lawExceeds false u (l.coef (8 + st)) = true → b.r = lawClamp false u (l.coef (8 + st)) ∧ b.integ = a.integ) ∧
      (lawExceeds false u (l.coef (8 + st)) = false → b.r = u ∧ b.integ.getD st 0 = i') := by
  subst stage
  exact ⟨fun beyond => ⟨congrArg LawRun.r (if_pos beyond), (congrArg LawRun.integ (if_pos beyond)).trans (set_getD_self inner 0)⟩,
    fun inside => ⟨congrArg LawRun.r (if_neg (Bool.eq_false_iff.1 inside)),
      (congrArg (fun b : LawRun => b.integ.getD st 0) (if_neg (Bool.eq_false_iff.1 inside))).trans (getD_set_self inner _ 0)⟩⟩

/-- A stage in INT after the first period. -/
theorem Loop.stage_later {l : Loop} (int : l.fp = false) (later : l.first = false) (x : LawIn) {a : LawRun} (sound : a.nan = false) (st : Nat) :
    l.stage x a st = l.limited a st (l.sum x a st (a.integ.getD st 0) false) (a.integ.getD st 0)
      (lawAdd false (a.integ.getD st 0) (lawMul false (l.coef (3 + 2 * st)) (lawSub false a.r (x.y.getD st 0)))) false :=
  have off := Bool.eq_false_iff.1 later
  (Loop.stage_of_int int x sound st).trans ((congrArg (fun i => l.stageBy x a st i false) (if_neg off)).trans
    (congrArg (fun i' => l.limited a st (l.sum x a st (a.integ.getD st 0) false) (a.integ.getD st 0) i' false) (if_neg off)))

/-- The last enabled stage bounds what the stages before it give. -/
theorem Loop.law_int {l : Loop} (setp : Word) (x : LawIn) {st : Nat} (int : l.fp = false) (last : l.stages.getLast? = some st) :
    (l.law setp x).nan = false ∧ (l.law setp x).r.toInt.natAbs ≤ (l.coef (8 + st)).toInt.natAbs := by
  obtain ⟨before, split⟩ := List.getLast?_eq_some_iff.1 last
  rw [Loop.law, split, List.foldl_append]
  exact Loop.stage_int int x (List.foldlRecOn (motive := fun a : LawRun => a.nan = false) before _ rfl fun _ sound st _ => (Loop.stage_int int x sound st).1) st

/-- Settles O35: the bound of the last stage (`Loop.law_int`) and what a clamp leaves (`Loop.limited_integ`). -/
theorem stageLimits : Obligations.StageLimits := ⟨fun _ setp x _ int last => Loop.law_int setp x int last,
  fun l x _ st int later sound inner three => l.limited_integ (three ▸ inner) (Loop.stage_later int later x sound st)⟩

end Sys2Proof.Machine
end

section
/-! PROOFS. What an unload leaves (R243, R280, R307, R317, R325, R450), and IMG_QUERY. -/
namespace Sys2Proof.Machine

/-! ## Commands, folds and tables -/

/-- A state with another command interface. -/
noncomputable def State.withCmd (s : State) (m : Cmd) : State := { s with cmd := m }

/-- A command that starts with its checks passed runs. -/
theorem exec_of_command {i : Instr} {s : State} {c : Nat} {p : Packet} {op : Nat} {checks : Option Status} {run : State → CmdRef → State}
    (meaning : exec i s = .next (s.command c p op (s.ctx c).cls checks run)) (starts : s.Starts c p op) (checked : checks = none) :
    exec i s = .next (run (s.begin_ c p (s.ctx c).cls).1 (s.begin_ c p (s.ctx c).cls).2) := by
  subst checked
  exact meaning.trans (congrArg Host.Outcome.next (State.command_starts starts _ run))

/-- What every step of a fold keeps holds at its end, and so does what the step of a listed item brings. -/
theorem foldl_reaches {σ β : Type} {f : σ → β → σ} {P S : σ → Prop} {x : β} (before : ∀ u y, P u → P (f u y)) (after : ∀ u y, S u → S (f u y))
    (step : ∀ u, P u → S (f u x)) {l : List β} (listed : x ∈ l) {s : σ} (start : P s) : S (l.foldl f s) := by
  induction listed generalizing s with
  | head rest => exact List.foldlRecOn rest f (step s start) fun u h y _ => after u y h
  | tail y _ ih => exact ih (before s y start)

/-- What holds of the default and of every entry as changed holds of each key of a table with every entry changed. -/
theorem tblGet_tblMap_of {α : Type} [DecidableEq α] {P : α → Prop} {d : α} (default : P d) {f : Nat → α → α} (changed : ∀ k x, P (f k x))
    (t : Tbl α) (n : Nat) : P (tblGet d (tblMap d f t) n) := by
  induction t with
  | nil => exact default
  | cons e rest ih => exact ite_of (P := fun t => P (tblGet d t n)) ih (ite_of (changed e.1 e.2) ih)

/-- What holds of an entry that is put into a table and of a key before holds of the key afterwards. -/
theorem tblGet_tblSet_of {α : Type} [DecidableEq α] {P : α → Prop} {d x : α} {t : Tbl α} {n k : Nat} (here : k = n → P x)
    (other : k ≠ n → P (tblGet d t k)) : P (tblGet d (tblSet d t n x) k) :=
  (tblGet_tblSet d t n k x).symm ▸ iteInduction here other

/-! ## Contexts leave -/

/-- A context without mappings, that is detached where `gone`. -/
def Ctx.Left (gone : Prop) (x : Ctx) : Prop := x.vids = [] ∧ (gone → x.state = .detached)

/-- Contexts without mappings, of which some are detached. -/
def CtxsLeft (gone : Nat → Prop) (t : Tbl Ctx) : Prop := ∀ j, (tblGet {} t j).Left (gone j)

/-- What an unload keeps while contexts leave: time and the husk, no counter and no mapping, and the contexts that are detached. -/
def Kept (T : TimeUnit × Sec) (gone : Nat → Prop) (s : State) : Prop := (s.time, s.sec, s.sync.counters) = (T.1, T.2, []) ∧ CtxsLeft gone s.cmd.ctxs

section
variable {T : TimeUnit × Sec} {gone : Nat → Prop} {s : State} (h : Kept T gone s)
include h

theorem Kept.setCtx (c : Nat) {x : Ctx} (left : x.Left (gone c)) : Kept T gone (s.setCtx c x) :=
  ⟨h.1, fun j => tblGet_tblSet_of (P := Ctx.Left (gone j)) (fun here => here ▸ left) fun _ => h.2 j⟩

/-- A context emptied, with another command interface of the same contexts. -/
theorem Kept.emptied (g : Glob) (m : Cmd) (c : Nat) (ctxs : m.ctxs = s.cmd.ctxs) :
    Kept T gone (({ s with glob := g, cmd := m } : State).setCtx c { s.ctx c with inflight := [], replies := [] }) :=
  Kept.setCtx (s := { s with glob := g, cmd := m }) ⟨h.1, (congrArg (CtxsLeft gone) ctxs).mpr h.2⟩ c (h.2 c)

theorem Kept.complete (r : CmdRef) (st : Status) (res : List Word) (aux : Status) : Kept T gone (s.complete r st res aux) := by
  have pushed (x : Reply) : Kept T gone (s.setCtx r.ctx { s.ctx r.ctx with replies := (s.ctx r.ctx).replies ++ [x] }) := h.setCtx r.ctx (h.2 r.ctx)
  exact ite_of (P := Kept T gone) (ite_of (P := Kept T gone) (pushed _) (ite_of (P := Kept T gone) (pushed _) (pushed _))) h

theorem Kept.grantWait (w : Wait) (n : Nat) : Kept T gone (s.grantWait w n) := by
  unfold State.grantWait
  cases w.who
  · exact h.complete _ _ _ _
  · exact h
  · exact h

omit h in
/-- A counter that is FREE pays nothing. -/
theorem counters_paid {t : Tbl Counter} (none_ : t = []) (c n : Nat) : tblSet {} t c { tblGet {} t c with value := (tblGet {} t c).value - n } = [] := by
  subst none_
  exact if_pos (congrArg (fun v => { ({} : Counter) with value := v }) (Nat.zero_sub n))

/-- A wait that a counter has paid for. -/
noncomputable def State.paid (s : State) (c : Nat) (w : Wait) : State :=
  let u := s.setCounter c { s.counter c with value := (s.counter c).value - w.n }
  { u with sync := { u.sync with waits := u.sync.waits.erase w } }

omit h in
theorem State.grantLoop_succ (s : State) (c n : Nat) : s.grantLoop c (n + 1) = match s.sync.waits.find? fun w => w.counter == c with
    | none => s
    | some w => if (s.counter c).value < w.n then s else ((s.paid c w).grantWait w ((s.counter c).value - w.n)).grantLoop c n := rfl

theorem Kept.paid (c : Nat) (w : Wait) : Kept T gone (s.paid c w) :=
  ⟨congrArg₂ (fun a b => (a.1, a.2, b)) (congrArg (fun x => (x.1, x.2.1)) h.1) (counters_paid (congrArg (·.2.2) h.1) c w.n), h.2⟩

theorem Kept.grantLoop (c fuel : Nat) : Kept T gone (s.grantLoop c fuel) := by
  induction fuel generalizing s with
  | zero => exact h
  | succ n ih =>
    rw [State.grantLoop_succ]
    cases s.sync.waits.find? fun w => w.counter == c with
    | none => exact h
    | some w => exact ite_of h (ih ((h.paid c w).grantWait w _))

theorem Kept.dropDecodes (c : Nat) : Kept T gone (s.dropDecodes c) :=
  List.foldlRecOn (motive := Kept T gone) (s.ppe.decodes.filter _) (fun (s : State) (d : Decode) => s.dropWork d.id) h
    fun u k d _ => (u.dropWork_frame d.id).symm ▸ k

theorem Kept.dropWaits (c : Nat) : Kept T gone (s.dropWaits c) :=
  List.foldlRecOn (motive := Kept T gone) (s.sync.waits.filter _) (fun (s : State) (w : Wait) => s.grants w.counter)
    (b := { s with sync := { s.sync with waits := _ } }) h fun _ k _ _ => k.grantLoop _ _

/-- A context that leaves has no mappings to remove. -/
theorem Kept.dropMappings (c : Nat) : Kept T gone (s.dropMappings c) :=
  (congrArg (fun l : List (Nat × MapEntry) => Kept T gone (l.foldl (fun (s : State) (m : Nat × MapEntry) => s.dropMapping c m.1) s)) (h.2 c).1).mpr h

omit h in
theorem Kept.dropTables {s : State} (c : Nat) (h : Kept T gone s) : Kept T gone ((((s.dropSeqs c).dropStreams c).dropSolves c).dropTlms c) := h

/-- A context leaves and is detached. -/
theorem Kept.detachCtx (c : Nat) : Kept T gone (s.detachCtx c) := by
  have left : Kept T gone (s.leaveCtx c) := by
    refine (Kept.dropTables c (((h.emptied _ _ c ?_).dropDecodes c).dropWaits c)).dropMappings c
    exact rfl
  exact left.setCtx c ⟨rfl, fun _ => rfl⟩

theorem Kept.dropDecodeCmds : Kept T gone s.dropDecodeCmds := Kept.setCtx (s := { s with cmd := { s.cmd with running := _ } }) h 0 (h.2 0)

theorem Kept.completes (st : Status) (rs : List CmdRef) : Kept T gone (rs.foldl (fun (s : State) r => s.complete r st) s) :=
  List.foldlRecOn (motive := Kept T gone) rs _ h fun _ h r _ => h.complete r st _ _

end

/-! ## The contexts of an unload (R325) -/

/-- One context but 0 detached, as an unload does it. -/
noncomputable def State.detachNext (s : State) (c : Nat) : State := if (s.ctx (c + 1)).state ≠ .detached then s.detachCtx (c + 1) else s

/-- The counters freed with every mapping. -/
noncomputable def State.unmapped (s : State) : State :=
  { s with sync := { s.sync with counters := [] }, cmd := { s.cmd with ctxs := tblMap {} (fun _ x => { x with vids := [] }) s.cmd.ctxs } }

/-- The waits and the commands that run are gone, without replies. -/
noncomputable def State.unawaited (s : State) : State :=
  { s with sync := { s.sync with waits := [], granted := [], images := [], reserved := 0 }, cmd := { s.cmd with running := [], leaving := [] } }

/-- What an unload makes of contexts and counters, with the commands that it answers. -/
noncomputable def State.unloadedBy (s : State) (left lost : List CmdRef) : State := lost.foldl (fun (s : State) r => s.complete r stOwnerLost)
  (left.foldl (fun (s : State) r => s.complete r stOk) ((List.range 63).foldl State.detachNext s.unmapped).dropDecodeCmds).unawaited

theorem State.unloadContexts_eq (s : State) : ∃ left lost, s.unloadContexts = s.unloadedBy left lost := by
  unfold State.unloadContexts State.unloadedBy
  generalize List.range 63 = cs
  exact ⟨_, _, rfl⟩

theorem State.waits_unloadedBy (s : State) (left lost : List CmdRef) : (s.unloadedBy left lost).sync.waits = [] :=
  List.foldlRecOn (motive := fun u : State => u.sync.waits = []) lost _ rfl fun u none_ r _ =>
    (u.complete_frame r stOwnerLost [] 0).elim fun _ frame => (congrArg (fun v : State => v.sync.waits) frame).trans none_

theorem State.unmapped_kept (s : State) : Kept (s.time, s.sec) (fun _ => False) s.unmapped :=
  ⟨rfl, tblGet_tblMap_of (P := Ctx.Left False) ⟨rfl, False.elim⟩ (fun _ _ => ⟨rfl, False.elim⟩) s.cmd.ctxs⟩

theorem Kept.unawaited {T : TimeUnit × Sec} {gone : Nat → Prop} {s : State} (h : Kept T gone s) : Kept T gone s.unawaited := h

theorem Kept.detachNext {T : TimeUnit × Sec} {gone : Nat → Prop} {s : State} (h : Kept T gone s) (c : Nat) : Kept T gone (s.detachNext c) :=
  ite_of (h.detachCtx _) h

/-- A context that is detached. -/
theorem Kept.gone {T : TimeUnit × Sec} {s : State} {c : Nat} (h : Kept T (fun _ => False) s) (away : (s.ctx c).state = .detached) : Kept T (· = c) s :=
  ⟨h.1, fun j => ⟨(h.2 j).1, fun here => here ▸ away⟩⟩

theorem Kept.detached {T : TimeUnit × Sec} {s : State} (h : Kept T (fun _ => False) s) (c : Nat) : Kept T (· = c + 1) (s.detachNext c) :=
  iteInduction (fun _ => (h.detachCtx _).gone (congrArg Ctx.state ((State.ctx_setCtx _ _ _ {}).trans (if_pos rfl)))) fun away => h.gone (not_not.1 away)

/-- What an unload makes of contexts and counters. -/
theorem State.unloadedBy_kept (s : State) (left lost : List CmdRef) {j : Nat} (low : j < 63) :
    Kept (s.time, s.sec) (· = j + 1) (s.unloadedBy left lost) := by
  have detached := foldl_reaches (f := State.detachNext) (fun _ c h => h.detachNext c) (fun _ c h => h.detachNext c) (fun _ h => h.detached j)
    (List.mem_range.2 low) s.unmapped_kept
  exact Kept.completes (Kept.unawaited (detached.dropDecodeCmds.completes stOk left)) stOwnerLost lost

/-! ## Domains (R280) and streams (R181) -/

/-- A domain after an unload. -/
def Domain.Unloaded (k : Nat) (x : Domain) : Prop := (k = 0 → x.state = .run ∧ x.active.period = 20000) ∧ (1 ≤ k → x.state = .idle)

/-- What an unload keeps of a domain: its counters and its captures. -/
noncomputable def Domain.idled (x : Domain) : Domain :=
  { skipCnt := x.skipCnt, holdCnt := x.holdCnt, snapPhase := x.snapPhase, snapNs := x.snapNs, snapSecLo := x.snapSecLo, snapSecHi := x.snapSecHi }

theorem State.unloadTime_doms (s : State) : ∃ d0 : Domain, (d0.state = .run ∧ d0.active.period = 20000) ∧
    s.unloadTime.time.doms = ((List.range 7).map fun d => (d + 1, (s.dom (d + 1)).idled)).foldl (fun t e => tblSet {} t e.1 e.2) (tblSet {} [] 0 d0) :=
  ⟨_, ⟨rfl, rfl⟩, rfl⟩

theorem State.idled_unloaded (s : State) (e : Nat × Domain) (listed : e ∈ (List.range 7).map fun d => (d + 1, (s.dom (d + 1)).idled)) : e.2.Unloaded e.1 :=
  (List.forall_mem_map (P := fun e : Nat × Domain => e.2.Unloaded e.1)).2 (fun d _ => ⟨fun first => absurd first (Nat.succ_ne_zero d), fun _ => rfl⟩) e listed

theorem State.dom_unloadTime (s : State) (k : Nat) : (s.unloadTime.dom k).Unloaded k := by
  obtain ⟨d0, first, doms⟩ := s.unloadTime_doms
  refine (congrArg (fun t : Tbl Domain => (tblGet ({} : Domain) t k).Unloaded k) doms).mpr
    (List.foldlRecOn (motive := fun t : Tbl Domain => (tblGet ({} : Domain) t k).Unloaded k) _ _ ?_ fun _ before e listed =>
      tblGet_tblSet_of (fun here => here ▸ s.idled_unloaded e listed) fun _ => before)
  exact tblGet_tblSet_of (P := Domain.Unloaded k) (fun here => ⟨fun _ => first, fun low => absurd here (Nat.ne_of_gt low)⟩)
    fun other => ⟨fun here => absurd here other, fun _ => rfl⟩

/-- Of the streams only the image's are left, about to leave. -/
theorem Streams.unloaded_image (x : Streams) (k : Nat) : (tblGet {} x.unloaded.ents k).valid = true →
    (tblGet {} x.unloaded.ents k).image = true ∧ (tblGet {} x.unloaded.ents k).dropped = true :=
  tblGet_tblMap_of (P := fun y : Strm => y.valid = true → y.image = true ∧ y.dropped = true) 
    (f := fun _ y => if y.image then { y with dropped := true } else {})
    (fun valid => absurd valid Bool.false_ne_true)
    (fun _ _ => iteInduction (motive := fun y : Strm => y.valid = true → y.image = true ∧ y.dropped = true) (fun image _ => ⟨image, rfl⟩)
      fun _ valid => absurd valid Bool.false_ne_true) x.ents k

/-! ## The commands -/

/-- What an unload does once the contexts have left. -/
noncomputable def State.unloadRest (s : State) : State :=
  let s := s.unloadTime.unloadBlocks.quietCompute
  State.measure { s with
    image := none, glob := { s.glob with imageLoaded := false, lmap := [] }, safe := { s.safe with selftest := [], messages := [] },
    pwr := { s.pwr with drained := 0, draining := 0, drainCmd := [], repairCmd := [], resumeCmd := [], rebound := [], partImage := [], floor := 0 } }
    4 (BitVec.allOnes 512)

/-- What an unload leaves. -/
def Unloaded (s u : State) : Prop :=
  u.image = none ∧ u.glob.imageLoaded = false ∧ (∀ k, 1 ≤ k → k < 64 → (u.ctx k).state = .detached) ∧ (∀ k, (u.counter k).state = .free) ∧
    u.sync.waits = [] ∧ (u.dom 0).state = .run ∧ (u.dom 0).active.period = 20000 ∧ u.sched.builtin = true ∧ (∀ d, 1 ≤ d → (u.dom d).state = .idle) ∧
    u.cte.loops = [] ∧ u.srv.ents = [] ∧ (∀ k, (u.stream k).valid = true → (u.stream k).image = true ∧ (u.stream k).dropped = true) ∧
    u.slv.probs = [] ∧ u.time.cnt = s.time.cnt ∧ u.sec.mram = s.sec.mram

theorem State.unloadRest_unloaded {s v : State} (waits : v.sync.waits = []) (left : ∀ j < 63, Kept (s.time, s.sec) (· = j + 1) v) :
    Unloaded s v.unloadRest :=
  have same := (left 0 (Nat.succ_pos 62)).1
  ⟨rfl, rfl, fun k low high => Nat.sub_add_cancel low ▸ ((left (k - 1) (Nat.sub_lt_right_of_lt_add low high)).2 _).2 rfl,
    fun k => congrArg (fun x : TimeUnit × Sec × Tbl Counter => (tblGet ({} : Counter) x.2.2 k).state) same, waits, ((v.dom_unloadTime 0).1 rfl).1, ((v.dom_unloadTime 0).1 rfl).2,
    rfl, fun d => (v.dom_unloadTime d).2, rfl, rfl, v.unloadTime.strm.unloaded_image, rfl, congrArg (fun x => x.1.cnt) same, congrArg (fun x => x.2.1.mram) same⟩

theorem State.unloadImage_unloaded (s : State) : Unloaded s s.unloadImage := by
  obtain ⟨left, lost, eq⟩ := s.unloadContexts_eq
  exact (congrArg (fun v : State => Unloaded s v.unloadRest) eq).mpr (State.unloadRest_unloaded (s.waits_unloadedBy left lost) fun _ => s.unloadedBy_kept left lost)

/-- What IMG_UNLOAD does. -/
noncomputable def State.imgUnload (s : State) (r : CmdRef) : State := (if s.glob.imageLoaded then s.unloadImage else s).replyNow r

theorem unloadDone {i : Instr} {s v : State} {r : CmdRef} (run : exec i s = .next (v.imgUnload r)) (eq : ∃ m, v = s.withCmd m) :
    (s.glob.imageLoaded = true → ∃ u : State, exec i s = .next (u.complete r stOk []) ∧ Unloaded s u) ∧
      (s.glob.imageLoaded = false → exec i s = .next (v.complete r stOk [])) := by
  obtain ⟨m, rfl⟩ := eq
  exact ⟨fun loaded => ⟨_, run.trans (congrArg (fun u : State => Host.Outcome.next (u.complete r stOk [])) (if_pos loaded)), (s.withCmd m).unloadImage_unloaded⟩,
    fun unloaded => run.trans (congrArg (fun u : State => Host.Outcome.next (u.complete r stOk [])) (if_neg (Bool.eq_false_iff.1 unloaded)))⟩

/-- The words that IMG_QUERY gives. -/
noncomputable def imageWords : Option Image → List Word
  | none => [0, 0, 0, 0]
  | some i => [w32 i.ident.toNat, w32 (i.ident.toNat / 2 ^ 32), w32 i.regions, w32 i.packages]

theorem imgQueryDone {i : Instr} {s v : State} {r : CmdRef} (run : exec i s = .next (v.replyNow r (imageWords v.image))) (eq : ∃ m, v = s.withCmd m)
    {x : Option Image} (image : s.image = x) : exec i s = .next (v.complete r stOk (imageWords x)) := by
  obtain ⟨m, rfl⟩ := eq
  exact image ▸ run

/-- Settles O44: what an unload does to the contexts (`State.unloadedBy_kept`), the domains (`State.dom_unloadTime`) and the streams
(`Streams.unloaded_image`); the other blocks it empties. -/
theorem imageUnloads : Obligations.ImageUnloads := fun s c p =>
  have unload (starts : s.Starts c p 0x0202) (checked : chkImgUnload s c = none) :=
    unloadDone (exec_of_command (i := .imgUnload c p) (run := State.imgUnload) rfl starts checked) (State.begin_frame ..)
  have query (starts : s.Starts c p 0x0203) (checked : chkImgQuery c = none) {x : Option Image} :=
    imgQueryDone (x := x) (exec_of_command (i := .imgQuery c p) (run := fun v r => v.replyNow r (imageWords v.image)) rfl starts checked) (State.begin_frame ..)
  ⟨fun starts checked => (unload starts checked).1, fun starts checked => (unload starts checked).2,
    fun starts checked => ⟨query starts checked, fun _ => query starts checked⟩⟩

end Sys2Proof.Machine
end

section
/-! PROOFS. Faults of axis groups (R234, R374, R380), what a latch does to a slot (R229, R244), and fault inputs (R241). -/
namespace Sys2Proof.Machine

/-! ## One group -/

/-- A state with another control engine. -/
noncomputable def State.withCte (s : State) (x : Cte) : State := { s with cte := x }

theorem State.loop_setLoop_self (s : State) (n : Nat) (x : Loop) : (s.setLoop n x).loop n = x := (s.loop_setLoop n n x).trans (if_pos rfl)

/-- A slot that has entered FAULT. -/
noncomputable def Loop.faulted (l : Loop) : Loop := { l with state := .fault, opening := false, next := none, first := false }

/-- A slot that is not OFF enters FAULT. -/
noncomputable def State.faultSlot (s : State) (n : Nat) : State := if (s.loop n).state = .off then s else s.setLoop n (s.loop n).faulted

theorem State.loop_faultSlot_of {P : Loop → Prop} {s : State} {n k : Nat} (here : k = n → P (s.loop n).faulted) (other : P (s.loop k)) :
    P ((s.faultSlot n).loop k) :=
  ite_of (P := fun u : State => P (u.loop k)) other (tblGet_tblSet_of (P := P) here fun _ => other)

theorem State.loop_faultSlot_self {s : State} {n : Nat} (on : (s.loop n).state ≠ .off) : (s.faultSlot n).loop n = (s.loop n).faulted :=
  (congrArg (State.loop · n) (if_neg on)).trans (s.loop_setLoop_self n _)

/-- A group that has taken the cause of its fault. -/
noncomputable def Group.marked (x : Group) (cause : Nat) : Group := { x with fault := true, cause := cause, ack := false }

/-- The slots of a group that has taken a cause enter FAULT. -/
noncomputable def State.faultSlots (s : State) (g cause : Nat) : State := (s.group g).slots.foldl State.faultSlot (s.setGroup g ((s.group g).marked cause))

theorem State.faultGroupOnly_faults {s : State} {g : Nat} (new : ((s.group g).valid && !(s.group g).fault) = true) (cause : Nat) :
    s.faultGroupOnly g cause = s.faultSlots g cause :=
  (if_pos new).trans (List.foldl_map (f := ((s.group g).first + ·)) (g := State.faultSlot)).symm

theorem State.faultGroupOnly_stays {s : State} {g : Nat} (faulty : (s.group g).fault = true) (cause : Nat) : s.faultGroupOnly g cause = s :=
  if_neg fun h => Bool.false_ne_true ((congrArg not faulty).symm.trans (Bool.and_eq_true_iff.1 h).2)

theorem State.faultSlots_group (s : State) (g cause q : Nat) : (s.faultSlots g cause).group q = (s.setGroup g ((s.group g).marked cause)).group q :=
  List.foldlRecOn (motive := fun u : State => u.group q = (s.setGroup g ((s.group g).marked cause)).group q) _ _ rfl
    fun _ h _ _ => ite_of (P := fun u : State => u.group q = _) h h

theorem State.faultSlots_group_self (s : State) (g cause : Nat) : (s.faultSlots g cause).group g = (s.group g).marked cause :=
  (s.faultSlots_group g cause g).trans ((s.group_setGroup g g _).trans (if_pos rfl))

theorem State.faultSlots_frame (s : State) (g cause : Nat) : s.faultSlots g cause = s.withCte (s.faultSlots g cause).cte :=
  List.foldlRecOn (motive := fun u : State => u = s.withCte u.cte) _ _ rfl
    fun u h n _ => ite_of (P := fun u : State => u = s.withCte u.cte) h (congrArg (fun w : State => w.withCte (u.setLoop n (u.loop n).faulted).cte) h :)

/-- A slot in FAULT without a pending output. -/
def Loop.InFault (l : Loop) : Prop := l.state = .fault ∧ l.next = none

theorem State.faultSlots_inside {s : State} {g n : Nat} (cause : Nat) (member : n ∈ (s.group g).slots) (on : (s.loop n).state ≠ .off) :
    ((s.faultSlots g cause).loop n).InFault :=
  foldl_reaches (f := State.faultSlot) (P := fun u => (u.loop n).state ≠ .off) (S := fun u => (u.loop n).InFault)
    (fun _ _ h => State.loop_faultSlot_of (P := fun l => l.state ≠ .off) (fun _ => nofun) h)
    (fun _ _ h => State.loop_faultSlot_of (P := Loop.InFault) (fun _ => ⟨rfl, rfl⟩) h)
    (fun _ h => (State.loop_faultSlot_self h).symm ▸ ⟨rfl, rfl⟩) member on

theorem State.faultSlots_outside {s : State} {g n : Nat} (cause : Nat) (outside : n ∉ (s.group g).slots) : (s.faultSlots g cause).loop n = s.loop n :=
  List.foldlRecOn (motive := fun u : State => u.loop n = s.loop n) _ _ rfl fun _ h _ listed =>
    State.loop_faultSlot_of (P := (· = s.loop n)) (fun here => absurd (here ▸ listed) outside) h

/-- What a fault does to a group and its slots. -/
def GroupFaulted (s : State) (g cause : Nat) (u : State) : Prop :=
  (u.group g).fault = true ∧ (u.group g).cause = cause ∧ (∀ n ∈ (s.group g).slots, (s.loop n).state ≠ .off → (u.loop n).InFault) ∧
    (∀ n, n ∉ (s.group g).slots → u.loop n = s.loop n) ∧ (∀ q, q ≠ g → u.group q = s.group q) ∧ u = s.withCte u.cte

theorem State.faultSlots_faulted (s : State) (g cause : Nat) : GroupFaulted s g cause (s.faultSlots g cause) :=
  ⟨congrArg Group.fault (s.faultSlots_group_self g cause), congrArg Group.cause (s.faultSlots_group_self g cause), fun _ => State.faultSlots_inside cause,
    fun _ => State.faultSlots_outside cause, fun q other => (s.faultSlots_group g cause q).trans ((s.group_setGroup g q _).trans (if_neg other)),
    s.faultSlots_frame g cause⟩

/-- A group that faults, and one that is in FAULT already. -/
theorem groupFaults : Claims.GroupFaults := fun s g cause valid =>
  ⟨fun sound => (congrArg (GroupFaulted s g cause) (State.faultGroupOnly_faults (Bool.and_eq_true_iff.2 ⟨valid, congrArg not sound⟩) cause)).mpr (s.faultSlots_faulted g cause),
    fun faulty => State.faultGroupOnly_stays faulty cause⟩

/-! ## Every group -/

/-- What a fault of a group keeps of the control engine: the mark of a group, a slot that enters FAULT, and INVALID. -/
def FaultStable (P : Cte → Prop) : Prop :=
  (∀ (s : State) (g cause : Nat), P s.cte → P (s.setGroup g ((s.group g).marked cause)).cte) ∧
    (∀ (s : State) (n : Nat), P s.cte → P (s.setLoop n (s.loop n).faulted).cte) ∧
    ∀ (s : State) (g : Nat), P s.cte → P (s.setGroup g { s.group g with invalid := true }).cte

section
variable {P : Cte → Prop} (stable : FaultStable P) {s : State} (h : P s.cte)
include stable h

theorem State.faultGroupOnly_keeps (g cause : Nat) : P (s.faultGroupOnly g cause).cte :=
  ite_of (P := fun u : State => P u.cte) (List.foldlRecOn (motive := fun u : State => P u.cte) _ _ (stable.1 s g cause h)
    fun u k _ _ => ite_of (P := fun u : State => P u.cte) k (stable.2.1 u _ k)) h

theorem State.faultPartGroups_keeps (p : Nat) : P (s.faultPartGroups p).cte := by
  unfold State.faultPartGroups
  generalize List.range 16 = gs
  exact List.foldlRecOn (motive := fun u : State => P u.cte) gs _ h fun _ k g _ => ite_of (P := fun u : State => P u.cte)
    (ite_of (P := fun u : State => P u.cte) (stable.2.2 _ g (State.faultGroupOnly_keeps stable k g 7)) (State.faultGroupOnly_keeps stable k g 7)) k

omit stable h in
theorem State.sendMessages_cte (s : State) (named : MsgCfg → Bool) (code : Nat) : (s.sendMessages named code).cte = s.cte :=
  List.foldlRecOn (motive := fun u : State => u.cte = s.cte) _ _ rfl fun _ h _ _ => ite_of (P := fun u : State => u.cte = s.cte) h h

theorem State.enterPart_keeps (p code : Nat) : P (s.enterPart p code).cte := by
  unfold State.enterPart
  refine ite_of (P := fun u : State => P u.cte) h ?_
  rw [State.sendMessages_cte]
  apply State.faultPartGroups_keeps stable
  exact h

theorem State.enterPackage_keeps (code : Nat) : P (s.enterPackage code).cte := by
  have sent (u : State) : ((u.sendMessages (fun _ => true) code).drivePins).cte = u.cte := State.sendMessages_cte u _ code
  unfold State.enterPackage
  generalize List.range 8 = ps
  rw [sent]
  exact List.foldlRecOn (motive := fun u : State => P u.cte) ps _ h fun _ k p _ => State.faultPartGroups_keeps stable k p

omit stable h in
/-- A state in which a Reset event has latched the package. -/
noncomputable def State.latchReset (s : State) (code : Nat) : State :=
  if eventReset code then { s with safe := { s.safe with latched := true } } else s

/-- What a fault of a group keeps of the control engine, a safety event keeps. -/
theorem State.raiseAt_keeps (code part detail lvl : Nat) : P (s.raiseAt code part detail lvl).cte := by
  have choose {c : Prop} [Decidable c] {u v : State} : P u.cte → P v.cte → P (if c then u else v).cte := ite_of (P := fun u : State => P u.cte)
  have answer (u v : State) (hu : P u.cte) (hv : P v.cte) (k : Nat) (ps : List Nat) (evt : SafeEvt) :
      P (if k = 2 then
        if v.safe.package then
          (if v.mark.safe.package then (if eventReset code then v.holdEvent 8 evt else v) else (v.setCause code 2 part).holdEvent 8 evt)
        else ((v.setCause code 2 part).holdEvent 8 evt).enterPackage code
      else if k = 1 then
        if u.partSafe part then
          (if u.mark.safe.package || maskBit u.mark.safe.parts part then u else (u.setCause code 1 part).holdEvent part evt)
        else (ps.foldl (fun s p => s.enterPart p code) ((u.setCause code 1 part).holdEvent part evt)).drivePins
      else u : State).cte :=
    choose (choose (choose (choose hv hv) hv) (State.enterPackage_keeps stable (s := (v.setCause code 2 part).holdEvent 8 evt) hv code))
      (choose (choose (choose hu hu) (List.foldlRecOn (motive := fun u : State => P u.cte) ps _ (b := (u.setCause code 1 part).holdEvent part evt) hu
        fun _ k p _ => State.enterPart_keeps stable k p code)) hu)
  let k := if lvl = 1 ∧ part ≥ 8 then 0 else lvl
  let u := s.logEvent code k (if k = 2 then 0xFF else part) detail
  exact answer u (u.latchReset code) h (choose h h) k _ _

theorem State.faultGroup_keeps (g cause : Nat) : P (s.faultGroup g cause).cte :=
  ite_of (P := fun u : State => P u.cte) (State.raiseAt_keeps stable (State.faultGroupOnly_keeps stable h g cause) _ _ _ _) h

end

/-- What a fault keeps of every group and of every slot, it keeps of one of each. -/
theorem FaultStable.of {Q : Group → Prop} {R : Loop → Prop} (mark : ∀ x cause, Q x → Q (x.marked cause))
    (invalid : ∀ x : Group, Q x → Q { x with invalid := true }) (slot : ∀ l, R l → R l.faulted) (g n : Nat) :
    FaultStable fun c => Q (tblGet {} c.groups g) ∧ R (tblGet {} c.loops n) :=
  ⟨fun _ _ cause => And.imp_left fun k => tblGet_tblSet_of (fun here => mark _ cause (here ▸ k)) fun _ => k,
    fun _ _ => And.imp_right fun k => tblGet_tblSet_of (fun here => slot _ (here ▸ k)) fun _ => k,
    fun _ _ => And.imp_left fun k => tblGet_tblSet_of (fun here => invalid _ (here ▸ k)) fun _ => k⟩

/-- A group in FAULT stays so. -/
theorem FaultStable.fault (g : Nat) : FaultStable fun c => (tblGet {} c.groups g).fault = true ∧ True :=
  FaultStable.of (Q := fun x => x.fault = true) (R := fun _ => True) (fun _ _ _ => rfl) (fun _ k => k) (fun _ k => k) g 0

/-- A declared group is in FAULT after its fault. -/
theorem State.fault_faultGroup {s : State} {g : Nat} (valid : (s.group g).valid = true) (cause : Nat) :
    ((s.faultGroup g cause).group g).fault = true :=
  iteInduction (motive := fun u : State => (u.group g).fault = true)
    (fun new => (State.raiseAt_keeps (FaultStable.fault g) (s := s.faultGroupOnly g cause)
      ⟨(congrArg (fun u : State => (u.group g).fault) (State.faultGroupOnly_faults new cause)).trans (congrArg Group.fault (s.faultSlots_group_self g cause)), trivial⟩ _ _ _ _).1)
    fun old => Bool.eq_true_of_not_eq_false fun sound => old (Bool.and_eq_true_iff.2 ⟨valid, congrArg not sound⟩)

/-! ## The latch (R229, R244) -/

/-- A slot at a latch by its state. -/
noncomputable def Loop.latched (l : Loop) (acked : Bool) : LoopState → Loop
  | .fault => if acked then { l with state := .open_, holdRun := 0, feRun := 0, staleRun := 0, first := false, opening := false } else l
  | .closing => { l with state := .closed, first := true, opening := false }
  | .closed => if l.opening then { l with state := .open_, opening := false, first := false, holdRun := 0, feRun := 0 } else l
  | _ => { l with opening := false }

/-- A slot at a latch, without a pending output. -/
noncomputable def Loop.cleared (l : Loop) : Loop := { l with next := none, openVal := l.coef 13 }

theorem Loop.latched_clears (l : Loop) (acked : Bool) (st : LoopState) : (l.latched acked st).next = l.next ∧ (l.latched acked st).openVal = l.openVal := by
  cases st with
  | fault => exact ite_of (P := fun k : Loop => k.next = l.next ∧ k.openVal = l.openVal) ⟨rfl, rfl⟩ ⟨rfl, rfl⟩
  | closed => exact ite_of (P := fun k : Loop => k.next = l.next ∧ k.openVal = l.openVal) ⟨rfl, rfl⟩ ⟨rfl, rfl⟩
  | closing => exact ⟨rfl, rfl⟩
  | open_ => exact ⟨rfl, rfl⟩
  | off => exact ⟨rfl, rfl⟩

/-- A latch gives every state of a slot its successor. -/
theorem slotLatch : Claims.SlotLatch := fun l acked =>
  have latch {st : LoopState} := congrArg (a₁ := l.state) (a₂ := st) (l.cleared.latched acked)
  ⟨fun h => ⟨congrArg Loop.state (latch h), congrArg Loop.first (latch h)⟩, fun h o => congrArg Loop.state ((latch h).trans (if_pos o)),
    fun h o => (congrArg Loop.state ((latch h).trans (if_neg (Bool.eq_false_iff.1 o)))).trans h, fun h => (congrArg Loop.state (latch h)).trans ((apply_ite Loop.state ..).trans (congrArg (fun st => if acked then LoopState.open_ else st) h)),
    fun h => (congrArg Loop.state (latch h)).trans h, fun h => (congrArg Loop.state (latch h)).trans h, l.cleared.latched_clears acked l.state⟩

/-! ## Fault inputs -/

/-- A group that owns an output of a fault input's pairs faults. -/
noncomputable def State.faultOwner (outs : List Nat) (s : State) (g : Nat) : State :=
  if (s.group g).valid && (s.group g).slots.any (fun n => (s.loop n).outKind == 1 && outs.contains (s.loop n).outIdx) then s.faultGroup g 5 else s

theorem SafeFrame.mio_eq {s u : State} (h : SafeFrame s u) : u.mio = s.mio := by rw [h.eq]

theorem State.faultOwners_mio (outs gs : List Nat) (s : State) : (gs.foldl (State.faultOwner outs) s).mio = s.mio :=
  List.foldlRecOn (motive := fun u : State => u.mio = s.mio) gs _ rfl
    fun _ h g _ => ite_of (P := fun u : State => u.mio = s.mio) ((State.faultGroup_frame _ g 5).mio_eq.trans h) h

/-- A group whose slot has one of some outputs. -/
def Owns (outs : List Nat) (g n : Nat) (c : Cte) : Prop :=
  ((tblGet {} c.groups g).valid = true ∧ n ∈ (tblGet {} c.groups g).slots) ∧ (tblGet {} c.loops n).outKind = 1 ∧ (tblGet {} c.loops n).outIdx ∈ outs

theorem Owns.stable (outs : List Nat) (g n : Nat) : FaultStable (Owns outs g n) :=
  FaultStable.of (Q := fun x => x.valid = true ∧ n ∈ x.slots) (R := fun l => l.outKind = 1 ∧ l.outIdx ∈ outs) (fun _ _ k => k) (fun _ k => k) (fun _ k => k) g n

theorem State.faultOwner_owned {s : State} {outs : List Nat} {g n : Nat} (owns : Owns outs g n s.cte) : s.faultOwner outs g = s.faultGroup g 5 :=
  if_pos (Bool.and_eq_true_iff.2 ⟨owns.1.1, List.any_eq_true.2 ⟨n, owns.1.2, Bool.and_eq_true_iff.2 ⟨beq_iff_eq.2 owns.2.1, List.contains_iff_mem.2 owns.2.2⟩⟩⟩)

/-- A fold over the groups faults the owner of an output that is driven SAFE. -/
theorem State.faultOwners_faults {s : State} {outs : List Nat} {g n : Nat} (owns : Owns outs g n s.cte) {gs : List Nat} (listed : g ∈ gs) :
    ((gs.foldl (State.faultOwner outs) s).group g).fault = true := by
  have keeps {P : Cte → Prop} (stable : FaultStable P) (u : State) (q : Nat) (h : P u.cte) : P (u.faultOwner outs q).cte :=
    ite_of (P := fun v : State => P v.cte) (State.faultGroup_keeps stable h q 5) h
  exact (foldl_reaches (f := State.faultOwner outs) (keeps (Owns.stable outs g n)) (keeps (FaultStable.fault g))
    (fun u h => ⟨(congrArg (fun v : State => (v.group g).fault) (State.faultOwner_owned h)).trans (State.fault_faultGroup h.1.1 5), trivial⟩) listed owns).1

/-- An output driven SAFE by a fault input. -/
noncomputable def State.forceSafe (s : State) (o : Nat) : State := s.setPwm o { s.pwm o with drive := .safe }

/-- An input recorded as asserted now and seen since the last clear. -/
noncomputable def State.inputSeen (s : State) (f : Nat) : State :=
  { s with mio := { s.mio with fltState := maskSet s.mio.fltState f, fltSeen := maskSet s.mio.fltSeen f } }

theorem State.inputForces_leaves (s : State) (outs : List Nat) :
    ((outs.foldl State.forceSafe s).cte, (outs.foldl State.forceSafe s).mio.fltState, (outs.foldl State.forceSafe s).mio.fltSeen) =
      (s.cte, s.mio.fltState, s.mio.fltSeen) :=
  List.foldlRecOn (motive := fun u : State => (u.cte, u.mio.fltState, u.mio.fltSeen) = (s.cte, s.mio.fltState, s.mio.fltSeen)) outs _ rfl fun _ h _ _ => h

theorem State.drive_inputForces (s : State) {outs : List Nat} {o : Nat} (member : o ∈ outs) : ((outs.foldl State.forceSafe s).pwm o).drive = .safe :=
  foldl_reaches (f := State.forceSafe) (P := fun _ => True) (S := fun u : State => (u.pwm o).drive = .safe) (fun _ _ h => h)
    (fun _ _ h => tblGet_tblSet_of (P := fun x : Pwm => x.drive = .safe) (fun _ => rfl) fun _ => h)
    (fun _ _ => tblGet_tblSet_of (P := fun x : Pwm => x.drive = .safe) (fun _ => rfl) (absurd rfl)) member trivial

theorem State.pwm_inputForces (s : State) {outs : List Nat} {o : Nat} (outside : o ∉ outs) : (outs.foldl State.forceSafe s).pwm o = s.pwm o :=
  List.foldlRecOn (motive := fun u : State => u.pwm o = s.pwm o) outs State.forceSafe rfl fun _ h _ listed =>
    tblGet_tblSet_of (P := (· = s.pwm o)) (fun here => absurd (here ▸ listed) outside) fun _ => h

theorem maskBit_maskSet_self {w : Nat} (m : BitVec w) {i : Nat} (inside : i < w) : maskBit (maskSet m i) i = true :=
  (maskBit_maskSet m i i).trans ((congrArg _ (decide_eq_true ⟨inside, rfl⟩)).trans (Bool.or_true _))

/-- What an asserted fault input does. -/
def InputAsserted (f : Nat) (outs : List Nat) (s u : State) : Prop :=
  maskBit u.mio.fltState f = true ∧ maskBit u.mio.fltSeen f = true ∧ (∀ o ∈ outs, (u.pwm o).drive = .safe) ∧ (∀ o, o ∉ outs → u.pwm o = s.pwm o) ∧
    ∀ g n, g < 16 → (s.group g).valid = true → n ∈ (s.group g).slots → (s.loop n).outKind = 1 → (s.loop n).outIdx ∈ outs → (u.group g).fault = true

theorem inputAsserted (s : State) {f : Nat} (known : f < 16) (outs : List Nat) :
    InputAsserted f outs s ((List.range 16).foldl (State.faultOwner outs) (outs.foldl State.forceSafe (s.inputSeen f))) := by
  have mio := State.faultOwners_mio outs (List.range 16) (outs.foldl State.forceSafe (s.inputSeen f))
  have left := (s.inputSeen f).inputForces_leaves outs
  have pwm (o : Nat) := congrArg (fun m : Mio => tblGet ({} : Pwm) m.pwms o) mio
  exact ⟨(congrArg (fun m : Mio => maskBit m.fltState f) mio).trans ((congrArg (fun x => maskBit x.2.1 f) left).trans (maskBit_maskSet_self _ known)),
    (congrArg (fun m : Mio => maskBit m.fltSeen f) mio).trans ((congrArg (fun x => maskBit x.2.2 f) left).trans (maskBit_maskSet_self _ known)),
    fun o member => (congrArg Pwm.drive (pwm o)).trans (State.drive_inputForces _ member), fun o outside => (pwm o).trans (State.pwm_inputForces _ outside),
    fun g n low valid member kind index => State.faultOwners_faults (n := n)
      ((congrArg (Owns outs g n) (congrArg Prod.fst left)).mpr ⟨⟨valid, member⟩, kind, index⟩) (List.mem_range.2 low)⟩

theorem exec_faultInputAssert {s : State} (t : Nat) {f : Nat} (hp : s.powered = true) (known : f < 16)
    (used : (tblGet 0 s.mio.flts f).toNat % 2 ^ 24 ≠ 0) : exec (.faultInputAssert t f) s = .next
      ((List.range 16).foldl (State.faultOwner (fltOuts (tblGet 0 s.mio.flts f)))
        ((fltOuts (tblGet 0 s.mio.flts f)).foldl State.forceSafe ((s.advance t).inputSeen f))) :=
  congrArg Host.Outcome.next (if_neg (Bool.eq_false_iff.1
    (Bool.or_eq_false_iff.2 ⟨Bool.or_eq_false_iff.2 ⟨congrArg not hp, decide_eq_false used⟩, decide_eq_false (Nat.not_le.2 known)⟩)))

/-- Fault inputs. -/
theorem faultInputs : Claims.FaultInputs := fun s t _ hp known used =>
  ⟨⟨_, exec_faultInputAssert t hp known used, inputAsserted (s.advance t) known _⟩, congrArg Host.Outcome.next (if_pos hp)⟩

/-- Settles O33: a safety event makes groups fault and changes nothing else of them (`State.raiseAt_keeps`). -/
theorem groupsAndFaults : Obligations.GroupsAndFaults := ⟨slotLatch, groupFaults, faultInputs⟩

end Sys2Proof.Machine
end

section
/-! PROOFS. The slot commands and coefficient writes (R229, R231, R235, R243, R244). -/
namespace Sys2Proof.Machine

/-! ## A slot and its channel B (R235) -/

/-- A step that changes the control engine alone, and of its slots one. -/
def OnlySlot (m : Nat) (v u : State) : Prop := u = v.withCte u.cte ∧ ∀ k, k ≠ m → u.loop k = v.loop k

theorem OnlySlot.refl {m : Nat} {v : State} : OnlySlot m v v := ⟨rfl, fun _ _ => rfl⟩

theorem OnlySlot.setLoop {m : Nat} {v : State} {x : Loop} : OnlySlot m v (v.setLoop m x) :=
  ⟨rfl, fun k other => (v.loop_setLoop m k x).trans (if_neg other)⟩

/-- No slot outside the pair `ns` and nothing but the control engine changed. -/
def PairFrame (ns : List Nat) (s v u : State) : Prop := (∀ k, k ∉ ns → u.loop k = s.loop k) ∧ u = v.withCte u.cte

/-- What an operation on the slots `ns` of a pair leaves: its first slot as the operation on it alone does. -/
def OnPair (ns : List Nat) (n : Nat) (v first u : State) : Prop := u.loop n = first.loop n ∧ PairFrame ns v v u

theorem OnlySlot.one {n : Nat} {v u : State} (h : OnlySlot n v u) : OnPair [n] n v u u :=
  ⟨rfl, fun k outside => h.2 k (List.ne_of_not_mem_cons outside), h.1⟩

theorem OnlySlot.two {n : Nat} {v u w : State} (h : OnlySlot n v u) (h' : OnlySlot (n + 1) u w) : OnPair [n, n + 1] n v u w :=
  ⟨h'.2 n (Nat.succ_ne_self n).symm,
    fun k outside => (h'.2 k (List.ne_of_not_mem_cons (List.not_mem_of_not_mem_cons outside))).trans (h.2 k (List.ne_of_not_mem_cons outside)),
    h'.1.trans (congrArg (fun x : State => x.withCte w.cte) h.1 :)⟩

theorem State.foldl_pairOf {f : State → Nat → State} (own : ∀ v m, OnlySlot m v (f v m)) (v : State) (n : Nat) :
    OnPair (v.pairOf n) n v (f v n) ((v.pairOf n).foldl f v) := by
  unfold State.pairOf
  cases v.groupOf n with
  | none => exact (own v n).one
  | some g => exact ite_of (P := fun ns => OnPair ns n v (f v n) (ns.foldl f v)) ((own v n).two (own _ _)) (own v n).one

/-! ## Commands on a pair -/

/-- What a command does to a slot and its channel B: `Q` relates its cycle, the slot before and the slot after it. -/
def PairDone (Q : Nat → Loop → Loop → Prop → Prop) (i : Instr) (n : Nat) (s : State) (b : State × CmdRef) : Prop :=
  ∃ u : State, exec i s = .next (u.complete b.2 stOk []) ∧
    Q (s.time.cnt / 2) (s.loop n) (u.loop n) (PairFrame (s.pairOf n) s b.1 u)

/-- A command that does `f` to a slot and its channel B. -/
noncomputable def State.onPair (f : State → Nat → State) (n : Nat) (s : State) (r : CmdRef) : State := ((s.pairOf n).foldl f s).complete r stOk []

theorem pairDone {Q : Nat → Loop → Loop → Prop → Prop} {i : Instr} {n : Nat} {s v : State} {r : CmdRef} {f : State → Nat → State}
    (own : ∀ v m, OnlySlot m v (f v m)) (rule : ∀ (v : State) (R : Prop), R → Q (v.time.cnt / 2) (v.loop n) ((f v n).loop n) R)
    (run : exec i s = .next (v.onPair f n r)) (eq : ∃ m, v = s.withCmd m) : PairDone Q i n s (v, r) := by
  obtain ⟨m, rfl⟩ := eq
  have slot := State.foldl_pairOf own (s.withCmd m) n
  exact ⟨_, run, (congrArg (fun x => Q (s.time.cnt / 2) (s.loop n) x _) slot.1).mpr (rule (s.withCmd m) _ slot.2)⟩

/-- A command of a slot and its channel B that starts with its checks passed. -/
theorem exec_onPair {Q : Nat → Loop → Loop → Prop → Prop} {i : Instr} {s : State} {c : Nat} {p : Packet} {op n : Nat} {checks : Option Status}
    {f : State → Nat → State} (own : ∀ v m, OnlySlot m v (f v m))
    (rule : ∀ (v : State) (R : Prop), R → Q (v.time.cnt / 2) (v.loop n) ((f v n).loop n) R)
    (meaning : exec i s = .next (s.command c p op (s.ctx c).cls checks (State.onPair f n)))
    (starts : s.Starts c p op) (checked : checks = none) : PairDone Q i n s (s.begin_ c p (s.ctx c).cls) :=
  pairDone own rule (exec_of_command meaning starts checked) (State.begin_frame ..)

/-! ## CTE_OPEN and CTE_CLOSE -/

/-- CLOSING goes back to OPEN, and CLOSED opens at the next latch. -/
def Reopens (_ : Nat) (l u : Loop) (R : Prop) : Prop :=
  (l.state = .closing → u = { l with state := .open_ }) ∧ (l.state = .closed → u = { l with opening := true }) ∧ (l.state = .open_ → u = l) ∧ R

/-- What CTE_OPEN does to a slot by its state. -/
noncomputable def State.reopen (s : State) (n : Nat) : LoopState → State
  | .closing => s.setLoop n { s.loop n with state := .open_ }
  | .closed => s.setLoop n { s.loop n with opening := true }
  | _ => s

theorem State.reopen_onlySlot (s : State) (n : Nat) (x : LoopState) : OnlySlot n s (s.reopen n x) := by
  cases x with
  | closing => exact .setLoop
  | closed => exact .setLoop
  | off => exact .refl
  | open_ => exact .refl
  | fault => exact .refl

theorem State.reopens (n : Nat) (v : State) (R : Prop) (rest : R) :
    Reopens (v.time.cnt / 2) (v.loop n) ((v.reopen n (v.loop n).state).loop n) R := by
  have by_ {x : LoopState} := congrArg (a₁ := (v.loop n).state) (a₂ := x) fun x => (v.reopen n x).loop n
  exact ⟨fun h => (by_ h).trans (v.loop_setLoop_self n _), fun h => (by_ h).trans (v.loop_setLoop_self n _), by_, rest⟩

/-- An OPEN slot without a coefficient write in the cycle of its close starts CLOSING. -/
def Closes (cycle : Nat) (l u : Loop) (R : Prop) : Prop :=
  (l.state = .open_ → (∀ w ∈ l.writes, w.1 ≠ cycle) → u = { l with state := .closing, writes := [], closeSat := false }) ∧
    (l.state ≠ .open_ → u = l) ∧ R

/-- A slot that starts CLOSING, with the coefficient writes `same` of the cycle taken back. -/
noncomputable def Loop.shut (l : Loop) (same : List (Nat × Nat × Word)) : Loop :=
  { same.reverse.foldl (fun (x : Loop) w => x.putCoef w.2.1 w.2.2) l with state := .closing, writes := [], closeSat := false }

/-- An OPEN slot closed in a cycle with the coefficient writes `same`. -/
noncomputable def State.closeWith (s : State) (n : Nat) (same : List (Nat × Nat × Word)) : State :=
  if same ≠ [] ∧ !(s.loop n).chanB then (s.setLoop n ((s.loop n).shut same)).coefRefuse n else s.setLoop n ((s.loop n).shut same)

theorem State.closeSlot_eq (s : State) (n : Nat) :
    s.closeSlot n = if (s.loop n).state ≠ .open_ then s else s.closeWith n ((s.loop n).writes.filter fun w => w.1 == s.time.cnt / 2) := rfl

theorem State.closeSlot_onlySlot (s : State) (n : Nat) : OnlySlot n s (s.closeSlot n) := by
  have refused {u : State} (h : OnlySlot n s u) : OnlySlot n s (u.coefRefuse n) := ⟨congrArg (fun v : State => v.coefRefuse n) h.1, h.2⟩
  rw [State.closeSlot_eq]
  exact ite_of .refl (ite_of (refused .setLoop) .setLoop)

theorem State.closes (n : Nat) (v : State) (R : Prop) (rest : R) : Closes (v.time.cnt / 2) (v.loop n) ((v.closeSlot n).loop n) R := by
  rw [State.closeSlot_eq]
  refine ⟨fun open_ quiet => ?_, fun shut => congrArg (State.loop · n) (if_pos shut), rest⟩
  rw [if_neg (not_not.2 open_), List.filter_eq_nil_iff.2 fun w member same => quiet w member (eq_of_beq same)]
  exact (congrArg (State.loop · n) (if_neg fun some_ => some_.1 rfl)).trans (v.loop_setLoop_self n _)

/-! ## Coefficients -/

/-- A coefficient reads back as its register stores it. -/
theorem Loop.coef_putCoef_self (l : Loop) {i : Nat} (v : Word) (low : 2 ≤ i) (high : i ≤ 13) : (l.putCoef i v).coef i = l.coefWord i v :=
  getD_set_self (Nat.lt_of_lt_of_eq (Nat.sub_lt_left_of_lt_add low (Nat.lt_succ_of_le high)) (List.length_map _).symm) _ 0

/-- No other coefficient changes. -/
theorem Loop.coef_putCoef_ne (l : Loop) {i j : Nat} (v : Word) (low : 2 ≤ i) (named : 2 ≤ j) (high : j ≤ 13) (other : j ≠ i) :
    (l.putCoef i v).coef j = l.coef j := by
  have kept : ((List.range 12).map fun i => l.coefs.getD i 0)[j - 2]? = some (l.coef j) := (List.getElem?_map ..).trans (congrArg (Option.map fun i => l.coefs.getD i 0)
    (List.getElem?_range (Nat.sub_lt_left_of_lt_add named (Nat.lt_succ_of_le high) : j - 2 < 12)))
  exact (congrArg (Option.getD · 0) ((List.getElem?_set_ne fun same => other (tsub_inj_left low named same).symm).trans kept) :)

/-- A slot of the format of `l` whose coefficient `j` reads `w`. -/
def Loop.Reads (l : Loop) (j : Nat) (w : Word) (u : Loop) : Prop := u.fp = l.fp ∧ u.coef j = w

theorem Loop.Reads.start {l u : Loop} {i j : Nat} {v : Word} (same : j = i) (low : 2 ≤ j) (high : j ≤ 13) (fp : u.fp = l.fp) :
    l.Reads j (l.coefWord j v) (u.putCoef i v) := by
  subst same
  exact ⟨fp, (u.coef_putCoef_self v low high).trans (congrArg (fun fp : Bool => if !fp && j < 8 then v &&& 0xFFFFF else v) fp)⟩

theorem Loop.Reads.put {l u : Loop} {i j : Nat} {v w : Word} (h : l.Reads j w u) (low : 2 ≤ i) (named : 2 ≤ j) (high : j ≤ 13)
    (same : j = i → l.coefWord j v = w) : l.Reads j w (u.putCoef i v) :=
  (eq_or_ne j i).elim (fun eq => same eq ▸ .start eq named high h.1) fun other => ⟨h.1, (u.coef_putCoef_ne v low named high other).trans h.2⟩

/-- Coefficients stored from register `a` on. -/
noncomputable def Loop.putCoefs (a n : Nat) (vals : List Word) (l : Loop) : Loop := (List.range n).foldl (fun (l : Loop) i => l.putCoef (a + i) (vals.getD i 0)) l

/-- Those of the range take their words. -/
theorem Loop.putCoefs_inside {a j n : Nat} (vals : List Word) (l : Loop) (low : 2 ≤ a) (named : 2 ≤ j) (high : j ≤ 13) (inside : a ≤ j ∧ j < a + n) :
    l.Reads j (l.coefWord j (vals.getD (j - a) 0)) (l.putCoefs a n vals) :=
  foldl_reaches (f := fun (u : Loop) i => u.putCoef (a + i) (vals.getD i 0)) (S := l.Reads j (l.coefWord j (vals.getD (j - a) 0))) (x := j - a) (P := fun u : Loop => u.fp = l.fp) (fun _ _ h => h)
    (fun _ y h => h.put (low.trans (Nat.le_add_right a y)) named high fun same =>
      congrArg (fun q => l.coefWord j (vals.getD q 0)) (Nat.eq_sub_of_add_eq' same.symm))
    (fun _ h => .start (Nat.add_sub_of_le inside.1).symm named high h) (List.mem_range.2 (Nat.sub_lt_left_of_lt_add inside.1 inside.2)) rfl

/-- The others stay. -/
theorem Loop.putCoefs_outside {a j n : Nat} (vals : List Word) (l : Loop) (low : 2 ≤ a) (named : 2 ≤ j) (high : j ≤ 13)
    (outside : ¬(a ≤ j ∧ j < a + n)) : l.Reads j (l.coef j) (l.putCoefs a n vals) :=
  List.foldlRecOn (motive := l.Reads j (l.coef j)) _ _ ⟨rfl, rfl⟩ fun _ h y listed => h.put (low.trans (Nat.le_add_right a y)) named high fun same =>
    absurd ⟨same ▸ Nat.le_add_right a y, same ▸ Nat.add_lt_add_left (List.mem_range.1 listed) a⟩ outside

/-- What CTE_COEF does to one slot. -/
noncomputable def State.putSlotCoefs (a m : Nat) (vals : List Word) (s : State) (n : Nat) : State := s.setLoop n ((s.loop n).putCoefs a m vals)

/-- The coefficients from register `a` on are stored. -/
def PutsCoefs (a m : Nat) (vals : List Word) (_ : Nat) (l u : Loop) (R : Prop) : Prop :=
  (∀ i, 2 ≤ i → i ≤ 13 → u.coef i = if a ≤ i ∧ i < a + m then l.coefWord i (vals.getD (i - a) 0) else l.coef i) ∧ u.state = l.state ∧ R

theorem Loop.putsCoefs {a : Nat} (low : 2 ≤ a) (m : Nat) (vals : List Word) (cycle : Nat) (l : Loop) {R : Prop} (rest : R) :
    PutsCoefs a m vals cycle l (l.putCoefs a m vals) R :=
  ⟨fun _ named high => iteInduction (motive := (_ = ·)) (fun inside => (Loop.putCoefs_inside vals l low named high inside).2)
    fun outside => (Loop.putCoefs_outside vals l low named high outside).2,
    List.foldlRecOn (motive := fun u : Loop => u.state = l.state) _ _ rfl fun _ h _ _ => h, rest⟩

/-- An accepted CTE_COEF names coefficient registers alone. -/
theorem index_of_chkCteCoef {s : State} {c : Nat} {p : Packet} {h : HostRead} (checked : chkCteCoef s c p h = none) : 2 ≤ u8 p 17 :=
  Nat.not_lt.1 fun low => Option.some_ne_none stBadParam
    ((if_pos (.inr (.inl low))).symm.trans (Option.or_eq_none_iff.1 (Option.orElse_eq_or.symm.trans checked)).2)

/-- A slot with a coefficient written and the writes of its cycle. -/
noncomputable def Loop.written (l : Loop) (i : Nat) (v : Word) (cycle : Nat) : Loop :=
  { l.putCoef i v with writes := (l.writes.filter fun w => w.1 == cycle) ++ [(cycle, i, l.coef i)] }

/-- What a write to a coefficient register does to one slot. -/
noncomputable def State.writeSlotCoef (i : Nat) (v : Word) (s : State) (n : Nat) : State := s.setLoop n ((s.loop n).written i v (s.time.cnt / 2))

/-- A coefficient write that passes. -/
noncomputable def State.writeCoef (s : State) (n i : Nat) (v : Word) : State := (s.pairOf n).foldl (State.writeSlotCoef i v) s

/-- A write to a coefficient register. -/
theorem exec_cteCoefRegWrite {s : State} {n i : Nat} (v : Word) (hp : s.powered = true) (known : n < 64) (low : 2 ≤ i) (high : i ≤ 13) :
    exec (.cteCoefRegWrite n i v) s = .next (if (s.loop n).state ≠ .open_ ∨ (s.loop n).chanB ∨ (s.loop n).coefBad i v then s.coefRefuse n
      else s.writeCoef n i v) := by
  refine congrArg Host.Outcome.next (if_neg (Bool.eq_false_iff.1 (Bool.or_eq_false_iff.2 ⟨congrArg not hp, decide_eq_false fun bad => ?_⟩)))
  exact bad.elim (Nat.not_le.2 known) (·.elim (Nat.not_lt.2 low) (Nat.not_lt.2 high))

/-- The slots replaced. -/
noncomputable def State.withLoops (s : State) (loops : Tbl Loop) : State := { s with cte := { s.cte with loops := loops } }

theorem State.writeCoef_frame (s : State) (n i : Nat) (v : Word) : s.writeCoef n i v = s.withLoops (s.writeCoef n i v).cte.loops :=
  List.foldlRecOn (motive := fun u => u = s.withLoops u.cte.loops) _ _ rfl fun _ same m _ =>
    (congrArg (fun w => State.writeSlotCoef i v w m = s.withLoops (State.writeSlotCoef i v w m).cte.loops) same).mpr rfl

/-- A coefficient is stored. -/
def StoresCoef (i : Nat) (v : Word) (l x : Loop) (R : Prop) : Prop :=
  x.coef i = l.coefWord i v ∧ (∀ j, 2 ≤ j → j ≤ 13 → j ≠ i → x.coef j = l.coef j) ∧ x.state = .open_ ∧ R

theorem Loop.storesCoef {i : Nat} {v : Word} {cycle : Nat} {l x : Loop} (slot : x = l.written i v cycle) (low : 2 ≤ i) (high : i ≤ 13) (open_ : l.state = .open_)
    {R : Prop} (rest : R) : StoresCoef i v l x R := by
  subst slot
  exact ⟨l.coef_putCoef_self v low high, fun j named top other => l.coef_putCoef_ne v low named top other, open_, rest⟩

/-- A coefficient write to an OPEN slot. -/
theorem coefficientStored {s : State} {n i : Nat} {v : Word} (hp : s.powered = true) (known : n < 64) (low : 2 ≤ i) (high : i ≤ 13)
    (open_ : (s.loop n).state = .open_) (chanA : (s.loop n).chanB = false) (good : (s.loop n).coefBad i v = false) :
    ∃ u : State, exec (.cteCoefRegWrite n i v) s = .next u ∧
      StoresCoef i v (s.loop n) (u.loop n) ((∀ k, k ∉ s.pairOf n → u.loop k = s.loop k) ∧ u = s.withLoops u.cte.loops) := by
  have own := State.foldl_pairOf (f := State.writeSlotCoef i v) (fun v m => .setLoop) s n
  refine ⟨s.writeCoef n i v, (exec_cteCoefRegWrite v hp known low high).trans (congrArg Host.Outcome.next (if_neg fun bad => ?_)),
    Loop.storesCoef (own.1.trans (s.loop_setLoop_self n _)) low high open_ ⟨own.2.1, s.writeCoef_frame n i v⟩⟩
  exact bad.elim (· open_) (·.elim (Bool.eq_false_iff.1 chanA) (Bool.eq_false_iff.1 good))

/-- Writes to coefficient registers. -/
theorem coefficientWrites : Claims.CoefficientWrites := fun _ _ _ v hp known low high => ⟨coefficientStored hp known low high,
  fun refused => (exec_cteCoefRegWrite v hp known low high).trans (congrArg Host.Outcome.next (if_pos (refused.imp_right .inr)))⟩

/-! ## The commands -/

/-- A slot that passes the checks belongs to a group. -/
theorem groupOf_of_chkSlot {s : State} {c n : Nat} (checked : chkSlot s c n = none) : ∃ g, s.groupOf n = some g := by
  unfold chkSlot at checked
  cases h : s.groupOf n with
  | some g => exact ⟨g, rfl⟩
  | none =>
    rw [h] at checked
    exact absurd checked (ite_of (P := (· ≠ none)) (Option.some_ne_none _) (Option.some_ne_none _))

/-- The words of a slot and its group, as CTE_QUERY gives them. -/
noncomputable def State.slotWords (n : Nat) (s : State) (q : Option Nat) : List Word := [(s.loop n).stateWord, (s.group (q.getD 0)).word]

theorem queryDone {s v : State} {n : Nat} {r : CmdRef} {q : Option Nat} (run : exec i s = .next (v.replyNow r (v.slotWords n (v.groupOf n))))
    (eq : ∃ m, v = s.withCmd m) (owner : s.groupOf n = q) : exec i s = .next (v.complete r stOk (s.slotWords n q)) := by
  subst owner
  obtain ⟨m, rfl⟩ := eq
  exact run

/-- What CTE_ACK does. -/
noncomputable def State.acked (v : State) (n : Nat) (r : CmdRef) : State := (v.setGroup n { v.group n with ack := true }).replyNow r

theorem ackDone {s v : State} {n : Nat} {r : CmdRef} (run : exec i s = .next (v.acked n r))
    (eq : ∃ m, v = s.withCmd m) : exec i s = .next ((v.setGroup n { s.group n with ack := true }).complete r stOk []) := by
  obtain ⟨m, rfl⟩ := eq
  exact run

theorem cteOpens {s : State} {c : Nat} {p : Packet} :
    s.Starts c p 0x0701 → chkCteOpen s c p = none → PairDone Reopens (.cteOpen c p) (u8 p 16) s (s.begin_ c p (s.ctx c).cls) :=
  exec_onPair (f := fun v m => v.reopen m (v.loop m).state) (fun v m => v.reopen_onlySlot m _) (State.reopens _) rfl

theorem cteCloses {s : State} {c : Nat} {p : Packet} :
    s.Starts c p 0x0702 → chkCteClose s c p = none → PairDone Closes (.cteClose c p) (u8 p 16) s (s.begin_ c p (s.ctx c).cls) :=
  exec_onPair State.closeSlot_onlySlot (State.closes _) rfl

theorem ctePutsCoefs {s : State} {c : Nat} {p : Packet} (d : List Byte) (starts : s.Starts c p 0x0703) (checked : chkCteCoef s c p (.data d) = none) :
    PairDone (PutsCoefs (u8 p 17) (u8 p 18) (leWords d (u8 p 18))) (.cteCoef c p (.data d)) (u8 p 16) s (s.begin_ c p (s.ctx c).cls) :=
  exec_onPair (f := State.putSlotCoefs (u8 p 17) (u8 p 18) (leWords d (u8 p 18))) (fun _ _ => .setLoop)
    (fun v _ rest => (v.loop_setLoop_self _ _).symm ▸ Loop.putsCoefs (index_of_chkCteCoef checked) _ _ _ _ rest) rfl starts checked

theorem cteQueries {s : State} {c : Nat} {p : Packet} (starts : s.Starts c p 0x0704) (checked : chkSlot s c (u8 p 16) = none) :
    ∃ g, s.groupOf (u8 p 16) = some g ∧
      exec (.cteQuery c p) s = .next ((s.begin_ c p (s.ctx c).cls).1.complete (s.begin_ c p (s.ctx c).cls).2 stOk (s.slotWords (u8 p 16) (some g))) :=
  (groupOf_of_chkSlot checked).imp fun _ owner => ⟨owner,
    queryDone (exec_of_command (i := .cteQuery c p) (run := fun v r => v.replyNow r (v.slotWords (u8 p 16) (v.groupOf (u8 p 16)))) rfl starts checked) (State.begin_frame ..) owner⟩

/-- The slot commands. -/
theorem loopCommands : Claims.LoopCommands := fun _ _ p => ⟨cteOpens, cteCloses, ctePutsCoefs, cteQueries,
  fun starts checked => ackDone (n := u8 p 16) (exec_of_command (i := .cteAck _ p) (run := fun v r => v.acked (u8 p 16) r) rfl starts checked) (State.begin_frame ..)⟩

/-- Settles O32: an operation on a pair leaves its first slot as the operation on it alone does (`State.foldl_pairOf`). -/
theorem slotCommands : Obligations.SlotCommands := ⟨loopCommands, coefficientWrites⟩

end Sys2Proof.Machine
end
